-- ==== Sys2Proof/Word.lean ====
section
/-!
DEFINITION. The word types of the AZ9 and the sparse table type that State is built from.
Widths: R3, R11, R95, R127, R142, R193.
-/
namespace Sys2Proof

/-- One byte of memory (R3). -/
abbrev Byte := BitVec 8

/-- A 32-bit lane, mask or uniform value (R126). -/
abbrev Word := BitVec 32

/-- A 64-bit scalar register, or a virtual address held in one (R11, R142). -/
abbrev DWord := BitVec 64

/-- A 16-bit logical time (R95). -/
abbrev Time := BitVec 16

/-- A sparse table: values by key, keys strictly rising. A key that is not listed has the table's default. -/
abbrev Tab (α : Type) := List (Nat × α)

end Sys2Proof
end

