-- ==== Sys2Proof/Syntax.lean ====
section
/-!
DEFINITION. The instructions and steps of the AZ9: one constructor of `Instr` per row of spec/opcode_table.json.
Armature words are laid out in R141 to R145, lane words in R146 to R157. The last part of `Instr` holds the part's
own steps (Maquette moves, scheduling, faults, host, management): they have no encoding, and the party, line or
input a step acts on is its argument.
-/
namespace Sys2Proof

/-- s0 to s63 (R142). -/
abbrev SReg := BitVec 6
/-- k0 to k7 (R142). -/
abbrev KReg := BitVec 3
/-- w0 to w15 (R142). -/
abbrev WReg := BitVec 4
/-- q0 to q7 (R149). -/
abbrev QReg := BitVec 3
/-- v0 to v223 (R148). -/
abbrev VReg := Fin 224
/-- o0 to o63 (R249). -/
abbrev Slot := BitVec 6

/-- Scope codes 0 to 3 (R88). -/
inductive Scope where
  | grp | core | dev | sys
deriving DecidableEq, Repr

/-- Order codes 0 to 3 (R91). -/
inductive Order where
  | rlx | acq | rel | ar
deriving DecidableEq, Repr

/-- Kinds of FENCE (R93). -/
inductive FenceKind where
  | full | acq | rel
deriving DecidableEq, Repr

/-- The six counters of a group (R63), in the codes of WS and of WAITP (R147, R181). -/
inductive Counter where
  | ldc | stc | cpc | mxc | rcc | lkc
deriving DecidableEq, Repr

/-- Access sizes of 1, 2, 4, 8 and 16 bytes (R142, R155). -/
inductive Size where
  | b | h | w | d | q
deriving DecidableEq, Repr

/-- Atomic operations 0 to 11 (R108). -/
inductive AtomOp where
  | add | min | minN | max | maxN | and | or | xor | xchg | cas | fadd | bfadd
deriving DecidableEq, Repr

/-- The arm field of LRUN and LFORK (R128, R131). -/
inductive ArmSel where
  | none | a0 | a1
deriving DecidableEq, Repr

/-- Slot formats (R250). -/
inductive SlotFmt where
  | e4m3 | e5m2 | bf16 | acc
deriving DecidableEq, Repr

/-- The control registers of R185. -/
inductive CReg where
  | ctx | cyc | fring | frpos | fhnd | errlog | pts | lease | tick | rhor | lkquota | srseed | band | bandmax
  | evsel (n : BitVec 3) | evcnt (n : BitVec 3)
deriving DecidableEq, Repr

/-- The items of a tensor monitor (R265). -/
inductive TmItem where
  | cfg | lo | hi | nancnt | flagcnt | clear | bin (n : BitVec 5)
deriving DecidableEq, Repr

/-- A lane guard: the q register and whether it is inverted (R149). -/
structure Guard where
  inv : Bool
  q   : QReg
deriving DecidableEq, Repr

/-- The guard and wait fields that most lane words carry (R149, R152). -/
structure Ctl where
  guard : Option Guard
  wait  : Option (Counter × BitVec 2)
deriving DecidableEq, Repr

/-- A source operand code (R148). -/
inductive Src where
  | v (r : VReg) | w (r : WReg) | lane | group | team | role
deriving DecidableEq, Repr

/-- A source with the floating-point modifiers of R150. -/
structure MSrc where
  src : Src
  neg : Bool
  abs : Bool
deriving DecidableEq, Repr

/-- Rounding modes (R199). -/
inductive Rm where
  | rne | rz | rd | ru | sr
deriving DecidableEq, Repr

/-- Clamp, destination scale and rounding mode of a floating-point instruction (R147, R150, R153). -/
structure FOpt where
  clp : Bool
  scl : BitVec 4
  rm  : Rm
deriving DecidableEq, Repr

/-- The types of VCMP, VSCAN, VRED and VREDS (R216, R225). -/
inductive CmpTy where
  | f32 | i32 | n32
deriving DecidableEq, Repr

/-- Conditions of VCMP (R216). -/
inductive Cond where
  | eq | ne | lt | le | gt | ge | ord | uno
deriving DecidableEq, Repr

/-- Lane type codes (R153). -/
inductive LTy where
  | f32 | bf16 | e4m3 | e5m2 | i8 | i16 | i32 | n8 | n16 | n32
deriving DecidableEq, Repr

/-- The packed types of VPACK and VUNPK (R222). -/
inductive PTy where
  | bf16 | e4m3 | e5m2
deriving DecidableEq, Repr

/-- The FP8 types of MMA and VSCLQ (R223, R257). -/
inductive F8 where
  | e4m3 | e5m2
deriving DecidableEq, Repr

/-- Operations of VSCAN, VRED and VREDS (R225). -/
inductive ScanOp where
  | add | min | max | and | or | xor
deriving DecidableEq, Repr

/-- A lane memory operand [wB+va+off]: the even uniform pair, the index and the signed offset (R155). -/
structure MemOp where
  pair : BitVec 3
  va   : Src
  off  : BitVec 24
deriving DecidableEq, Repr

/-- A scratchpad operand [va+off] (R15, R155). -/
structure ScrOp where
  va  : Src
  off : BitVec 24
deriving DecidableEq, Repr

/-- The memory operand of VATOM and VREDM, whose offset has 21 bits (R110). -/
structure AtomMem where
  pair : BitVec 3
  va   : Src
  off  : BitVec 21
deriving DecidableEq, Repr

/-- The two streams of a group (R92). -/
inductive Stream where
  | arm | lane
deriving DecidableEq, Repr

/-- Where FLOOR is delivered (R98): a core (320 is the host agent) or a Plinth. -/
inductive FloorTarget where
  | core (c : Nat) | plinth (p : Nat)
deriving DecidableEq, Repr

/-- What a sweep visits (R101). -/
inductive SweepTarget where
  | core (c : Nat) | plinth (p : Nat) | die (d : Nat)
deriving DecidableEq, Repr

/-- Why dirty bytes go home (R79): after a recall, on replacement, for a release or fence. -/
inductive WbWhy where
  | buffer | replace | release
deriving DecidableEq, Repr

/-- A register that REGISTER_WRITE writes (R186, R312, R326, R332). -/
inductive RegTarget where
  | errlog (ctx : Nat) | evsel (core ctx : Nat) (n : BitVec 3) | evcnt (core : Nat) (n : BitVec 3)
  | root (ctx : Nat) | fring (ctx : Nat) | fhnd (ctx : Nat) | lkquota (ctx : Nat) | grants (ctx : Nat)
  | savebase (ctx : Nat) | queueBase (q : Nat) | queueBind (q ctx c : Nat) | hdm
deriving DecidableEq, Repr

/-- The victim of an elastic register fill (R292): a register of a group of the core, one of its own or of its handler. -/
structure Victim where
  group : Nat
  reg   : Nat
  own   : Bool
deriving DecidableEq, Repr

/-- Where a 32-byte sector of an array stands (R59, R60): at home (L2, LLC or DRAM, by physical address / 32), in a copy of a
line (sector 0 to 3) in an L1, a read-only cache, an RDC or an instruction cache, in a TLB, in a team's scratchpad, in a row of a
slot of the operand buffer, or in eight lanes of a vector register. -/
inductive Sector where
  | home (sector : Nat)
  | l1 (core line k : Nat) | ro (core ctx line k : Nat) | rdc (die line k : Nat) | code (core line k : Nat) (lane : Bool)
  | tlb (core ctx : Nat) (va : DWord)
  | scratch (team sector : Nat) | slot (team slot row : Nat) | vreg (group reg k : Nat)
deriving DecidableEq, Repr

/-- What the array walk finds in a row (R59, R60). -/
inductive WalkFinding where
  | clean | corrected | uncorrectable (sector : Sector) | dramCorrected
deriving DecidableEq, Repr

/-- What a fabric packet carries (R328). Addresses are local physical addresses. -/
inductive PacketBody where
  | load (pa : BitVec 52) (n : Nat)
  | store (pa : BitVec 52) (bytes : List Byte)
  | atomic (pa : BitVec 52) (op : AtomOp) (n : Nat) (b c : DWord)
  | copyData (pa : BitVec 52) (bytes : List Byte)
  | fred (tag : BitVec 16) (count : Nat) (ty : BitVec 4) (x : BitVec 8) (contribs : BitVec 8) (root : BitVec 8)
      (elems : List Word)
  | directory (pa : BitVec 52) (held : Bool)
deriving DecidableEq, Repr

/-- An access whose packet a port loses as it goes down (R328): the oldest load or store of a stream of a group; the fetch of its next
Armature word or of a part of a cursor's next word; the table read of a cursor's token; the load that a copy command or a LAUNCH makes
at issue; a line that a copy reads or writes; what a reduction sends to the switches or gets from them; the part's write of a
grid's completion word or its read of a dependence; or a request of the host or of a peer. -/
inductive LostAccess where
  | load (g : Nat) (st : Stream) | store (g : Nat) (st : Stream)
  | fetchA (g : Nat) | fetchL (g : Nat) (cur : Bool) (part : BitVec 2) | table (g : Nat) (cur : Bool) | issue (g : Nat)
  | copyRead (core : Nat) (id : BitVec 16) (va : DWord) | copyWrite (core : Nat) (id : BitVec 16) (line : Nat)
  | contribution (core : Nat) (id : BitVec 16)
  | completion (grid : Nat) | dependence (q : Nat)
  | request (req : Nat)
deriving DecidableEq, Repr

/-- A flit of a port (R328). -/
structure PortFlit where
  port : Nat
  flit : Nat
deriving DecidableEq, Repr

/-- A port and the accesses that it loses. -/
structure PortLoss where
  port : Nat
  lost : List LostAccess
deriving DecidableEq, Repr

/-- A fabric packet: the context generation it names and the fabric numbers of its ends (R328, R329). -/
structure Packet where
  ctx  : Nat
  gen  : BitVec 12
  src  : BitVec 8
  dst  : BitVec 8
  body : PacketBody
deriving DecidableEq, Repr

/-- Every instruction and step of the AZ9, one constructor per row of the opcode table. -/
inductive Instr where
  -- Register ALU (R167, R168)
  | sadd (d a b : SReg) | ssub (d a b : SReg) | smul (d a b : SReg) | smulh (d a b : SReg) | smulhn (d a b : SReg)
  | sdiv (d a b : SReg) | sdivn (d a b : SReg) | srem (d a b : SReg) | sremn (d a b : SReg)
  | sand (d a b : SReg) | sor (d a b : SReg) | sxor (d a b : SReg)
  | sshl (d a b : SReg) | sshr (d a b : SReg) | ssra (d a b : SReg)
  | smin (d a b : SReg) | smax (d a b : SReg) | sminn (d a b : SReg) | smaxn (d a b : SReg)
  | sslt (d a b : SReg) | ssltn (d a b : SReg)
  -- Immediate ALU (R169)
  | saddi (d a : SReg) (imm : BitVec 14) | sandi (d a : SReg) (imm : BitVec 14) | sori (d a : SReg) (imm : BitVec 14)
  | sxori (d a : SReg) (imm : BitVec 14)
  | sshli (d a : SReg) (n : BitVec 6) | sshri (d a : SReg) (n : BitVec 6) | ssrai (d a : SReg) (n : BitVec 6)
  | sslti (d a : SReg) (imm : BitVec 14)
  -- Upper immediates (R170), branches (R171), jumps (R172)
  | slui (d : SReg) (imm : BitVec 20) | saui (d : SReg) (imm : BitVec 20)
  | sbeq (a b : SReg) (off : BitVec 14) | sbne (a b : SReg) (off : BitVec 14) | sblt (a b : SReg) (off : BitVec 14)
  | sbge (a b : SReg) (off : BitVec 14) | sbltn (a b : SReg) (off : BitVec 14) | sbgen (a b : SReg) (off : BitVec 14)
  | sjal (d : SReg) (imm : BitVec 20) | sjr (d a : SReg)
  -- Armature memory (R238 to R240), fence (R173)
  | sld (d a : SReg) (sz : Size) (sc : Scope) (od : Order) (imm : BitVec 7)
  | sst (b a : SReg) (sz : Size) (sc : Scope) (od : Order) (imm : BitVec 7)
  | samo (d a b : SReg) (op : AtomOp) (sc : Scope) (od : Order)
  | roinv
  | fence (sc : Scope) (kind : FenceKind)
  -- Tokens, forks, return queue, uniforms, masks, waits (R174 to R181)
  | lrun (k : KReg) (arm : ArmSel) (t : SReg) (block : BitVec 15)
  | lfork (k : KReg) (arm : ArmSel)
  | ljoin
  | lcond (d : KReg) | lgetv (d : SReg) (signed : Bool)
  | setw (d : WReg) (a : SReg) (pair : Bool)
  | kand (d a b : KReg) | kor (d a b : KReg) | kxor (d a b : KReg) | kandn (d a b : KReg) | knot (d a : KReg)
  | kmov (d : KReg) (a : SReg) | kget (d : SReg) (a : KReg) | kpop (d : SReg) (a : KReg)
  | waitc (ldc stc cpc mxc : BitVec 6) | waitp (c : BitVec 3) (a : SReg)
  -- Barriers (R138), launch (R183)
  | barr (d : SReg) (i : BitVec 14) | bara (d : SReg) (i : BitVec 14) | barw (d a : SReg) (i : BitVec 14)
  | barrierWaitEnd (g : Nat)
  | launch (d a b : SReg)
  -- Recasts (R29)
  | rxch (x y n : SReg) | rcat (x y n : SReg) | rspl (x y n : SReg) | rprm (x y n : SReg)
  | rals (x y n : SReg) | ralsRw (x y n : SReg) | runm (x n : SReg) | rpin (x n : SReg) | rupn (x n : SReg)
  | rqry (d a : SReg) | rmap (d a b : SReg)
  -- Copy engine (R269)
  | cpy (d a : SReg) | cpys (d a : SReg) | cpyw (d a : SReg) | gath (d a : SReg) | scat (d a : SReg)
  | cpyob (d a : SReg) | fred (d a : SReg) | cpyq (d a : SReg)
  -- Slots (R251, R252), control registers (R185, R186), system (R188 to R192), monitors (R267)
  | obres (d a : SReg) (n : Slot) (fmt : SlotFmt) | obrel (n : Slot)
  | crd (d : SReg) (r : CReg) | cwr (r : CReg) (a : SReg)
  | trap (a : SReg) | eret | yield | exit
  | tmset (n : BitVec 4) (item : TmItem) (a : SReg)
  | tmClear (core ctx : Nat) (n : BitVec 4)
  | tmget (d : SReg) (n : BitVec 4) (item : TmItem)
  | halt
  -- Lane floating point (R213 to R215)
  | vadd (c : Ctl) (d : VReg) (a b : MSrc) (o : FOpt) | vsub (c : Ctl) (d : VReg) (a b : MSrc) (o : FOpt)
  | vmul (c : Ctl) (d : VReg) (a b : MSrc) (o : FOpt) | vfma (c : Ctl) (d : VReg) (a b e : MSrc) (o : FOpt)
  | vmin (c : Ctl) (d : VReg) (a b : MSrc) (clp : Bool) | vmax (c : Ctl) (d : VReg) (a b : MSrc) (clp : Bool)
  | vrcp (c : Ctl) (d : VReg) (a : MSrc) (o : FOpt) | vrsq (c : Ctl) (d : VReg) (a : MSrc) (o : FOpt)
  | vexp2 (c : Ctl) (d : VReg) (a : MSrc) (o : FOpt) | vlog2 (c : Ctl) (d : VReg) (a : MSrc) (o : FOpt)
  | vflr (c : Ctl) (d : VReg) (a : MSrc) (o : FOpt)
  | vcmp (c : Ctl) (q : QReg) (ty : CmpTy) (cond : Cond) (a b : MSrc)
  | vsel (c : Ctl) (d : VReg) (a b : Src) (q : QReg)
  -- Lane integer (R218, R219)
  | viadd (c : Ctl) (d : VReg) (a b : Src) | visub (c : Ctl) (d : VReg) (a b : Src) | vimul (c : Ctl) (d : VReg) (a b : Src)
  | vimulh (c : Ctl) (d : VReg) (a b : Src) | vimulhn (c : Ctl) (d : VReg) (a b : Src)
  | vimad (c : Ctl) (d : VReg) (a b e : Src)
  | vand (c : Ctl) (d : VReg) (a b : Src) | vor (c : Ctl) (d : VReg) (a b : Src) | vxor (c : Ctl) (d : VReg) (a b : Src)
  | vshl (c : Ctl) (d : VReg) (a b : Src) | vshr (c : Ctl) (d : VReg) (a b : Src) | vsra (c : Ctl) (d : VReg) (a b : Src)
  | vimin (c : Ctl) (d : VReg) (a b : Src) | vimax (c : Ctl) (d : VReg) (a b : Src)
  | viminn (c : Ctl) (d : VReg) (a b : Src) | vimaxn (c : Ctl) (d : VReg) (a b : Src)
  | vpopc (c : Ctl) (d : VReg) (a : Src) | vclz (c : Ctl) (d : VReg) (a : Src)
  | vbfe (c : Ctl) (d : VReg) (a b e : Src) (sx : Bool)
  -- Moves and conversions (R220 to R223)
  | vmov (c : Ctl) (d : VReg) (a : Src) | vmovi (c : Ctl) (d : VReg) (imm : Word)
  | vcvt (c : Ctl) (d : VReg) (a : Src) (src dst : LTy) (sat : Bool) (rm : Rm)
  | vpack (c : Ctl) (d : VReg) (a b : Src) (ty : PTy) (h : Bool) (sat : Bool) (rm : Rm)
  | vunpk (c : Ctl) (d : VReg) (a : Src) (ty : PTy) (i : BitVec 2)
  | vsclq (c : Ctl) (d : VReg) (a : VReg) (ty : F8)
  -- Cross-lane (R224 to R229)
  | vshfl (c : Ctl) (d : VReg) (a b : Src) | vshup (c : Ctl) (d : VReg) (a b : Src) (n : BitVec 5)
  | vshdn (c : Ctl) (d : VReg) (a b : Src) (n : BitVec 5) | vshxr (c : Ctl) (d : VReg) (a : Src) (m : BitVec 5)
  | vscan (c : Ctl) (d : VReg) (a : Src) (op : ScanOp) (ty : CmpTy) (rm : Rm)
  | vred (c : Ctl) (d : VReg) (a : Src) (op : ScanOp) (ty : CmpTy) (rm : Rm)
  | vreds (c : Ctl) (a : Src) (op : ScanOp) (ty : CmpTy) (rm : Rm)
  | vbal (c : Ctl) (q : QReg)
  | vtopk (c : Ctl) (d : VReg) (a b : Src) (k : BitVec 4)
  | vlaunch (c : Ctl) (d : VReg) (m : MemOp) (wq : WReg)
  | lend | vnop (wait : Option (Counter × BitVec 2))
  -- Lane memory (R241 to R246)
  | vld (c : Ctl) (d : VReg) (m : MemOp) (sz : Size) (sx : Bool) (sc : Scope) (od : Order)
  | vst (c : Ctl) (m : MemOp) (v : Src) (sz : Size) (sc : Scope) (od : Order)
  | vldro (c : Ctl) (d : VReg) (m : MemOp) (sz : Size) (sx : Bool)
  | vpf (c : Ctl) (m : MemOp) (sc : Scope)
  | vsld (c : Ctl) (d : VReg) (m : ScrOp) (sz : Size) (sx : Bool) (sc : Scope) (od : Order)
  | vsst (c : Ctl) (m : ScrOp) (v : Src) (sz : Size) (sc : Scope) (od : Order)
  | vatom (c : Ctl) (d : VReg) (m : AtomMem) (v : Src) (op : AtomOp) (sc : Scope) (od : Order)
  | vredm (c : Ctl) (m : AtomMem) (v : Src) (op : AtomOp) (sc : Scope) (od : Order)
  | lkl (c : Ctl) (d : VReg) (m : MemOp) (t : Option WReg) | ulk (c : Ctl) (m : MemOp)
  -- Matrix unit (R257 to R264)
  | mma (c : Ctl) (d : Slot) (a : VReg) (s : Src) (b : Slot) (ty : F8) (ru : Bool)
  | mmab (c : Ctl) (d : Slot) (a : VReg) (s : Src) (b : Slot) (ru : Bool)
  | mzero (c : Ctl) (d : Slot)
  | mdrn (c : Ctl) (a : VReg) (s : Slot) (g : BitVec 2) (n : BitVec 4)
  | mdst (c : Ctl) (m : MemOp) (s : Slot) (n : BitVec 4) (bf16 : Bool) (sc : Scope) (od : Order)
  | mpois (c : Ctl) (q : QReg) (s : Slot) (clr : Bool)
  | matrixPerform (core : Nat)
  -- Maquette moves (R73 to R84, R97 to R101, R118, R122)
  | load (g : Nat) (st : Stream) | drain (g : Nat) (st : Stream) | atomic (g : Nat) (st : Stream)
  | renew (core line : Nat) | tick (core : Nat) | floorJump (t : FloorTarget)
  | recall (line : Nat) | writeback (core line : Nat) (why : WbWhy)
  | engineRead (core : Nat) (id : BitVec 16) (va : DWord) | engineWrite (core : Nat) (id : BitVec 16) (line : Nat)
  | tlbRenew (core ctx : Nat) (va : DWord)
  | recast (g : Nat) | grant (line : Nat) | releaseLock (g : Nat) (st : Stream)
  | lockTimeout (g : Nat) | deadlockProbe
  | tokenTake (g : Nat) (cur : Bool) | forkMarkerTake (g : Nat) | joinMarkerTake (g : Nat)
  | completionWordWrite (grid : Nat) | quarantineRelease (ctx : Nat) | sweep (t : SweepTarget)
  -- Faults (R302, R303, R307)
  | faultRecordWrite (g : Nat) | handlerEntry (g : Nat) | watchdog (g : Nat)
  -- Scheduling (R285 to R294)
  | gridStart | queueHeadCheck (q : Nat) | dependenceRead (q : Nat) | place (q : Nat)
  | teamSave (team : Nat) | teamRestore (team core : Nat)
  | groupPending (g : Nat) | timeSliceExpiry (g : Nat) | pendingActivate (core : Nat) | priorityAging (g : Nat)
  | registerFill (g reg : Nat) (victim : Option Victim)
  -- Register writes (R104 to R106, R202, R301, R186)
  | ptsWrite (core : Nat) (v : DWord) | leaseWrite (v : DWord) | tickWrite (v : DWord)
  | srseedWrite (g : Nat) (v : DWord) | frposWrite (ctx : Nat) (v : DWord) | registerWrite (r : RegTarget) (v : DWord)
  -- Host interface (R326, R327, R329, R308)
  | doorbell (q : Nat) (tail : BitVec 32)
  | contextOpen (ctx : Nat) | contextClose (ctx : Nat) | contextReset (ctx : Nat) | closeComplete (ctx : Nat)
  | drainMarkerReturn (ctx : Nat) (gen : BitVec 12)
  | pooladd (ctx : Nat) (pa : DWord) | mapcnt (v : DWord)
  | groupResume (ctx : Nat) (v : DWord) | groupKill (ctx : Nat) (v : DWord)
  -- Management (R314 to R322, R330, R331)
  | bandmaxClear | cool | hold | resume | warm
  | firmwareVerify (image : List Byte) (good : Bool) | attestation (nonce : List Byte)
  | powerOn | powerOff | sensorSample (readings : List (Option (BitVec 12)))
  | clockStep | holdEntry | holdExit | coolingTimeout | soakComplete | trainComplete (failedPairs : List Nat)
  | arrayWalk (f : WalkFinding) | dramRefresh (pair : Nat)
  -- CXL.mem, fabric, pair loss (R325, R328, R329, R278, R61)
  | cxlMemRead (pa : BitVec 52) (n : Nat) | cxlMemWrite (pa : BitVec 52) (bytes : List Byte)
  | fabricPacket (p : Packet) | flitReplay (f : PortFlit) | portDown (l : PortLoss)
  | fredReduce (tag : BitVec 16) | pairLoss (k : Nat) | completionTimeout (req : Nat)
deriving DecidableEq, Repr

end Sys2Proof
end

