-- ==== Sys2Proof/WellFormed.lean ====
section
/-!
DEFINITION. Which terms of `Instr` stand for an encoding that the spec admits, whatever the state. A term that is
not well formed raises ILLEGAL when it issues (R143, R158). Checks that read the state (a role's budget, a slot's
format, the fork state, the reuse latch) are made by the meaning of the instruction.
-/
namespace Sys2Proof

/-- SLD, VLD and VSLD take relaxed or acquire order (R91). -/
def Order.loads : Order → Bool
  | .rlx => true | .acq => true | .rel => false | .ar => false

/-- SST, VST, VSST and MDST take relaxed or release order (R91). -/
def Order.stores : Order → Bool
  | .rlx => true | .acq => false | .rel => true | .ar => false

/-- The number of 32-bit registers that an access of this size covers (R235). -/
def Size.regs : Size → Nat
  | .b => 1 | .h => 1 | .w => 1 | .d => 2 | .q => 4

/-- Sign extension is allowed on bytes and halves only (R155). -/
def Size.sxOk : Size → Bool → Bool
  | .b, _ => true | .h, _ => true | _, sx => !sx

/-- A block of `n` registers from `r` stays within v0 to v223 (R148). -/
def VReg.fits (r : VReg) (n : Nat) : Bool := decide (r.val + n ≤ 224)

/-- Store data: a v register block of the size, or any code for sizes of one register (R235). -/
def Src.stores : Src → Size → Bool
  | .v r, sz => r.fits sz.regs
  | _, sz => sz.regs == 1

/-- An operand with neither modifier (R150). -/
def MSrc.plain (m : MSrc) : Bool := !m.neg && !m.abs

/-- Modifiers only on F32, and ORD and UNO only on F32 (R216). -/
def cmpOk (ty : CmpTy) (cond : Cond) (a b : MSrc) : Bool :=
  match ty with
  | .f32 => true
  | _ => a.plain && b.plain && (match cond with | .ord => false | .uno => false | _ => true)

/-- Bitwise operations only on integers, and rounding only on F32 ADD (R225). -/
def scanOk (op : ScanOp) (ty : CmpTy) (rm : Rm) : Bool :=
  match ty, op with
  | .f32, .add => true
  | .f32, .min => rm == .rne
  | .f32, .max => rm == .rne
  | .f32, _ => false
  | _, _ => rm == .rne

/-- The integer lane types (R153). -/
def LTy.isInt : LTy → Bool
  | .f32 => false | .bf16 => false | .e4m3 => false | .e5m2 => false
  | _ => true

/-- CFG to BIN31, of which CLEAR is written only by TMSET and read as 0 (R265): every item is legal. -/
def TmItem.ok : TmItem → Bool
  | _ => true

/-- The check that an encoding is one the spec admits (R142, R143, R148 to R157). -/
def Instr.wf : Instr → Bool
  | .sld _ _ sz _ od _ => sz != .q && od.loads
  | .sst _ _ sz _ od _ => sz != .q && od.stores
  | .lcond d => d != 0
  | .setw d _ pair => !pair || d.toNat % 2 == 0
  | .kand d _ _ => d != 0
  | .kor d _ _ => d != 0
  | .kxor d _ _ => d != 0
  | .kandn d _ _ => d != 0
  | .knot d _ => d != 0
  | .kmov d _ => d != 0
  | .waitp c _ => c != 0 && c != 7
  | .barr _ i => decide (i.toNat < 16)
  | .bara _ i => decide (i.toNat < 16)
  | .barw _ _ i => decide (i.toNat < 16)
  | .vcmp _ _ ty cond a b => cmpOk ty cond a b
  | .vcvt _ _ _ src dst _ rm => !(src.isInt && dst.isInt) || rm == .rne
  | .vpack _ _ _ _ ty h _ _ => ty != .bf16 || !h
  | .vunpk _ _ _ ty i => ty != .bf16 || decide (i.toNat < 2)
  | .vsclq _ d a _ => d.fits 2 && a.fits 4
  | .vscan _ _ _ op ty rm => scanOk op ty rm
  | .vred _ _ _ op ty rm => scanOk op ty rm
  | .vreds _ _ op ty rm => scanOk op ty rm
  | .vtopk _ d _ _ k => d.fits (2 * (k.toNat + 1))
  | .vld _ d _ sz sx _ od => d.fits sz.regs && sz.sxOk sx && od.loads
  | .vst _ _ v sz _ od => v.stores sz && od.stores
  | .vldro _ d _ sz sx => d.fits sz.regs && sz.sxOk sx
  | .vpf _ _ sc => sc != .sys
  | .vsld _ d _ sz sx _ od => d.fits sz.regs && sz.sxOk sx && od.loads
  | .vsst _ _ v sz _ od => v.stores sz && od.stores
  | .vredm _ _ _ op _ _ => op != .xchg && op != .cas
  | .mma _ _ a _ _ _ _ => a.fits 32
  | .mmab _ _ a _ _ _ => a.fits 32
  | .mdrn _ a _ _ _ => a.fits 32
  | .mdst _ _ _ _ _ _ od => od.stores
  | .tmset _ item _ => item.ok
  | .tmget _ _ item => item.ok
  | _ => true

end Sys2Proof
end

