-- ==== Sys2Proof/Decode.lean ====
section
/-!
DEFINITION. The decoder of both instruction streams, total on any word, which rejects by name; and the encoder,
written from the same encoding tables (R29, R141 to R157 and the entries). Words are read as natural numbers, so
that a field is a quotient and a remainder.
-/
namespace Sys2Proof

/-- Why a word names no instruction. Each case raises ILLEGAL when the word issues (R158). -/
inductive DecodeError where
  | reservedMajor (m : Nat)     -- R144
  | reservedFn (m fn : Nat)     -- R145
  | reservedOpcode (o : Nat)    -- R157
  | unusedField                 -- R143
  | badMask | badUniform        -- R142
  | badSize | badOrder | badOp | badKind | badArm   -- R91, R93, R108, R128, R142
  | badControl                  -- R185
  | badItem                     -- R265
  | badRegister                 -- R148
  | badGuard | badWait          -- R149, R152
  | badPair                     -- R155
  | badType | badRounding       -- R153
  | badSlot                     -- R156
deriving DecidableEq, Repr

/-- Bits hi:lo of a word (R3). -/
def fld (w hi lo : Nat) : Nat := w / 2 ^ lo % 2 ^ (hi + 1 - lo)

/-- The value of a list of bytes, least significant first (R3). -/
def leNat : List Byte → Nat
  | [] => 0
  | b :: bs => b.toNat + 256 * leNat bs

/-- The first `n` bytes of a value, least significant first (R3). -/
def leBytes : Nat → Nat → List Byte
  | 0, _ => []
  | n + 1, v => BitVec.ofNat 8 v :: leBytes n (v / 256)

abbrev Dec := Except DecodeError

/-- `x` if the check holds, else the error. -/
def require {α : Type} (b : Bool) (e : DecodeError) (x : Dec α) : Dec α := if b then x else .error e

def decScope (n : Nat) : Scope :=
  match n with
  | 0 => .grp | 1 => .core | 2 => .dev | _ => .sys

def decOrder (n : Nat) : Order :=
  match n with
  | 0 => .rlx | 1 => .acq | 2 => .rel | _ => .ar

def decSize (n : Nat) : Dec Size :=
  match n with
  | 0 => .ok .b | 1 => .ok .h | 2 => .ok .w | 3 => .ok .d | 4 => .ok .q | _ => .error .badSize

def decAtomOp (n : Nat) : Dec AtomOp :=
  match n with
  | 0 => .ok .add | 1 => .ok .min | 2 => .ok .minN | 3 => .ok .max | 4 => .ok .maxN | 5 => .ok .and | 6 => .ok .or
  | 7 => .ok .xor | 8 => .ok .xchg | 9 => .ok .cas | 10 => .ok .fadd | 11 => .ok .bfadd | _ => .error .badOp

def decArm (n : Nat) : Dec ArmSel :=
  match n with
  | 0 => .ok .none | 1 => .ok .a0 | 2 => .ok .a1 | _ => .error .badArm

def decFenceKind (n : Nat) : Dec FenceKind :=
  match n with
  | 0 => .ok .full | 1 => .ok .acq | 2 => .ok .rel | _ => .error .badKind

def decSlotFmt (n : Nat) : SlotFmt :=
  match n with
  | 0 => .e4m3 | 1 => .e5m2 | 2 => .bf16 | _ => .acc

/-- The control register numbers of R185. -/
def decCReg (n : Nat) : Dec CReg :=
  if 0x040 ≤ n ∧ n < 0x048 then .ok (.evsel (BitVec.ofNat 3 n))
  else if 0x048 ≤ n ∧ n < 0x050 then .ok (.evcnt (BitVec.ofNat 3 n))
  else
    match n with
    | 0x000 => .ok .ctx | 0x001 => .ok .cyc | 0x008 => .ok .fring | 0x009 => .ok .frpos | 0x00A => .ok .fhnd
    | 0x00B => .ok .errlog | 0x010 => .ok .pts | 0x011 => .ok .lease | 0x012 => .ok .tick | 0x013 => .ok .rhor
    | 0x018 => .ok .lkquota | 0x020 => .ok .srseed | 0x030 => .ok .band | 0x031 => .ok .bandmax
    | _ => .error .badControl

/-- The item codes of R265. -/
def decItem (n : Nat) : Dec TmItem :=
  if 32 ≤ n then .ok (.bin (BitVec.ofNat 5 n))
  else
    match n with
    | 0 => .ok .cfg | 1 => .ok .lo | 2 => .ok .hi | 3 => .ok .nancnt | 4 => .ok .flagcnt | 5 => .ok .clear
    | _ => .error .badItem

abbrev sreg (n : Nat) : SReg := BitVec.ofNat 6 n
abbrev kreg (n : Nat) : KReg := BitVec.ofNat 3 n

/-- Major 0x01: the register ALU by fn (R145, R167). -/
def decAlu (fn : Nat) (d a b : SReg) : Dec Instr :=
  match fn with
  | 0x00 => .ok (.sadd d a b) | 0x01 => .ok (.ssub d a b) | 0x02 => .ok (.smul d a b) | 0x03 => .ok (.smulh d a b)
  | 0x04 => .ok (.smulhn d a b) | 0x05 => .ok (.sdiv d a b) | 0x06 => .ok (.sdivn d a b) | 0x07 => .ok (.srem d a b)
  | 0x08 => .ok (.sremn d a b) | 0x09 => .ok (.sand d a b) | 0x0A => .ok (.sor d a b) | 0x0B => .ok (.sxor d a b)
  | 0x0C => .ok (.sshl d a b) | 0x0D => .ok (.sshr d a b) | 0x0E => .ok (.ssra d a b) | 0x0F => .ok (.smin d a b)
  | 0x10 => .ok (.smax d a b) | 0x11 => .ok (.sminn d a b) | 0x12 => .ok (.smaxn d a b) | 0x13 => .ok (.sslt d a b)
  | 0x14 => .ok (.ssltn d a b)
  | _ => .error (.reservedFn 0x01 fn)

/-- Major 0x26: mask logic by fn (R179). -/
def decMask (d a b fn : Nat) : Dec Instr :=
  require (d < 8 && a < 8 && b < 8) .badMask <|
    match fn with
    | 0 => .ok (.kand (kreg d) (kreg a) (kreg b)) | 1 => .ok (.kor (kreg d) (kreg a) (kreg b))
    | 2 => .ok (.kxor (kreg d) (kreg a) (kreg b)) | 3 => .ok (.kandn (kreg d) (kreg a) (kreg b))
    | 4 => require (b == 0) .unusedField (.ok (.knot (kreg d) (kreg a)))
    | _ => .error (.reservedFn 0x26 fn)

/-- Major 0x38: copy commands by fn (R269). -/
def decCopy (d a : SReg) (b fn : Nat) : Dec Instr :=
  require (b == 0) .unusedField <|
    match fn with
    | 0 => .ok (.cpy d a) | 1 => .ok (.cpys d a) | 2 => .ok (.cpyw d a) | 3 => .ok (.gath d a) | 4 => .ok (.scat d a)
    | 5 => .ok (.cpyob d a) | 6 => .ok (.fred d a)
    | _ => .error (.reservedFn 0x38 fn)

/-- Major 0x3E: system instructions by fn (R145). -/
def decSys (d a b fn : Nat) : Dec Instr :=
  match fn with
  | 0 => require (d == 0 && b == 0) .unusedField (.ok (.trap (sreg a)))
  | 1 => require (d == 0 && a == 0 && b == 0) .unusedField (.ok .eret)
  | 2 => require (d == 0 && a == 0 && b == 0) .unusedField (.ok .yield)
  | 3 => require (d == 0 && a == 0 && b == 0) .unusedField (.ok .exit)
  | 4 => .ok (.rmap (sreg d) (sreg a) (sreg b))
  | 5 => require (d < 16) .badItem <|
      match decItem b with
      | .ok i => .ok (.tmset (BitVec.ofNat 4 d) i (sreg a))
      | .error e => .error e
  | 6 => require (a < 16) .badItem <|
      match decItem b with
      | .ok i => .ok (.tmget (sreg d) (BitVec.ofNat 4 a) i)
      | .error e => .error e
  | 7 => require (d == 0 && a == 0 && b == 0) .unusedField (.ok .halt)
  | _ => .error (.reservedFn 0x3E fn)

/-- An Armature word (R141 to R145). -/
def decodeArm (w : Nat) : Dec Instr :=
  let d := fld w 25 20
  let a := fld w 19 14
  let b := fld w 13 8
  let fn := fld w 7 0
  let imm := BitVec.ofNat 14 (fld w 13 0)
  let imm20 := BitVec.ofNat 20 (fld w 19 0)
  match fld w 31 26 with
  | 0x01 => decAlu fn (sreg d) (sreg a) (sreg b)
  | 0x02 => .ok (.saddi (sreg d) (sreg a) imm)
  | 0x03 => .ok (.sandi (sreg d) (sreg a) imm)
  | 0x04 => .ok (.sori (sreg d) (sreg a) imm)
  | 0x05 => .ok (.sxori (sreg d) (sreg a) imm)
  | 0x06 => require (fld w 13 6 == 0) .unusedField (.ok (.sshli (sreg d) (sreg a) (BitVec.ofNat 6 (fld w 5 0))))
  | 0x07 => require (fld w 13 6 == 0) .unusedField (.ok (.sshri (sreg d) (sreg a) (BitVec.ofNat 6 (fld w 5 0))))
  | 0x08 => require (fld w 13 6 == 0) .unusedField (.ok (.ssrai (sreg d) (sreg a) (BitVec.ofNat 6 (fld w 5 0))))
  | 0x09 => .ok (.sslti (sreg d) (sreg a) imm)
  | 0x0A => .ok (.slui (sreg d) imm20)
  | 0x0B => .ok (.saui (sreg d) imm20)
  | 0x10 => .ok (.sbeq (sreg d) (sreg a) imm)
  | 0x11 => .ok (.sbne (sreg d) (sreg a) imm)
  | 0x12 => .ok (.sblt (sreg d) (sreg a) imm)
  | 0x13 => .ok (.sbge (sreg d) (sreg a) imm)
  | 0x14 => .ok (.sbltn (sreg d) (sreg a) imm)
  | 0x15 => .ok (.sbgen (sreg d) (sreg a) imm)
  | 0x16 => .ok (.sjal (sreg d) imm20)
  | 0x17 => require (b == 0 && fn == 0) .unusedField (.ok (.sjr (sreg d) (sreg a)))
  | 0x18 =>
      match decSize (fld w 13 11) with
      | .ok sz => .ok (.sld (sreg d) (sreg a) sz (decScope (fld w 10 9)) (decOrder (fld w 8 7)) (BitVec.ofNat 7 (fld w 6 0)))
      | .error e => .error e
  | 0x19 =>
      match decSize (fld w 13 11) with
      | .ok sz => .ok (.sst (sreg d) (sreg a) sz (decScope (fld w 10 9)) (decOrder (fld w 8 7)) (BitVec.ofNat 7 (fld w 6 0)))
      | .error e => .error e
  | 0x1A =>
      match decAtomOp (fld w 7 4) with
      | .ok op => .ok (.samo (sreg d) (sreg a) (sreg b) op (decScope (fld w 3 2)) (decOrder (fld w 1 0)))
      | .error e => .error e
  | 0x1B => require (d == 0 && a == 0 && b == 0 && fn == 0) .unusedField (.ok .roinv)
  | 0x1C => require (d == 0 && a == 0 && b == 0 && fld w 7 4 == 0) .unusedField <|
      match decFenceKind (fld w 1 0) with
      | .ok k => .ok (.fence (decScope (fld w 3 2)) k)
      | .error e => .error e
  | 0x20 =>
      match decArm (fld w 22 21) with
      | .ok arm => .ok (.lrun (kreg (fld w 25 23)) arm (sreg (fld w 20 15)) (BitVec.ofNat 15 (fld w 14 0)))
      | .error e => .error e
  | 0x21 => require (fld w 20 0 == 0) .unusedField <|
      match decArm (fld w 22 21) with
      | .ok arm => .ok (.lfork (kreg (fld w 25 23)) arm)
      | .error e => .error e
  | 0x22 => require (d == 0 && a == 0 && b == 0 && fn == 0) .unusedField (.ok .ljoin)
  | 0x23 => require (a == 0 && b == 0 && fn == 0) .unusedField (require (d < 8) .badMask (.ok (.lcond (kreg d))))
  | 0x24 => require (a == 0 && b == 0 && fn < 2) .unusedField (.ok (.lgetv (sreg d) (fn == 1)))
  | 0x25 => require (b == 0 && fn < 2) .unusedField
      (require (d < 16) .badUniform (.ok (.setw (BitVec.ofNat 4 d) (sreg a) (fn == 1))))
  | 0x26 => decMask d a b fn
  | 0x27 => require (b == 0 && fn == 0) .unusedField (require (d < 8) .badMask (.ok (.kmov (kreg d) (sreg a))))
  | 0x28 => require (b == 0 && fn == 0) .unusedField (require (a < 8) .badMask (.ok (.kget (sreg d) (kreg a))))
  | 0x29 => require (b == 0 && fn == 0) .unusedField (require (a < 8) .badMask (.ok (.kpop (sreg d) (kreg a))))
  | 0x2A => require (fld w 1 0 == 0) .unusedField
      (.ok (.waitc (BitVec.ofNat 6 d) (BitVec.ofNat 6 a) (BitVec.ofNat 6 b) (BitVec.ofNat 6 (fld w 7 2))))
  | 0x2B => require (d == 0 && b == 0 && fld w 7 3 == 0) .unusedField
      (.ok (.waitp (BitVec.ofNat 3 (fld w 2 0)) (sreg a)))
  | 0x2C => require (a == 0) .unusedField (.ok (.barr (sreg d) imm))
  | 0x2D => require (a == 0) .unusedField (.ok (.bara (sreg d) imm))
  | 0x2E => .ok (.barw (sreg d) (sreg a) imm)
  | 0x2F => require (fn == 0) .unusedField (.ok (.launch (sreg d) (sreg a) (sreg b)))
  | 0x30 => require (fn == 0) .unusedField (.ok (.rxch (sreg a) (sreg b) (sreg d)))
  | 0x31 => require (fn == 0) .unusedField (.ok (.rcat (sreg a) (sreg b) (sreg d)))
  | 0x32 => require (fn == 0) .unusedField (.ok (.rspl (sreg a) (sreg b) (sreg d)))
  | 0x33 => require (fn == 0) .unusedField (.ok (.rprm (sreg a) (sreg b) (sreg d)))
  | 0x34 =>
      match fn with
      | 0 => .ok (.rals (sreg a) (sreg b) (sreg d))
      | 1 => .ok (.ralsRw (sreg a) (sreg b) (sreg d))
      | _ => .error (.reservedFn 0x34 fn)
  | 0x35 => require (b == 0 && fn == 0) .unusedField (.ok (.runm (sreg a) (sreg d)))
  | 0x36 => require (b == 0) .unusedField <|
      match fn with
      | 0 => .ok (.rpin (sreg a) (sreg d))
      | 1 => .ok (.rupn (sreg a) (sreg d))
      | _ => .error (.reservedFn 0x36 fn)
  | 0x37 => require (b == 0 && fn == 0) .unusedField (.ok (.rqry (sreg d) (sreg a)))
  | 0x38 => decCopy (sreg d) (sreg a) b fn
  | 0x39 => require (b == 0 && fn == 0) .unusedField (.ok (.cpyq (sreg d) (sreg a)))
  | 0x3A => require (b == 0) .unusedField
      (.ok (.obres (sreg d) (sreg a) (BitVec.ofNat 6 (fld w 7 2)) (decSlotFmt (fld w 1 0))))
  | 0x3B => require (d == 0 && a == 0 && b == 0 && fld w 1 0 == 0) .unusedField
      (.ok (.obrel (BitVec.ofNat 6 (fld w 7 2))))
  | 0x3C => require (a == 0) .unusedField <|
      match decCReg (fld w 13 0) with
      | .ok r => .ok (.crd (sreg d) r)
      | .error e => .error e
  | 0x3D => require (d == 0) .unusedField <|
      match decCReg (fld w 13 0) with
      | .ok r => .ok (.cwr r (sreg a))
      | .error e => .error e
  | 0x3E => decSys d a b fn
  | m => .error (.reservedMajor m)

/-! ## Lane words (R146 to R157) -/

/-- A source code: 0x00 to 0xDF v, 0xE0 to 0xEF w, 0xF0 to 0xF3 special (R148). -/
def decSrc (n : Nat) : Dec Src :=
  if h : n < 224 then .ok (.v ⟨n, h⟩)
  else if n < 240 then .ok (.w (BitVec.ofNat 4 n))
  else
    match n with
    | 0xF0 => .ok .lane | 0xF1 => .ok .group | 0xF2 => .ok .team | 0xF3 => .ok .role
    | _ => .error .badRegister

def decV (n : Nat) : Dec VReg := if h : n < 224 then .ok ⟨n, h⟩ else .error .badRegister

/-- The even uniform codes 0xE0 to 0xEE name pair 0 to 7 (R155). -/
def decPair (n : Nat) : Dec (BitVec 3) :=
  if 224 ≤ n ∧ n < 240 ∧ n % 2 = 0 then .ok (BitVec.ofNat 3 ((n - 224) / 2)) else .error .badPair

/-- A uniform code (R112, R230). -/
def decW (n : Nat) : Dec WReg := if 224 ≤ n ∧ n < 240 then .ok (BitVec.ofNat 4 n) else .error .badRegister

/-- A slot in bits 5:0 of a register field (R156). -/
def decSlot (n : Nat) : Dec Slot := if n < 64 then .ok (BitVec.ofNat 6 n) else .error .badSlot

def decGuard (ge gi gq : Nat) : Dec (Option Guard) :=
  if ge = 1 then .ok (some ⟨gi == 1, BitVec.ofNat 3 gq⟩)
  else if gi = 0 ∧ gq = 0 then .ok none else .error .badGuard

def decWait (ws wt : Nat) : Dec (Option (Counter × BitVec 2)) :=
  let t := BitVec.ofNat 2 wt
  match ws with
  | 0 => if wt = 0 then .ok none else .error .badWait
  | 1 => .ok (some (.ldc, t)) | 2 => .ok (some (.stc, t)) | 3 => .ok (some (.cpc, t))
  | 4 => .ok (some (.mxc, t)) | 5 => .ok (some (.rcc, t)) | 6 => .ok (some (.lkc, t))
  | _ => .error .badWait

def decRm (n : Nat) : Dec Rm :=
  match n with
  | 0 => .ok .rne | 1 => .ok .rz | 2 => .ok .rd | 3 => .ok .ru | 4 => .ok .sr | _ => .error .badRounding

def decLTy (n : Nat) : Dec LTy :=
  match n with
  | 0 => .ok .f32 | 1 => .ok .bf16 | 2 => .ok .e4m3 | 3 => .ok .e5m2 | 4 => .ok .i8 | 5 => .ok .i16 | 6 => .ok .i32
  | 8 => .ok .n8 | 9 => .ok .n16 | 10 => .ok .n32 | _ => .error .badType

def decCmpTy (n : Nat) : Dec CmpTy :=
  match n with
  | 0 => .ok .f32 | 6 => .ok .i32 | 10 => .ok .n32 | _ => .error .badType

def decCond (n : Nat) : Dec Cond :=
  match n with
  | 0 => .ok .eq | 1 => .ok .ne | 2 => .ok .lt | 3 => .ok .le | 4 => .ok .gt | 5 => .ok .ge | 6 => .ok .ord
  | 7 => .ok .uno | _ => .error .badOp

def decPTy (n : Nat) : Dec PTy :=
  match n with
  | 1 => .ok .bf16 | 2 => .ok .e4m3 | 3 => .ok .e5m2 | _ => .error .badType

def decF8 (n : Nat) : Dec F8 :=
  match n with
  | 2 => .ok .e4m3 | 3 => .ok .e5m2 | _ => .error .badType

def decScanOp (n : Nat) : Dec ScanOp :=
  match n with
  | 0 => .ok .add | 1 => .ok .min | 2 => .ok .max | 3 => .ok .and | 4 => .ok .or | 5 => .ok .xor | _ => .error .badOp

/-- The modified operands a, b and c (R147, R150). -/
def decMA (w : Nat) : Dec MSrc := do return ⟨← decSrc (fld w 77 70), fld w 53 53 == 1, fld w 52 52 == 1⟩
def decMB (w : Nat) : Dec MSrc := do return ⟨← decSrc (fld w 69 62), fld w 51 51 == 1, fld w 50 50 == 1⟩
def decMC (w : Nat) : Dec MSrc := do return ⟨← decSrc (fld w 61 54), fld w 49 49 == 1, fld w 48 48 == 1⟩

def decFOpt (w : Nat) : Dec FOpt := do return ⟨fld w 47 47 == 1, BitVec.ofNat 4 (fld w 46 43), ← decRm (fld w 2 0)⟩

def decMem (w : Nat) : Dec MemOp := do
  return ⟨← decPair (fld w 69 62), ← decSrc (fld w 77 70), BitVec.ofNat 24 (fld w 23 0)⟩

def decScr (w : Nat) : Dec ScrOp := do return ⟨← decSrc (fld w 77 70), BitVec.ofNat 24 (fld w 23 0)⟩

def decAtomMem (w : Nat) : Dec AtomMem := do
  return ⟨← decPair (fld w 69 62), ← decSrc (fld w 77 70), BitVec.ofNat 21 (fld w 20 0)⟩

/-- Bits hi:lo are zero, or the word is refused (R143). -/
def zero (w hi lo : Nat) : Dec Unit := if fld w hi lo = 0 then .ok () else .error .unusedField

/-- No register field c, modifier, clamp, scale or reuse: bits 61:43 and 37 zero. -/
def noModC (w : Nat) : Dec Unit := do zero w 61 43; zero w 37 37
/-- As `noModC`, with register field c in use. -/
def noMod (w : Nat) : Dec Unit := do zero w 53 43; zero w 37 37

def decBin (w : Nat) (mk : VReg → Src → Src → Instr) : Dec Instr := do
  noModC w; zero w 31 0
  return mk (← decV (fld w 85 78)) (← decSrc (fld w 77 70)) (← decSrc (fld w 69 62))

def decUn (w : Nat) (mk : VReg → Src → Instr) : Dec Instr := do
  zero w 69 62; noModC w; zero w 31 0
  return mk (← decV (fld w 85 78)) (← decSrc (fld w 77 70))

def decFBin (w : Nat) (mk : VReg → MSrc → MSrc → FOpt → Instr) : Dec Instr := do
  zero w 61 54; zero w 49 48; zero w 37 37; zero w 31 3
  return mk (← decV (fld w 85 78)) (← decMA w) (← decMB w) (← decFOpt w)

def decFUn (w : Nat) (mk : VReg → MSrc → FOpt → Instr) : Dec Instr := do
  zero w 69 54; zero w 51 48; zero w 37 37; zero w 31 3
  return mk (← decV (fld w 85 78)) (← decMA w) (← decFOpt w)

def decFMinMax (w : Nat) (mk : VReg → MSrc → MSrc → Bool → Instr) : Dec Instr := do
  zero w 61 54; zero w 49 48; zero w 46 43; zero w 37 37; zero w 31 0
  return mk (← decV (fld w 85 78)) (← decMA w) (← decMB w) (fld w 47 47 == 1)

def decShift (w : Nat) (mk : VReg → Src → Src → BitVec 5 → Instr) : Dec Instr := do
  noModC w; zero w 31 21; zero w 15 0
  return mk (← decV (fld w 85 78)) (← decSrc (fld w 77 70)) (← decSrc (fld w 69 62)) (BitVec.ofNat 5 (fld w 20 16))

def decScanFields (w : Nat) : Dec (ScanOp × CmpTy × Rm) := do
  zero w 69 62; noModC w; zero w 31 19; zero w 11 3
  return (← decScanOp (fld w 18 16), ← decCmpTy (fld w 15 12), ← decRm (fld w 2 0))

/-- A lane word of 96 bits (R146 to R157), after its guard and wait fields are read. -/
def decodeLaneOp (w : Nat) (c : Ctl) : Dec Instr :=
  match fld w 95 86 with
  | 0x001 => decFBin w (.vadd c)
  | 0x002 => decFBin w (.vsub c)
  | 0x003 => decFBin w (.vmul c)
  | 0x004 => do
      zero w 37 37; zero w 31 3
      return .vfma c (← decV (fld w 85 78)) (← decMA w) (← decMB w) (← decMC w) (← decFOpt w)
  | 0x005 => decFMinMax w (.vmin c)
  | 0x006 => decFMinMax w (.vmax c)
  | 0x007 => decFUn w (.vrcp c)
  | 0x008 => decFUn w (.vrsq c)
  | 0x009 => decFUn w (.vexp2 c)
  | 0x00A => decFUn w (.vlog2 c)
  | 0x00B => decFUn w (.vflr c)
  | 0x010 => do
      zero w 85 81; zero w 61 54; zero w 49 43; zero w 37 37; zero w 31 16; zero w 11 8; zero w 3 0
      return .vcmp c (BitVec.ofNat 3 (fld w 80 78)) (← decCmpTy (fld w 15 12)) (← decCond (fld w 7 4)) (← decMA w) (← decMB w)
  | 0x011 => do
      noModC w; zero w 31 19; zero w 15 0
      return .vsel c (← decV (fld w 85 78)) (← decSrc (fld w 77 70)) (← decSrc (fld w 69 62)) (BitVec.ofNat 3 (fld w 18 16))
  | 0x080 => decBin w (.viadd c)
  | 0x081 => decBin w (.visub c)
  | 0x082 => decBin w (.vimul c)
  | 0x083 => decBin w (.vimulh c)
  | 0x084 => decBin w (.vimulhn c)
  | 0x085 => do
      noMod w; zero w 31 0
      return .vimad c (← decV (fld w 85 78)) (← decSrc (fld w 77 70)) (← decSrc (fld w 69 62)) (← decSrc (fld w 61 54))
  | 0x086 => decBin w (.vand c)
  | 0x087 => decBin w (.vor c)
  | 0x088 => decBin w (.vxor c)
  | 0x089 => decBin w (.vshl c)
  | 0x08A => decBin w (.vshr c)
  | 0x08B => decBin w (.vsra c)
  | 0x08C => decBin w (.vimin c)
  | 0x08D => decBin w (.vimax c)
  | 0x08E => decBin w (.viminn c)
  | 0x08F => decBin w (.vimaxn c)
  | 0x090 => decUn w (.vpopc c)
  | 0x091 => decUn w (.vclz c)
  | 0x092 => do
      noMod w; zero w 31 17; zero w 15 0
      return .vbfe c (← decV (fld w 85 78)) (← decSrc (fld w 77 70)) (← decSrc (fld w 69 62)) (← decSrc (fld w 61 54))
        (fld w 16 16 == 1)
  | 0x0C0 => decUn w (.vmov c)
  | 0x0C1 => do
      zero w 77 62; noModC w
      return .vmovi c (← decV (fld w 85 78)) (BitVec.ofNat 32 (fld w 31 0))
  | 0x100 => do
      zero w 69 62; noModC w; zero w 31 16; zero w 7 4
      return .vcvt c (← decV (fld w 85 78)) (← decSrc (fld w 77 70)) (← decLTy (fld w 15 12)) (← decLTy (fld w 11 8))
        (fld w 3 3 == 1) (← decRm (fld w 2 0))
  | 0x101 => do
      noModC w; zero w 31 17; zero w 15 12; zero w 7 4
      return .vpack c (← decV (fld w 85 78)) (← decSrc (fld w 77 70)) (← decSrc (fld w 69 62)) (← decPTy (fld w 11 8))
        (fld w 16 16 == 1) (fld w 3 3 == 1) (← decRm (fld w 2 0))
  | 0x102 => do
      zero w 69 62; noModC w; zero w 31 18; zero w 11 0
      return .vunpk c (← decV (fld w 85 78)) (← decSrc (fld w 77 70)) (← decPTy (fld w 15 12)) (BitVec.ofNat 2 (fld w 17 16))
  | 0x103 => do
      zero w 69 62; noModC w; zero w 31 12; zero w 7 0
      return .vsclq c (← decV (fld w 85 78)) (← decV (fld w 77 70)) (← decF8 (fld w 11 8))
  | 0x140 => decBin w (.vshfl c)
  | 0x141 => decShift w (.vshup c)
  | 0x142 => decShift w (.vshdn c)
  | 0x143 => do
      zero w 69 62; noModC w; zero w 31 21; zero w 15 0
      return .vshxr c (← decV (fld w 85 78)) (← decSrc (fld w 77 70)) (BitVec.ofNat 5 (fld w 20 16))
  | 0x144 => do
      let (op, ty, rm) ← decScanFields w
      return .vscan c (← decV (fld w 85 78)) (← decSrc (fld w 77 70)) op ty rm
  | 0x145 => do
      let (op, ty, rm) ← decScanFields w
      return .vred c (← decV (fld w 85 78)) (← decSrc (fld w 77 70)) op ty rm
  | 0x146 => do
      zero w 85 78
      let (op, ty, rm) ← decScanFields w
      return .vreds c (← decSrc (fld w 77 70)) op ty rm
  | 0x147 => do
      zero w 85 62; noModC w; zero w 31 19; zero w 15 0
      return .vbal c (BitVec.ofNat 3 (fld w 18 16))
  | 0x148 => do
      noModC w; zero w 31 20; zero w 15 0
      return .vtopk c (← decV (fld w 85 78)) (← decSrc (fld w 77 70)) (← decSrc (fld w 69 62)) (BitVec.ofNat 4 (fld w 19 16))
  | 0x180 => do
      noModC w
      return .vld c (← decV (fld w 85 78)) (← decMem w) (← decSize (fld w 27 25)) (fld w 24 24 == 1)
        (decScope (fld w 31 30)) (decOrder (fld w 29 28))
  | 0x181 => do
      zero w 85 78; noMod w; zero w 24 24
      return .vst c (← decMem w) (← decSrc (fld w 61 54)) (← decSize (fld w 27 25))
        (decScope (fld w 31 30)) (decOrder (fld w 29 28))
  | 0x182 => do
      noModC w; zero w 31 28
      return .vldro c (← decV (fld w 85 78)) (← decMem w) (← decSize (fld w 27 25)) (fld w 24 24 == 1)
  | 0x183 => do
      zero w 85 78; noModC w; zero w 29 24
      return .vpf c (← decMem w) (decScope (fld w 31 30))
  | 0x184 => do
      zero w 69 62; noModC w
      return .vsld c (← decV (fld w 85 78)) (← decScr w) (← decSize (fld w 27 25)) (fld w 24 24 == 1)
        (decScope (fld w 31 30)) (decOrder (fld w 29 28))
  | 0x185 => do
      zero w 85 78; zero w 69 62; noMod w; zero w 24 24
      return .vsst c (← decScr w) (← decSrc (fld w 61 54)) (← decSize (fld w 27 25))
        (decScope (fld w 31 30)) (decOrder (fld w 29 28))
  | 0x186 => do
      noMod w
      if fld w 27 25 = 2 then
        return .vatom c (← decV (fld w 85 78)) (← decAtomMem w) (← decSrc (fld w 61 54)) (← decAtomOp (fld w 24 21))
          (decScope (fld w 31 30)) (decOrder (fld w 29 28))
      else .error .badSize
  | 0x187 => do
      zero w 85 78; noMod w
      if fld w 27 25 = 2 then
        return .vredm c (← decAtomMem w) (← decSrc (fld w 61 54)) (← decAtomOp (fld w 24 21))
          (decScope (fld w 31 30)) (decOrder (fld w 29 28))
      else .error .badSize
  | 0x188 => do
      noMod w; zero w 31 25
      if fld w 24 24 = 1 then
        return .lkl c (← decV (fld w 85 78)) (← decMem w) (some (← decW (fld w 61 54)))
      else do
        zero w 61 54
        return .lkl c (← decV (fld w 85 78)) (← decMem w) none
  | 0x189 => do
      zero w 85 78; noModC w; zero w 31 24
      return .ulk c (← decMem w)
  | 0x1C0 => do
      zero w 53 43; zero w 31 16; zero w 11 0
      return .mma c (← decSlot (fld w 85 78)) (← decV (fld w 77 70)) (← decSrc (fld w 69 62)) (← decSlot (fld w 61 54))
        (← decF8 (fld w 15 12)) (fld w 37 37 == 1)
  | 0x1C1 => do
      zero w 53 43; zero w 31 0
      return .mmab c (← decSlot (fld w 85 78)) (← decV (fld w 77 70)) (← decSrc (fld w 69 62)) (← decSlot (fld w 61 54))
        (fld w 37 37 == 1)
  | 0x1C2 => do
      zero w 77 62; noModC w; zero w 31 0
      return .mzero c (← decSlot (fld w 85 78))
  | 0x1C3 => do
      zero w 69 62; noModC w; zero w 31 6
      return .mdrn c (← decV (fld w 77 70)) (← decSlot (fld w 85 78)) (BitVec.ofNat 2 (fld w 5 4)) (BitVec.ofNat 4 (fld w 3 0))
  | 0x1C4 => do
      noMod w; zero w 61 58; zero w 24 24
      if fld w 27 25 = 1 then
        return .mdst c (← decMem w) (← decSlot (fld w 85 78)) (BitVec.ofNat 4 (fld w 57 54)) true
          (decScope (fld w 31 30)) (decOrder (fld w 29 28))
      else if fld w 27 25 = 2 then
        return .mdst c (← decMem w) (← decSlot (fld w 85 78)) (BitVec.ofNat 4 (fld w 57 54)) false
          (decScope (fld w 31 30)) (decOrder (fld w 29 28))
      else .error .badSize
  | 0x1C5 => do
      zero w 77 62; noModC w; zero w 31 9; zero w 7 3
      return .mpois c (BitVec.ofNat 3 (fld w 2 0)) (← decSlot (fld w 85 78)) (fld w 8 8 == 1)
  | 0x1E0 => do
      noMod w
      if fld w 31 24 = 0x80 then
        return .vlaunch c (← decV (fld w 85 78)) (← decMem w) (← decW (fld w 61 54))
      else .error .unusedField
  | 0x1E1 => do
      zero w 85 0
      return .lend
  | 0x1E2 => do
      zero w 85 37; zero w 31 0
      return .vnop c.wait
  | o => .error (.reservedOpcode o)

/-- A lane word (R146): its guard and wait fields, then the instruction. -/
def decodeLane (w : Nat) : Dec Instr := do
  let g ← decGuard (fld w 42 42) (fld w 41 41) (fld w 40 38)
  let t ← decWait (fld w 36 34) (fld w 33 32)
  decodeLaneOp w ⟨g, t⟩

/-- The instruction that the decoder reads from the stored bytes of a table word: four bytes of Armature code, or
twelve of lane code. -/
def decodeTableWord (nbits w : Nat) : Option Instr :=
  if nbits ≤ 32 then (decodeArm (leNat (leBytes 4 w))).toOption
  else (decodeLane (leNat (leBytes 12 w))).toOption

/-! ## The encoder -/

def encScope : Scope → Nat
  | .grp => 0 | .core => 1 | .dev => 2 | .sys => 3
def encOrder : Order → Nat
  | .rlx => 0 | .acq => 1 | .rel => 2 | .ar => 3
def encSize : Size → Nat
  | .b => 0 | .h => 1 | .w => 2 | .d => 3 | .q => 4
def encAtomOp : AtomOp → Nat
  | .add => 0 | .min => 1 | .minN => 2 | .max => 3 | .maxN => 4 | .and => 5 | .or => 6 | .xor => 7 | .xchg => 8
  | .cas => 9 | .fadd => 10 | .bfadd => 11
def encArm : ArmSel → Nat
  | .none => 0 | .a0 => 1 | .a1 => 2
def encFenceKind : FenceKind → Nat
  | .full => 0 | .acq => 1 | .rel => 2
def encSlotFmt : SlotFmt → Nat
  | .e4m3 => 0 | .e5m2 => 1 | .bf16 => 2 | .acc => 3
def encCReg : CReg → Nat
  | .ctx => 0x000 | .cyc => 0x001 | .fring => 0x008 | .frpos => 0x009 | .fhnd => 0x00A | .errlog => 0x00B
  | .pts => 0x010 | .lease => 0x011 | .tick => 0x012 | .rhor => 0x013 | .lkquota => 0x018 | .srseed => 0x020
  | .band => 0x030 | .bandmax => 0x031 | .evsel n => 0x040 + n.toNat | .evcnt n => 0x048 + n.toNat
def encItem : TmItem → Nat
  | .cfg => 0 | .lo => 1 | .hi => 2 | .nancnt => 3 | .flagcnt => 4 | .clear => 5 | .bin n => 32 + n.toNat

/-- Format A (R141). -/
def fmtA (major d a b fn : Nat) : Nat := major * 2 ^ 26 + d * 2 ^ 20 + a * 2 ^ 14 + b * 2 ^ 8 + fn
/-- Formats B and C (R141). -/
def fmtB (major d a imm : Nat) : Nat := major * 2 ^ 26 + d * 2 ^ 20 + a * 2 ^ 14 + imm
/-- Format D (R141). -/
def fmtD (major d imm : Nat) : Nat := major * 2 ^ 26 + d * 2 ^ 20 + imm
/-- Format E (R141). -/
def fmtE (major k arm t blk : Nat) : Nat := major * 2 ^ 26 + k * 2 ^ 23 + arm * 2 ^ 21 + t * 2 ^ 15 + blk
/-- Format F (R141). -/
def fmtF (major d a sz sc od imm : Nat) : Nat :=
  major * 2 ^ 26 + d * 2 ^ 20 + a * 2 ^ 14 + sz * 2 ^ 11 + sc * 2 ^ 9 + od * 2 ^ 7 + imm

/-- The 32-bit word of an Armature instruction. -/
def encodeArm : Instr → Option Nat
  | .sadd d a b => some (fmtA 0x01 d.toNat a.toNat b.toNat 0x00)
  | .ssub d a b => some (fmtA 0x01 d.toNat a.toNat b.toNat 0x01)
  | .smul d a b => some (fmtA 0x01 d.toNat a.toNat b.toNat 0x02)
  | .smulh d a b => some (fmtA 0x01 d.toNat a.toNat b.toNat 0x03)
  | .smulhn d a b => some (fmtA 0x01 d.toNat a.toNat b.toNat 0x04)
  | .sdiv d a b => some (fmtA 0x01 d.toNat a.toNat b.toNat 0x05)
  | .sdivn d a b => some (fmtA 0x01 d.toNat a.toNat b.toNat 0x06)
  | .srem d a b => some (fmtA 0x01 d.toNat a.toNat b.toNat 0x07)
  | .sremn d a b => some (fmtA 0x01 d.toNat a.toNat b.toNat 0x08)
  | .sand d a b => some (fmtA 0x01 d.toNat a.toNat b.toNat 0x09)
  | .sor d a b => some (fmtA 0x01 d.toNat a.toNat b.toNat 0x0A)
  | .sxor d a b => some (fmtA 0x01 d.toNat a.toNat b.toNat 0x0B)
  | .sshl d a b => some (fmtA 0x01 d.toNat a.toNat b.toNat 0x0C)
  | .sshr d a b => some (fmtA 0x01 d.toNat a.toNat b.toNat 0x0D)
  | .ssra d a b => some (fmtA 0x01 d.toNat a.toNat b.toNat 0x0E)
  | .smin d a b => some (fmtA 0x01 d.toNat a.toNat b.toNat 0x0F)
  | .smax d a b => some (fmtA 0x01 d.toNat a.toNat b.toNat 0x10)
  | .sminn d a b => some (fmtA 0x01 d.toNat a.toNat b.toNat 0x11)
  | .smaxn d a b => some (fmtA 0x01 d.toNat a.toNat b.toNat 0x12)
  | .sslt d a b => some (fmtA 0x01 d.toNat a.toNat b.toNat 0x13)
  | .ssltn d a b => some (fmtA 0x01 d.toNat a.toNat b.toNat 0x14)
  | .saddi d a i => some (fmtB 0x02 d.toNat a.toNat i.toNat)
  | .sandi d a i => some (fmtB 0x03 d.toNat a.toNat i.toNat)
  | .sori d a i => some (fmtB 0x04 d.toNat a.toNat i.toNat)
  | .sxori d a i => some (fmtB 0x05 d.toNat a.toNat i.toNat)
  | .sshli d a n => some (fmtB 0x06 d.toNat a.toNat n.toNat)
  | .sshri d a n => some (fmtB 0x07 d.toNat a.toNat n.toNat)
  | .ssrai d a n => some (fmtB 0x08 d.toNat a.toNat n.toNat)
  | .sslti d a i => some (fmtB 0x09 d.toNat a.toNat i.toNat)
  | .slui d i => some (fmtD 0x0A d.toNat i.toNat)
  | .saui d i => some (fmtD 0x0B d.toNat i.toNat)
  | .sbeq a b o => some (fmtB 0x10 a.toNat b.toNat o.toNat)
  | .sbne a b o => some (fmtB 0x11 a.toNat b.toNat o.toNat)
  | .sblt a b o => some (fmtB 0x12 a.toNat b.toNat o.toNat)
  | .sbge a b o => some (fmtB 0x13 a.toNat b.toNat o.toNat)
  | .sbltn a b o => some (fmtB 0x14 a.toNat b.toNat o.toNat)
  | .sbgen a b o => some (fmtB 0x15 a.toNat b.toNat o.toNat)
  | .sjal d i => some (fmtD 0x16 d.toNat i.toNat)
  | .sjr d a => some (fmtA 0x17 d.toNat a.toNat 0 0)
  | .sld d a sz sc od i => some (fmtF 0x18 d.toNat a.toNat (encSize sz) (encScope sc) (encOrder od) i.toNat)
  | .sst b a sz sc od i => some (fmtF 0x19 b.toNat a.toNat (encSize sz) (encScope sc) (encOrder od) i.toNat)
  | .samo d a b op sc od =>
      some (fmtA 0x1A d.toNat a.toNat b.toNat (encAtomOp op * 2 ^ 4 + encScope sc * 2 ^ 2 + encOrder od))
  | .roinv => some (fmtA 0x1B 0 0 0 0)
  | .fence sc k => some (fmtA 0x1C 0 0 0 (encScope sc * 2 ^ 2 + encFenceKind k))
  | .lrun k arm t b => some (fmtE 0x20 k.toNat (encArm arm) t.toNat b.toNat)
  | .lfork k arm => some (fmtE 0x21 k.toNat (encArm arm) 0 0)
  | .ljoin => some (fmtA 0x22 0 0 0 0)
  | .lcond d => some (fmtA 0x23 d.toNat 0 0 0)
  | .lgetv d sg => some (fmtA 0x24 d.toNat 0 0 sg.toNat)
  | .setw d a p => some (fmtA 0x25 d.toNat a.toNat 0 p.toNat)
  | .kand d a b => some (fmtA 0x26 d.toNat a.toNat b.toNat 0)
  | .kor d a b => some (fmtA 0x26 d.toNat a.toNat b.toNat 1)
  | .kxor d a b => some (fmtA 0x26 d.toNat a.toNat b.toNat 2)
  | .kandn d a b => some (fmtA 0x26 d.toNat a.toNat b.toNat 3)
  | .knot d a => some (fmtA 0x26 d.toNat a.toNat 0 4)
  | .kmov d a => some (fmtA 0x27 d.toNat a.toNat 0 0)
  | .kget d a => some (fmtA 0x28 d.toNat a.toNat 0 0)
  | .kpop d a => some (fmtA 0x29 d.toNat a.toNat 0 0)
  | .waitc l s c m => some (fmtA 0x2A l.toNat s.toNat c.toNat (m.toNat * 2 ^ 2))
  | .waitp c a => some (fmtA 0x2B 0 a.toNat 0 c.toNat)
  | .barr d i => some (fmtB 0x2C d.toNat 0 i.toNat)
  | .bara d i => some (fmtB 0x2D d.toNat 0 i.toNat)
  | .barw d a i => some (fmtB 0x2E d.toNat a.toNat i.toNat)
  | .launch d a b => some (fmtA 0x2F d.toNat a.toNat b.toNat 0)
  | .rxch x y n => some (fmtA 0x30 n.toNat x.toNat y.toNat 0)
  | .rcat x y n => some (fmtA 0x31 n.toNat x.toNat y.toNat 0)
  | .rspl x y n => some (fmtA 0x32 n.toNat x.toNat y.toNat 0)
  | .rprm x y n => some (fmtA 0x33 n.toNat x.toNat y.toNat 0)
  | .rals x y n => some (fmtA 0x34 n.toNat x.toNat y.toNat 0)
  | .ralsRw x y n => some (fmtA 0x34 n.toNat x.toNat y.toNat 1)
  | .runm x n => some (fmtA 0x35 n.toNat x.toNat 0 0)
  | .rpin x n => some (fmtA 0x36 n.toNat x.toNat 0 0)
  | .rupn x n => some (fmtA 0x36 n.toNat x.toNat 0 1)
  | .rqry d a => some (fmtA 0x37 d.toNat a.toNat 0 0)
  | .cpy d a => some (fmtA 0x38 d.toNat a.toNat 0 0)
  | .cpys d a => some (fmtA 0x38 d.toNat a.toNat 0 1)
  | .cpyw d a => some (fmtA 0x38 d.toNat a.toNat 0 2)
  | .gath d a => some (fmtA 0x38 d.toNat a.toNat 0 3)
  | .scat d a => some (fmtA 0x38 d.toNat a.toNat 0 4)
  | .cpyob d a => some (fmtA 0x38 d.toNat a.toNat 0 5)
  | .fred d a => some (fmtA 0x38 d.toNat a.toNat 0 6)
  | .cpyq d a => some (fmtA 0x39 d.toNat a.toNat 0 0)
  | .obres d a n f => some (fmtA 0x3A d.toNat a.toNat 0 (n.toNat * 2 ^ 2 + encSlotFmt f))
  | .obrel n => some (fmtA 0x3B 0 0 0 (n.toNat * 2 ^ 2))
  | .crd d r => some (fmtB 0x3C d.toNat 0 (encCReg r))
  | .cwr r a => some (fmtB 0x3D 0 a.toNat (encCReg r))
  | .trap a => some (fmtA 0x3E 0 a.toNat 0 0)
  | .eret => some (fmtA 0x3E 0 0 0 1)
  | .yield => some (fmtA 0x3E 0 0 0 2)
  | .exit => some (fmtA 0x3E 0 0 0 3)
  | .rmap d a b => some (fmtA 0x3E d.toNat a.toNat b.toNat 4)
  | .tmset n i a => some (fmtA 0x3E n.toNat a.toNat (encItem i) 5)
  | .tmget d n i => some (fmtA 0x3E d.toNat n.toNat (encItem i) 6)
  | .halt => some (fmtA 0x3E 0 0 0 7)
  | _ => none

def encSrc : Src → Nat
  | .v r => r.val | .w r => 0xE0 + r.toNat | .lane => 0xF0 | .group => 0xF1 | .team => 0xF2 | .role => 0xF3
def encPair (p : BitVec 3) : Nat := 0xE0 + 2 * p.toNat
def encW (r : WReg) : Nat := 0xE0 + r.toNat
def encCounter : Counter → Nat
  | .ldc => 1 | .stc => 2 | .cpc => 3 | .mxc => 4 | .rcc => 5 | .lkc => 6
def encWait : Option (Counter × BitVec 2) → Nat
  | none => 0
  | some (c, t) => encCounter c * 2 ^ 34 + t.toNat * 2 ^ 32
def encGuard : Option Guard → Nat
  | none => 0
  | some g => 2 ^ 42 + g.inv.toNat * 2 ^ 41 + g.q.toNat * 2 ^ 38
def encRm : Rm → Nat
  | .rne => 0 | .rz => 1 | .rd => 2 | .ru => 3 | .sr => 4
def encLTy : LTy → Nat
  | .f32 => 0 | .bf16 => 1 | .e4m3 => 2 | .e5m2 => 3 | .i8 => 4 | .i16 => 5 | .i32 => 6 | .n8 => 8 | .n16 => 9
  | .n32 => 10
def encCmpTy : CmpTy → Nat
  | .f32 => 0 | .i32 => 6 | .n32 => 10
def encCond : Cond → Nat
  | .eq => 0 | .ne => 1 | .lt => 2 | .le => 3 | .gt => 4 | .ge => 5 | .ord => 6 | .uno => 7
def encPTy : PTy → Nat
  | .bf16 => 1 | .e4m3 => 2 | .e5m2 => 3
def encF8 : F8 → Nat
  | .e4m3 => 2 | .e5m2 => 3
def encScanOp : ScanOp → Nat
  | .add => 0 | .min => 1 | .max => 2 | .and => 3 | .or => 4 | .xor => 5

/-- The register and control part of a lane word: opcode, VD, VA, VB, VC, bits 53:43 and 37, guard and wait (R147). -/
def laneWord (opc vd va vb vc mods ru : Nat) (c : Ctl) (ext : Nat) : Nat :=
  opc * 2 ^ 86 + vd * 2 ^ 78 + va * 2 ^ 70 + vb * 2 ^ 62 + vc * 2 ^ 54 + mods * 2 ^ 43 + encGuard c.guard
    + ru * 2 ^ 37 + encWait c.wait + ext

/-- Bits 53:43 from the modifiers of a, b and c, the clamp and the scale (R147). -/
def encMods (a b e : Bool × Bool) (clp : Bool) (scl : Nat) : Nat :=
  a.1.toNat * 2 ^ 10 + a.2.toNat * 2 ^ 9 + b.1.toNat * 2 ^ 8 + b.2.toNat * 2 ^ 7 + e.1.toNat * 2 ^ 6 + e.2.toNat * 2 ^ 5
    + clp.toNat * 2 ^ 4 + scl

def MSrc.mods (m : MSrc) : Bool × Bool := (m.neg, m.abs)
def noMods : Bool × Bool := (false, false)

def encFBin (opc : Nat) (c : Ctl) (d : VReg) (a b : MSrc) (o : FOpt) : Nat :=
  laneWord opc d.val (encSrc a.src) (encSrc b.src) 0 (encMods a.mods b.mods noMods o.clp o.scl.toNat) 0 c (encRm o.rm)
def encFUn (opc : Nat) (c : Ctl) (d : VReg) (a : MSrc) (o : FOpt) : Nat :=
  laneWord opc d.val (encSrc a.src) 0 0 (encMods a.mods noMods noMods o.clp o.scl.toNat) 0 c (encRm o.rm)
def encFMinMax (opc : Nat) (c : Ctl) (d : VReg) (a b : MSrc) (clp : Bool) : Nat :=
  laneWord opc d.val (encSrc a.src) (encSrc b.src) 0 (encMods a.mods b.mods noMods clp 0) 0 c 0
def encBin (opc : Nat) (c : Ctl) (d : VReg) (a b : Src) : Nat :=
  laneWord opc d.val (encSrc a) (encSrc b) 0 0 0 c 0
def encUn (opc : Nat) (c : Ctl) (d : VReg) (a : Src) : Nat := laneWord opc d.val (encSrc a) 0 0 0 0 c 0
def encShift (opc : Nat) (c : Ctl) (d : VReg) (a b : Src) (n : BitVec 5) : Nat :=
  laneWord opc d.val (encSrc a) (encSrc b) 0 0 0 c (n.toNat * 2 ^ 16)
def encScan (op : ScanOp) (ty : CmpTy) (rm : Rm) : Nat := encScanOp op * 2 ^ 16 + encCmpTy ty * 2 ^ 12 + encRm rm
/-- The VM extension (R155). -/
def encVM (sc : Scope) (od : Order) (sz : Nat) (sx : Bool) (off : BitVec 24) : Nat :=
  encScope sc * 2 ^ 30 + encOrder od * 2 ^ 28 + sz * 2 ^ 25 + sx.toNat * 2 ^ 24 + off.toNat
/-- The extension of VATOM and VREDM (R110). -/
def encVA (sc : Scope) (od : Order) (op : AtomOp) (off : BitVec 21) : Nat :=
  encScope sc * 2 ^ 30 + encOrder od * 2 ^ 28 + 2 * 2 ^ 25 + encAtomOp op * 2 ^ 21 + off.toNat

/-- The 96-bit word of a lane instruction. -/
def encodeLane : Instr → Option Nat
  | .vadd c d a b o => some (encFBin 0x001 c d a b o)
  | .vsub c d a b o => some (encFBin 0x002 c d a b o)
  | .vmul c d a b o => some (encFBin 0x003 c d a b o)
  | .vfma c d a b e o =>
      some (laneWord 0x004 d.val (encSrc a.src) (encSrc b.src) (encSrc e.src)
        (encMods a.mods b.mods e.mods o.clp o.scl.toNat) 0 c (encRm o.rm))
  | .vmin c d a b clp => some (encFMinMax 0x005 c d a b clp)
  | .vmax c d a b clp => some (encFMinMax 0x006 c d a b clp)
  | .vrcp c d a o => some (encFUn 0x007 c d a o)
  | .vrsq c d a o => some (encFUn 0x008 c d a o)
  | .vexp2 c d a o => some (encFUn 0x009 c d a o)
  | .vlog2 c d a o => some (encFUn 0x00A c d a o)
  | .vflr c d a o => some (encFUn 0x00B c d a o)
  | .vcmp c q ty cond a b =>
      some (laneWord 0x010 q.toNat (encSrc a.src) (encSrc b.src) 0 (encMods a.mods b.mods noMods false 0) 0 c
        (encCmpTy ty * 2 ^ 12 + encCond cond * 2 ^ 4))
  | .vsel c d a b q => some (laneWord 0x011 d.val (encSrc a) (encSrc b) 0 0 0 c (q.toNat * 2 ^ 16))
  | .viadd c d a b => some (encBin 0x080 c d a b)
  | .visub c d a b => some (encBin 0x081 c d a b)
  | .vimul c d a b => some (encBin 0x082 c d a b)
  | .vimulh c d a b => some (encBin 0x083 c d a b)
  | .vimulhn c d a b => some (encBin 0x084 c d a b)
  | .vimad c d a b e => some (laneWord 0x085 d.val (encSrc a) (encSrc b) (encSrc e) 0 0 c 0)
  | .vand c d a b => some (encBin 0x086 c d a b)
  | .vor c d a b => some (encBin 0x087 c d a b)
  | .vxor c d a b => some (encBin 0x088 c d a b)
  | .vshl c d a b => some (encBin 0x089 c d a b)
  | .vshr c d a b => some (encBin 0x08A c d a b)
  | .vsra c d a b => some (encBin 0x08B c d a b)
  | .vimin c d a b => some (encBin 0x08C c d a b)
  | .vimax c d a b => some (encBin 0x08D c d a b)
  | .viminn c d a b => some (encBin 0x08E c d a b)
  | .vimaxn c d a b => some (encBin 0x08F c d a b)
  | .vpopc c d a => some (encUn 0x090 c d a)
  | .vclz c d a => some (encUn 0x091 c d a)
  | .vbfe c d a b e sx => some (laneWord 0x092 d.val (encSrc a) (encSrc b) (encSrc e) 0 0 c (sx.toNat * 2 ^ 16))
  | .vmov c d a => some (encUn 0x0C0 c d a)
  | .vmovi c d imm => some (laneWord 0x0C1 d.val 0 0 0 0 0 c imm.toNat)
  | .vcvt c d a s t sat rm =>
      some (laneWord 0x100 d.val (encSrc a) 0 0 0 0 c (encLTy s * 2 ^ 12 + encLTy t * 2 ^ 8 + sat.toNat * 2 ^ 3 + encRm rm))
  | .vpack c d a b ty h sat rm =>
      some (laneWord 0x101 d.val (encSrc a) (encSrc b) 0 0 0 c
        (h.toNat * 2 ^ 16 + encPTy ty * 2 ^ 8 + sat.toNat * 2 ^ 3 + encRm rm))
  | .vunpk c d a ty i => some (laneWord 0x102 d.val (encSrc a) 0 0 0 0 c (i.toNat * 2 ^ 16 + encPTy ty * 2 ^ 12))
  | .vsclq c d a ty => some (laneWord 0x103 d.val a.val 0 0 0 0 c (encF8 ty * 2 ^ 8))
  | .vshfl c d a b => some (encBin 0x140 c d a b)
  | .vshup c d a b n => some (encShift 0x141 c d a b n)
  | .vshdn c d a b n => some (encShift 0x142 c d a b n)
  | .vshxr c d a m => some (laneWord 0x143 d.val (encSrc a) 0 0 0 0 c (m.toNat * 2 ^ 16))
  | .vscan c d a op ty rm => some (laneWord 0x144 d.val (encSrc a) 0 0 0 0 c (encScan op ty rm))
  | .vred c d a op ty rm => some (laneWord 0x145 d.val (encSrc a) 0 0 0 0 c (encScan op ty rm))
  | .vreds c a op ty rm => some (laneWord 0x146 0 (encSrc a) 0 0 0 0 c (encScan op ty rm))
  | .vbal c q => some (laneWord 0x147 0 0 0 0 0 0 c (q.toNat * 2 ^ 16))
  | .vtopk c d a b k => some (laneWord 0x148 d.val (encSrc a) (encSrc b) 0 0 0 c (k.toNat * 2 ^ 16))
  | .vld c d m sz sx sc od => some (laneWord 0x180 d.val (encSrc m.va) (encPair m.pair) 0 0 0 c (encVM sc od (encSize sz) sx m.off))
  | .vst c m v sz sc od =>
      some (laneWord 0x181 0 (encSrc m.va) (encPair m.pair) (encSrc v) 0 0 c (encVM sc od (encSize sz) false m.off))
  | .vldro c d m sz sx => some (laneWord 0x182 d.val (encSrc m.va) (encPair m.pair) 0 0 0 c (encVM .grp .rlx (encSize sz) sx m.off))
  | .vpf c m sc => some (laneWord 0x183 0 (encSrc m.va) (encPair m.pair) 0 0 0 c (encVM sc .rlx 0 false m.off))
  | .vsld c d m sz sx sc od => some (laneWord 0x184 d.val (encSrc m.va) 0 0 0 0 c (encVM sc od (encSize sz) sx m.off))
  | .vsst c m v sz sc od => some (laneWord 0x185 0 (encSrc m.va) 0 (encSrc v) 0 0 c (encVM sc od (encSize sz) false m.off))
  | .vatom c d m v op sc od => some (laneWord 0x186 d.val (encSrc m.va) (encPair m.pair) (encSrc v) 0 0 c (encVA sc od op m.off))
  | .vredm c m v op sc od => some (laneWord 0x187 0 (encSrc m.va) (encPair m.pair) (encSrc v) 0 0 c (encVA sc od op m.off))
  | .lkl c d m none => some (laneWord 0x188 d.val (encSrc m.va) (encPair m.pair) 0 0 0 c m.off.toNat)
  | .lkl c d m (some t) => some (laneWord 0x188 d.val (encSrc m.va) (encPair m.pair) (encW t) 0 0 c (2 ^ 24 + m.off.toNat))
  | .ulk c m => some (laneWord 0x189 0 (encSrc m.va) (encPair m.pair) 0 0 0 c m.off.toNat)
  | .mma c d a s b ty ru => some (laneWord 0x1C0 d.toNat a.val (encSrc s) b.toNat 0 ru.toNat c (encF8 ty * 2 ^ 12))
  | .mmab c d a s b ru => some (laneWord 0x1C1 d.toNat a.val (encSrc s) b.toNat 0 ru.toNat c 0)
  | .mzero c d => some (laneWord 0x1C2 d.toNat 0 0 0 0 0 c 0)
  | .mdrn c a s g n => some (laneWord 0x1C3 s.toNat a.val 0 0 0 0 c (g.toNat * 2 ^ 4 + n.toNat))
  | .mdst c m s n bf sc od =>
      some (laneWord 0x1C4 s.toNat (encSrc m.va) (encPair m.pair) n.toNat 0 0 c (encVM sc od (if bf then 1 else 2) false m.off))
  | .mpois c q s clr => some (laneWord 0x1C5 s.toNat 0 0 0 0 0 c (clr.toNat * 2 ^ 8 + q.toNat))
  | .vlaunch c d m wq => some (laneWord 0x1E0 d.val (encSrc m.va) (encPair m.pair) (encW wq) 0 0 c (0x80 * 2 ^ 24 + m.off.toNat))
  | .lend => some (laneWord 0x1E1 0 0 0 0 0 0 ⟨none, none⟩ 0)
  | .vnop t => some (laneWord 0x1E2 0 0 0 0 0 0 ⟨none, t⟩ 0)
  | _ => none

/-- The words of an instruction that has an encoding: the number of bits and the bits. The part's own steps have none. -/
def encode (i : Instr) : Option (Nat × Nat) :=
  match encodeArm i with
  | some w => some (32, w)
  | none => (encodeLane i).map fun w => (96, w)

end Sys2Proof
end

