-- ==== Sys2Proof/Config.lean ====
section
/-!
DEFINITION. What the part fixes, and the values the spec leaves open. A constant with no body is a free value: nothing
in Lean can evaluate it, so a statement holds whatever it is (log 4).
-/
namespace Sys2Proof.Config

/-- Cores of the package (R2). -/
def cores : Nat := 320
/-- The number the model gives the host agent, which acts as one more core (R325). -/
def hostAgent : Nat := 320
/-- Cores of one compute die (R2). -/
def coresPerDie : Nat := 40
/-- Bytes of a cache line (R44). -/
def lineBytes : Nat := 128
/-- Plinths of a compute die (R46). -/
def plinthsPerDie : Nat := 48
/-- Entries of a Sprue (R130). -/
def sprueSize : Nat := 16
/-- Entries of a return queue (R134). -/
def retqSize : Nat := 8
/-- Largest value of a counter (R63). -/
def counterMax : Nat := 63
/-- Commands of an engine queue (R66). -/
def engineQueue : Nat := 16
/-- Groups a core can hold, and those of them that can be active (R288, R289). -/
def residentGroups : Nat := 32
def activeGroups : Nat := 8
/-- Vector registers of a core (R125, R288). -/
def coreRegs : Nat := 4096
/-- Registers kept unpinned when a core holds an elastic group (R288). -/
def unpinnedRegs : Nat := 256
/-- First and past-the-end offsets of a window's hold region (R13). -/
def holdBase : Nat := 0x2FC0000000
def windowPopulated : Nat := 0x3000000000
/-- The largest window of the HDM decoder, in units of 256 MiB: 1,528 GiB (R324). -/
def hdmLimit : Nat := 6112
/-- The interval of R99 and its limit. -/
def leadWindow : Nat := 16384
def leadLimit : Nat := 2048
/-- The longest time between two deliveries of FLOOR (R98), and between two sweeps (R101), in cycles. -/
def floorEvery : Nat := 256
def sweepEvery : Nat := 16384
/-- Ways and sets of the L1, the read-only cache and the two instruction caches (R45). -/
def l1Ways : Nat := 16
def l1Sets : Nat := 1024
def roWays : Nat := 8
def roSets : Nat := 128
def icacheWays : Nat := 4
def icacheSets : Nat := 128
def lcacheWays : Nat := 6
def lcacheSets : Nat := 256
/-- Ways of a Plinth and of an RDC slice (R46). -/
def homeWays : Nat := 16
/-- The two TLBs (R23). -/
def tlbWays : Nat := 8
def tlbSets : Nat := 128
def bigTlb : Nat := 64
/-- Walks that one walker runs at once (R24). -/
def walkerSize : Nat := 64
/-- Nested forks (R132), standing frames (R133). -/
def forkDepth : Nat := 32
def frameDepth : Nat := 256

/-- The cycles of the tick in progress, taken below the tick period (R187 does not place a CRD inside a tick). -/
opaque cycleInTick : Nat → Nat
/-- Which of the free 64 KiB units of a save area a record takes (R305: "in an order that the part chooses"). -/
opaque saveUnit : Nat → Nat
/-- Whether a peer package or the host reports an address as present (R14). -/
opaque remotePresent : Nat → Bool
/-- The signature of an attestation report and the identity key behind it (R331). -/
opaque attestationSignature : List Byte → List Byte
/-- Which of the 1,024 sets of its Plinth a line takes: 2 MiB of 16 ways (R46 gives the sizes and no index, log 96). -/
opaque plinthSet : Nat → Fin 1024
/-- Which of the 24,576 sets of an RDC a line takes: 48 MiB of 16 ways (R46, log 96). -/
opaque rdcSet : Nat → Fin 24576

end Sys2Proof.Config
end

