-- ==== Sys2Proof/Machine/State.lean ====
section
/-!
DEFINITION. Everything the spec gives the machine, as plain data, and the machine right after reset. The tables are
sparse: a key that is not listed has the default that the field's comment names. INVENTORY.md lists each field with its
rule and its reset value.
-/
namespace Sys2Proof.Machine

/-! ## Lane values, tokens and the issue points of a group -/

/-- A vector register: a 32-bit value and a poison bit in each of 32 lanes (R126, R211). -/
structure VVal where
  val    : Vector Word 32
  poison : Word
deriving DecidableEq, Repr

/-- A q register: a bit and a poison bit in each lane (R126, R211). -/
structure QVal where
  bits   : Word
  poison : Word
deriving DecidableEq, Repr

/-- The six counters of a group, each 0 to 63 (R63). -/
structure Counters where
  ldc : Nat
  stc : Nat
  cpc : Nat
  mxc : Nat
  rcc : Nat
  lkc : Nat
deriving DecidableEq, Repr

/-- A token (R71, R128), with the seed epoch and SEED that stand at its push (R202). `seq` is its place in push order. -/
structure Token where
  seq   : Nat
  block : BitVec 15
  mask  : Word
  trips : Word
  arm   : ArmSel
  w     : Vector Word 16
  epoch : Nat
  seed  : Word
deriving DecidableEq, Repr

/-- An entry of the Sprue (R130). A fork marker carries the new fork's two arm masks (R131). -/
inductive SprueItem where
  | token (t : Token)
  | forkMark (mask0 mask1 : Word)
  | joinMark
deriving DecidableEq, Repr

/-- A cursor that holds a token (R63, R127). `start` is `none` until the table entry has been read. -/
structure Cursor where
  token : Token
  trips : Word
  start : Option DWord
  pc    : DWord
  /-- Registers written since the block began (R292). -/
  wrote : List Nat
deriving DecidableEq, Repr

/-- A fork open at the Armature: its arm masks and the frame depth it was opened at (R128, R131, R133). -/
structure Fork where
  mask0 : Word
  mask1 : Word
  depth : Nat
deriving DecidableEq, Repr

/-- A return-queue entry (R134). It is ready when the lane accesses before `seq` have performed (R72). -/
structure RetEntry where
  seq   : Nat
  key   : Nat
  value : Word
deriving DecidableEq, Repr

/-- What the reuse latch holds (R260). `kind` is the A type of an MMA, or `none` for MMAB. -/
structure Latch where
  va    : VReg
  vb    : Src
  kind  : Option F8
  a     : List VVal
  scale : VVal
deriving DecidableEq, Repr

/-- A lane generator: its state and the epoch it was seeded in (R201, R202). -/
structure Gen where
  g     : Word
  epoch : Nat
deriving DecidableEq, Repr

/-- The wait of a BARR or BARW (R138): the barrier word, the phase it waits to leave, and where the status goes. -/
structure BarWait where
  word  : Nat
  phase : Bool
  dest  : SReg
  /-- The instruction's own word, for a record (R297). -/
  instr : Nat
deriving DecidableEq, Repr

/-- A command block (R271). -/
structure Block where
  src  : DWord
  arg  : DWord
  dst  : DWord
  ext0 : DWord
  ext1 : DWord
  ext2 : DWord
  ext3 : DWord
  flags : DWord
deriving DecidableEq, Repr

/-- A GATH or SCAT whose index list has been read in part (R270): its block, and the bytes of the list that its loads have
read. -/
structure ListRead where
  block : Block
  got   : List Byte
deriving DecidableEq, Repr

/-- A recast that has not performed (R63, R37), with its operand values. -/
structure Recast where
  seq   : Nat
  instr : Instr
  x     : DWord
  y     : DWord
  n     : DWord
  pc    : DWord
  word  : Nat
  level : Nat
deriving DecidableEq, Repr

/-- The register state of a group, or of its handler: all that handler entry saves (R305) and entry sets (R304). -/
structure Work where
  pc     : DWord
  priv   : Bool
  s      : Vector DWord 64
  k      : Vector Word 8
  w      : Vector Word 16
  /-- Vector registers; an unlisted one reads zero. For an elastic group, those now in the register file. -/
  v      : Tab VVal
  q      : Vector QVal 8
  /-- Registers below this number exist (R126). -/
  budget : Nat
  /-- Elastic registers: the image in the save area (R292), and the registers cached, latest used first. -/
  elastic : Bool
  image  : Tab VVal
  cached : List Nat
  /-- `now` at the last use of each cached register. -/
  used   : Tab Nat
  cnt    : Counters
  sprue  : List SprueItem
  cur0   : Option Cursor
  cur1   : Option Cursor
  /-- Forks open at the Armature, innermost first. -/
  aForks : List Fork
  /-- Arm masks of the forks open at the lanes, innermost first (R131, R132). -/
  lForks : List (Word × Word)
  /-- Fork depths of the standing frames, innermost first (R133). -/
  frames : List Nat
  retq   : List RetEntry
  latch  : Option Latch
  srseed : Word
  epoch  : Nat
  /-- Generators of the lanes; an unlisted lane has not been seeded. -/
  gens   : Tab Gen
  bar    : Option BarWait
  /-- Recasts that have not performed, oldest first. -/
  recasts : List Recast
  /-- The copy command at issue that has begun to read its index list. -/
  list   : Option ListRead
  /-- The place in issue order of the Armature access whose precise fault `pc` has gone back to (R296). -/
  back   : Option Nat
deriving DecidableEq, Repr

/-! ## Accesses in flight -/

/-- Coherence classes (R22). -/
inductive CClass where
  | non | dev | sys
deriving DecidableEq, Repr

/-- The bytes one lane has in an entry: virtual and physical (or scratchpad) address, byte count, and whether the lane's
guard was poisoned (R211). -/
structure Elem where
  lane : Nat
  va   : DWord
  pa   : Nat
  n    : Nat
  gp   : Bool
deriving DecidableEq, Repr

/-- Where the data of a load goes. -/
inductive Dest where
  | sreg (d : SReg) (signed : Bool)
  | vreg (d : Nat) (signed : Bool)
deriving DecidableEq, Repr

/-- Kinds of load-point entry (R63). `launch` reads an entry image of a VLAUNCH (R230). -/
inductive LoadKind where
  | load | readOnly | scratch | lock | launch
deriving DecidableEq, Repr

/-- What every entry carries. `key` is the push place of the token that carries it (0 in the Armature stream), `iseq`
the instruction it belongs to, `level` 0 for the group's own work and n for its handler entry n. -/
structure Access where
  seq    : Nat
  key    : Nat
  iseq   : Nat
  stream : Stream
  level  : Nat
  scope  : Scope
  order  : Order
  cls    : CClass
  pts    : Time
  pc     : DWord
  word   : Nat
  cur    : Bool
  counter : Option Counter
  /-- Paired mode: what reaches lane l reaches lane l + 16 as well (R311). -/
  pair   : Bool
deriving DecidableEq, Repr

/-- A load-point entry (R63): one line's part of a load, or a whole lock request. -/
structure LoadEntry where
  acc   : Access
  kind  : LoadKind
  elems : List Elem
  dest  : Dest
deriving DecidableEq, Repr

/-- The bytes one lane stores, or the operands of its atomic. -/
structure SElem where
  lane : Nat
  va   : DWord
  pa   : Nat
  data : List Byte
  b    : DWord
  c    : DWord
  gp   : Bool
deriving DecidableEq, Repr

/-- Kinds of store-queue entry (R63). `mdst` is an entry whose bytes have not been placed (R263). -/
inductive StoreKind where
  | store | scratch | atomic (op : AtomOp) (n : Nat) (ret : Option Dest) | unlock | mdst
deriving DecidableEq, Repr

/-- A store-queue entry (R63). -/
structure StoreEntry where
  acc   : Access
  kind  : StoreKind
  elems : List SElem
deriving DecidableEq, Repr

/-- A lane of an LKL: the lane, its address and the line it names. -/
structure LockLane where
  lane : Nat
  va   : DWord
  line : Nat
  gp   : Bool
deriving DecidableEq, Repr

/-- A lock request in progress (R112, R116 to R118). `taken` counts the lines granted so far; a request that has not
`joined` waits for an earlier one of its group. `limit` is the timeout in ticks, if there is one. -/
structure LockReq where
  iseq   : Nat
  seq    : Nat
  level  : Nat
  dest   : Nat
  lanes  : List LockLane
  lines  : List Nat
  taken  : Nat
  joined : Bool
  orphan : Bool
  limit  : Option Nat
  /-- The status of a request that failed while its group was absent (R118). -/
  failed : Option Nat
  ticks  : Nat
  partCycles : Nat
  pc     : DWord
  word   : Nat
  cur    : Bool
deriving DecidableEq, Repr

/-- The lines a group holds, with their translations' addresses for the records (R113, R116). -/
structure HeldLine where
  line : Nat
  /-- The line stands in the core's L1 owned and pinned; false while it has yet to be brought in (R120). -/
  pinned : Bool
deriving DecidableEq, Repr

/-- A VLAUNCH whose loads have not all performed (R230): its queue, the images read so far by lane, and where the statuses go. -/
structure PendLaunch where
  iseq   : Nat
  queue  : Nat
  images : List (Nat × List Byte)
  dest   : Nat
  act    : Word
  gp     : Word
deriving DecidableEq, Repr

/-! ## Faults -/

/-- A fault record before it is written (R297, R298). `cont` marks a continuation record. -/
structure Rec where
  va   : DWord
  aux  : DWord
  pc   : DWord
  word : Word
  src  : BitVec 3
  lane : BitVec 5
  nest : Bool
  cls  : BitVec 4
  sub  : BitVec 4
  /-- `lane` is a lane that raised the fault (R304). -/
  byLane : Bool
  /-- Its place in issue order: loads of the group before it perform before it is written (R302). -/
  seq  : Nat
  /-- It counts in no handler entry (R122, R295). -/
  alone : Bool
deriving DecidableEq, Repr

/-- What the records of one handler entry have added up to (R304). -/
structure Entry where
  /-- TAIL at the first record; `none` while none has been written or dropped. -/
  tail  : Option (BitVec 16)
  count : Nat
  cls   : BitVec 4
  sub   : BitVec 4
  lanes : Word
  /-- A record of class BOUND, POISON or PAIR is among them (R309). -/
  fatal : Bool
deriving DecidableEq, Repr

/-- A handler that has taken over a group (R303 to R307). -/
structure Handler where
  /-- The number of this entry: the `level` of what it issues. -/
  entryNo : Nat
  saved   : Work
  first   : Entry
  ran     : Nat
deriving DecidableEq, Repr

/-- Why a group does not run its own instructions. -/
inductive Hold where
  /-- It runs. -/
  | none
  /-- It has faulted and takes no ISSUE until it is in its handler (R303). -/
  | vectoring
  /-- It waits for the host driver (R190, R307, R308). -/
  | suspended
deriving DecidableEq, Repr

/-- What the scheduler keeps for a group (R289 to R291). Times are values of `State.now`. `stalled` is when the stall that the
last tick of the core found began, if it found one. -/
structure Sched where
  active   : Bool
  ready    : Bool
  prio     : Nat
  since    : Nat
  readyAt  : Nat
  issuedAt : Nat
  stalled  : Option Nat
deriving DecidableEq, Repr

/-- A group (R63, R124). `core` is meaningful while it is present (R86). -/
structure Group where
  ctx     : Nat
  team    : Nat
  number  : Nat
  role    : Nat
  core    : Nat
  slot    : Nat
  present : Bool
  work    : Work
  handler : Option Handler
  hold    : Hold
  loads   : List LoadEntry
  stores  : List StoreEntry
  locks   : List HeldLine
  requests : List LockReq
  launches : List PendLaunch
  /-- Records found and not yet written (R302), and what has been written for the coming entry. -/
  faults  : List Rec
  entry   : Option Entry
  sched   : Sched
  /-- Virtual address of its group record in the save area (R305). -/
  record  : DWord
  /-- The number of its next handler entry. -/
  nextEntry : Nat
deriving DecidableEq, Repr

/-! ## Teams, grids, queues and contexts -/

/-- An operand-buffer slot (R250). An element that is not listed is zero; a tile's keys are 128·k + j, an
accumulator's 128·i + j. -/
structure SlotRec where
  fmt   : SlotFmt
  data  : Tab Word
  scale : Word
  tpois : Bool
  rpois : Word
deriving DecidableEq, Repr

/-- The hidden flags of a barrier word (R137): groups registered, groups arrived in this phase, deferred count. -/
structure Barrier where
  reg : List Nat
  arrived : List Nat
  deferred : Nat
deriving DecidableEq, Repr

/-- What a team that was saved keeps (R293, R294): the pts and its team save record. -/
structure SavedTeam where
  pts  : Time
  record : DWord
deriving DecidableEq, Repr

/-- A team (R124). Scratchpad bytes that are not listed read zero (R15). -/
structure Team where
  ctx     : Nat
  grid    : Nat
  index   : Nat
  core    : Nat
  groups  : List Nat
  scratch : Tab Byte
  /-- Sectors of its scratchpad that are poisoned (R60). -/
  bad     : List Nat
  slots   : Tab SlotRec
  bars    : Tab Barrier
  saved   : Option SavedTeam
  /-- It has been chosen to be saved: its groups take no ISSUE (R293). -/
  saving  : Bool
  /-- Its place in placement order (R293). -/
  placedAt : Nat
deriving DecidableEq, Repr

/-- A launch packet (R284). -/
structure LaunchPacket where
  entry : DWord
  table : DWord
  gx : Nat
  gy : Nat
  gz : Nat
  groups : Nat
  flags : Byte
  curve : Byte
  tile  : Byte
  scratch : Nat
  counts : List Nat
  budgets : List Nat
  obuf : Nat
  bar : Nat
  arg : DWord
  done : DWord
deriving DecidableEq, Repr

/-- A grid that has started and is not complete (R287, R8). -/
structure Grid where
  ctx    : Nat
  queue  : Nat
  packet : LaunchPacket
  prio   : Nat
  elastic : Bool
  notify : Bool
  /-- The order in which its entry became eligible (R285). -/
  order  : Nat
  /-- The distributor's cursor: a core 0 to 319 (R288). -/
  cursor : Nat
  /-- Teams placed so far, in the visit order (R287). -/
  placed : Nat
  /-- The wts its cores JUMP to before its first team issues (R285). -/
  depTime : Option Time
  firstKill : Option (BitVec 4)
  killed : Bool
  /-- Cores on which one of its groups has run (R8). -/
  cores  : List Nat
deriving DecidableEq, Repr

/-- A launch-queue entry that has not started (R283). -/
structure QEntry where
  image   : List Byte
  device  : Bool
  checked : Bool
  depMet  : Bool
  depTime : Option Time
  /-- Its place in the order in which entries became eligible (R285); 0 before. -/
  eligibleAt : Nat
  /-- The grid made for it once the scheduler has chosen it; it leaves the queue when the first team is placed. -/
  grid : Option Nat
  /-- Its place in the queue's ring while the scheduler has not read it there (R282, R326). -/
  unread : Option Nat
deriving DecidableEq, Repr

/-- A launch queue (R282, R326). Entries that start leave the list. -/
structure Queue where
  ctx   : Option Nat
  c     : Nat
  base  : DWord
  head  : Nat
  tail  : Nat
  entries : List QEntry
  /-- The grid of the entry before the head, for SERIAL (R283); it is no longer listed once its word is written. -/
  lastGrid : Option Nat
deriving DecidableEq, Repr

/-- States of a context (R326). -/
inductive CtxState where
  | closed | open | closing
deriving DecidableEq, Repr

/-- A pool frame (R36, R43): its frame number and the latest wts of its zero fill, if the part filled it. -/
structure PoolFrame where
  pfn  : Nat
  fill : Option Time
deriving DecidableEq, Repr

/-- A frame in quarantine (R43): its number and stamp, and whether a sweep has found its stamp at or before HOR (log 9). -/
structure QFrame where
  pfn   : Nat
  stamp : Time
  due   : Bool
deriving DecidableEq, Repr

/-- A context (R9). -/
structure Ctx where
  state  : CtxState
  gen    : BitVec 12
  root   : BitVec 52
  fring  : DWord
  fhnd   : DWord
  head   : BitVec 16
  tail   : BitVec 16
  ovf    : Bool
  drops  : BitVec 15
  errKind  : BitVec 4
  errCount : BitVec 8
  errAddr  : BitVec 52
  used   : Nat
  quota  : Nat
  grants : Bool
  savebase : DWord
  /-- Units of 64 KiB taken in the save area: first unit and number. -/
  units  : List (Nat × Nat)
  pool   : List PoolFrame
  quarantine : List QFrame
deriving DecidableEq, Repr

/-! ## Cores -/

/-- Kinds of L1 line (R49). -/
inductive LineKind where
  | leased (wts rts : Time)
  | owned (wts : Time) (dirty : BitVec 128) (pinned : Bool)
  | noncoh (dirty : BitVec 128)
deriving DecidableEq, Repr

/-- The bytes of a line and the poison bits of its sectors (R60, R65). -/
structure LineData where
  bytes  : Vector Byte 128
  poison : BitVec 4
deriving DecidableEq, Repr

/-- A line of an L1 (R49, R64). -/
structure L1Line where
  kind : LineKind
  data : LineData
deriving DecidableEq, Repr

/-- Dirty bytes of a recalled line that have not gone home (R64). -/
structure WbLine where
  data  : LineData
  dirty : BitVec 128
deriving DecidableEq, Repr

/-- A line of the read-only view (R54, R64). -/
structure RoLine where
  ctx  : Nat
  line : Nat
  data : LineData
deriving DecidableEq, Repr

/-- A TLB entry (R23, R25, R64): the page's first virtual address, its size, the leaf and the lease end. -/
structure TlbEntry where
  ctx   : Nat
  gen   : BitVec 12
  page  : Nat
  big   : Bool
  leaf  : DWord
  lease : Time
deriving DecidableEq, Repr

/-- The kinds of copy (R269); `dup` is the duplicate copy of an RSPL (R34). -/
inductive CmdKind where
  | cpy | cpys | cpyw | gath | scat | cpyob | fred | dup
deriving DecidableEq, Repr

/-- A destination page of a command (R270): virtual page, physical frame address, class and translation pts. -/
structure DstPage where
  page : Nat
  pa   : Nat
  cls  : CClass
  pts  : Time
deriving DecidableEq, Repr

/-- Source bytes a command has read (R66): 128 bytes from a line-aligned virtual address, or an error response. -/
structure ReadLine where
  va   : Nat
  data : LineData
  bad  : Bool
deriving DecidableEq, Repr

/-- What a write of the command replaced, for source bytes it has not yet read (R279). -/
structure OldLine where
  line : Nat
  data : LineData
deriving DecidableEq, Repr

/-- A copy command in an engine (R66, R80, R281). -/
structure Cmd where
  id     : BitVec 16
  ctx    : Nat
  group  : Nat
  level  : Nat
  kind   : CmdKind
  block  : Block
  /-- Virtual address of the command block, or physical address of the frame that an RSPL duplicates. -/
  at_    : DWord
  iseq   : Nat
  index  : List Word
  oor    : Nat
  pages  : List DstPage
  todo   : List Nat
  done   : List OldLine
  read   : List ReadLine
  lastWts : Option Time
  running : Bool
  stalled : Bool
  err    : Bool
  /-- The handler entry whose return repeats a stalled read (R280). -/
  until_ : Nat
  /-- FRED: the switch has accepted the contributions (R278). -/
  sent   : Bool
  team   : Nat
  grid   : Nat
deriving DecidableEq, Repr

/-- The status of a command that has ended (R281). -/
structure CmdStatus where
  id  : BitVec 16
  ctx : Nat
  /-- Its place in issue order. -/
  iseq : Nat
  oor : Nat
  flt : Bool
  err : Bool
deriving DecidableEq, Repr

/-- What a matrix instruction does when it performs (R257 to R264), with the lane values read at issue (R255). -/
inductive MatOp where
  | mma (d b : Slot) (kind : Option F8) (a : List VVal) (scale : VVal)
  | mzero (d : Slot)
  | mdrn (va : VReg) (s : Slot) (g : BitVec 2) (n : BitVec 4)
  | mdst (s : Slot) (n : BitVec 4) (bf16 : Bool)
  | mpois (q : QReg) (s : Slot) (clr : Bool)
deriving DecidableEq, Repr

/-- A matrix instruction that has issued and not performed (R253). `after` lists the CPYOBs
it waits for: core and identifier. -/
structure MatInstr where
  seq   : Nat
  iseq  : Nat
  group : Nat
  level : Nat
  team  : Nat
  mask  : Word
  /-- Lanes whose guard bit is poisoned (R211). -/
  gp    : Word
  /-- Paired mode (R311). -/
  pair  : Bool
  op    : MatOp
  pc    : DWord
  word  : Nat
  cur   : Bool
  after : List (Nat × BitVec 16)
deriving DecidableEq, Repr

/-- A tensor monitor (R265), and the context that set it last (R267). -/
structure Monitor where
  ctx  : Option Nat
  act  : BitVec 2
  lo   : Word
  hi   : Word
  nan  : Word
  flag : Word
  bins : Vector Word 32
deriving DecidableEq, Repr

/-- A core, or the host agent (R64, R325). Every table's unlisted key means "not held". -/
structure Core where
  pts    : Time
  cyc    : DWord
  /-- The period of the tick in progress (R106), and the cycles of it that reads of CYC have shown (the model's own
  field, log 4). -/
  period : Nat
  seen   : Nat
  l1     : Tab L1Line
  wb     : Tab WbLine
  ro     : List RoLine
  /-- The entries of both TLBs, latest use first (R23). -/
  tlb    : List TlbEntry
  /-- The two instruction caches (R45, R55), latest fill first. -/
  icache : Tab LineData
  lcache : Tab LineData
  engine : List Cmd
  nextId : BitVec 16
  status : List CmdStatus
  matrix : List MatInstr
  mons   : Vector Monitor 16
  evsel  : Vector DWord 8
  evcnt  : Vector DWord 8
  lastGrid : Option Nat
deriving DecidableEq, Repr

/-! ## Homes -/

/-- The home record of a line (R65). A line that is not listed has been evicted, or never filled (R57). -/
structure Home where
  wts    : Time
  rts    : Time
  owner  : Option Nat
  holder : Option Nat
  queue  : List Nat
  orphan : Bool
  records : List (Nat × BitVec 16)
  held   : Bool
deriving DecidableEq, Repr

/-- A Plinth (R57, R98): its summary time and the last FLOOR it received. -/
structure Plinth where
  summary : Time
  floor   : Time
deriving DecidableEq, Repr

/-- A line of an RDC (R56): a clean copy with its rts, or a non-coherent line with its dirty bytes. -/
structure RdcLine where
  data  : LineData
  wts   : Time
  rts   : Time
  noncoh : Bool
  dirty : BitVec 128
deriving DecidableEq, Repr

/-- A miss that a walker has taken and not finished (R24): its core, context and address, and its pts (R42). -/
structure Walk where
  core : Nat
  ctx  : Nat
  va   : DWord
  pts  : Time
deriving DecidableEq, Repr

/-! ## Package -/

/-- States of R320. -/
inductive Power where
  | off | ambient | cooling | soak | train | run | retreat | hold | warming
deriving DecidableEq, Repr

/-- The core clock (R315). -/
inductive Clock where
  | stopped | mhz1000 | mhz1200
deriving DecidableEq, Repr

/-- One fabric reduction open at the switches (R278). `sum` is in steps of 2^(X − 64). -/
structure Fred where
  count : Nat
  ty    : BitVec 4
  x     : BitVec 8
  contribs : Nat
  root  : BitVec 8
  got   : Nat
  sum   : List Int
  bad   : List Bool
  /-- The root's command: engine and identifier. -/
  dest  : Option (Nat × BitVec 16)
deriving DecidableEq, Repr

/-- A host or fabric request that waits (R319, R325, R328). -/
inductive Request where
  | read (pa : BitVec 52) (n : Nat)
  | write (pa : BitVec 52) (bytes : List Byte)
  | fabric (p : Packet)
deriving DecidableEq, Repr

/-- The answer to a host or peer request: bytes, or an error response. -/
structure Answer where
  req   : Nat
  ok    : Bool
  bytes : List Byte
deriving DecidableEq, Repr

/-- A fabric port (R328): whether it is up, and the replays of each flit. -/
structure Port where
  up : Bool
  replays : Tab Nat
deriving DecidableEq, Repr

/-- An attestation report (R331). -/
structure Report where
  nonce : List Byte
  hash  : List Byte
  open_ : List (Nat × BitVec 12 × Bool)
  lost  : List Nat
  signature : List Byte
deriving DecidableEq, Repr

/-- Which copy a silent replacement drops (R49, R54, R57), as an entry of the agenda. -/
inductive Replace where
  | l1 (core line : Nat) | rdc (die line : Nat) | ro (core ctx line : Nat)
  | icache (core line : Nat) | lcache (core line : Nat) | home (line : Nat)
deriving DecidableEq, Repr

/-- What the machine does in one step: an ISSUE of an Armature or of a cursor (R69), a step of the table, a silent
replacement, a miss that comes to a core's walker (R24), or another try of a request that waits (R325). -/
inductive Move where
  | issueA (g : Nat)
  | issueL (g : Nat) (cur : Bool)
  | act (i : Instr)
  | replace (r : Replace)
  | miss (core ctx : Nat) (va : DWord)
  | retry (req : Nat)
deriving DecidableEq, Repr

/-- Whose instruction is at issue, and its word as fetched (log 1). -/
structure Focus where
  group : Nat
  cur   : Bool
  word  : Nat
deriving DecidableEq, Repr

/-- The package (R2, R313 to R332): all but cores, homes, contexts and work. -/
structure Pkg where
  power  : Power
  clock  : Clock
  seq    : BitVec 8
  code   : BitVec 2
  tmax   : BitVec 12
  tmin   : BitVec 12
  exc1   : BitVec 8
  exc2   : BitVec 8
  exc3   : BitVec 8
  peakBand : BitVec 2
  peak   : BitVec 12
  rate   : BitVec 12
  sensors : List (Option (BitVec 12))
  /-- TMAX of the last 60 s of samples, latest first (R317). -/
  history : List (BitVec 12)
  /-- Samples taken in this state, and in a row within SOAK's limits (R320). -/
  samples : Nat
  soaked : Nat
  hostHold : Bool
  /-- The entry actions of HOLD are done, and the restore on leaving it (R319). -/
  drained : Bool
  firmware : Option (List Byte)
  fwFailed : Bool
  /-- COOLING ran out of time, as reported to the host (R320). -/
  coolFailed : Bool
  /-- WARM was written while the entry actions of HOLD were still running (R320). -/
  warmWanted : Bool
  /-- The clock step that RUN or RETREAT was entered with is still to be taken (R318, R320). -/
  stepping : Bool
  /-- The exit of HOLD is still placing the saved teams (R319, R320). -/
  exiting : Bool
  lost   : List Nat
  errlog : List Nat
  counters : Tab Nat
  msix   : List Nat
  fabricNo : BitVec 8
  ports  : List Port
  /-- The size of the HDM decoder's window in units of 256 MiB (R324). -/
  hdm    : Nat
  /-- Local lines that the directory holds as system-coherent, rising (R325, R328, log 110). -/
  snooped : List Nat
  freds  : Tab Fred
  /-- Generations closed whose drain marker has not returned: context and generation (R329). -/
  markers : List (Nat × BitVec 12)
  report : Option Report
  requests : Tab Request
  answers : List Answer
deriving DecidableEq, Repr

/-- The whole machine. -/
structure State where
  /-- Home memory by physical address; see Memory.lean for what an unlisted byte reads as. -/
  mem     : List Host.Cell
  /-- Sectors (physical address / 32) poisoned at home, rising. -/
  poison  : List Nat
  homes   : Tab Home
  plinths : Tab Plinth
  /-- Mapping counts by frame number; an unlisted local frame counts 1 (R32). -/
  mapcnt  : Tab Nat
  /-- RDC lines by die: key die · 2^45 + line. -/
  rdc     : Tab RdcLine
  cores   : Tab Core
  groups  : Tab Group
  teams   : Tab Team
  grids   : Tab Grid
  queues  : Tab Queue
  ctxs    : Vector Ctx 16
  pkg     : Pkg
  lease   : BitVec 8
  tick    : BitVec 13
  lead    : Time
  /-- Advances of LEAD within the last interval of R99, latest first: `now` at each and its size. -/
  leadLog : List (Nat × Nat)
  /-- The walks under way in the walkers of all dies (R24). -/
  walks   : List Walk
  /-- `now` at the last delivery of FLOOR to each core (key c) and Plinth (512 + p), and at the last sweep by each core
  (1024 + c), Plinth (1536 + p) and die's RDC (2048 + d) (R98, R101); 0 for a key that is not listed. -/
  visits  : Tab Nat
  /-- Cycles counted by the ticks taken. -/
  now     : Nat
  probedAt : Nat
  /-- The model's own fields (log 1, log 4). -/
  agenda  : List Move
  turn    : Nat
  focus   : Focus
  draws   : Nat
  nextSeq : Nat
  nextGroup : Nat
  nextTeam : Nat
  nextGrid : Nat
  nextReq : Nat
deriving DecidableEq, Repr

/-! ## How a step can stop -/

/-- Reasons for which the machine itself would stop. Every fault of the spec is an exception of one group (R295 to R310):
it is a next state. No step answers with this. -/
inductive Fault where
  /-- No step raises this; it would be safe. -/
  | never
deriving DecidableEq, Repr

/-- Reasons for which an instruction has no meaning in this model. -/
inductive Refusal where
  /-- Raised by an arm of exec that has no meaning yet; safe. -/
  | notModelled (mnemonic : String)
deriving DecidableEq, Repr

/-! ## Reset -/

/-- A vector register after group start (R126). -/
def VVal.zero : VVal := ⟨Vector.replicate 32 0, 0⟩

/-- A monitor after reset (R265). -/
def Monitor.init : Monitor := ⟨none, 0, 0xFF800000, 0x7F800000, 0, 0, Vector.replicate 32 0⟩

/-- A core after reset (R104, R106, R187, R265, R270, R332). -/
def Core.init : Core :=
  { pts := 0, cyc := 0, period := 64, seen := 0, l1 := [], wb := [], ro := [], tlb := [], icache := [], lcache := []
    engine := [], nextId := 1, status := [], matrix := [], mons := Vector.replicate 16 Monitor.init
    evsel := Vector.replicate 8 0, evcnt := Vector.replicate 8 0, lastGrid := none }

/-- A context after reset (R115, R300, R301, R306, R312; the rest log 2). -/
def Ctx.init : Ctx :=
  { state := .closed, gen := 0, root := 0, fring := 0, fhnd := 0, head := 0, tail := 0, ovf := false, drops := 0
    errKind := 0, errCount := 0, errAddr := 0, used := 0, quota := 0x100, grants := false, savebase := 0
    units := [], pool := [], quarantine := [] }

/-- A launch queue after reset (log 2). -/
def Queue.init : Queue := { ctx := none, c := 4, base := 0, head := 0, tail := 0, entries := [], lastGrid := none }

/-- The package after POWER_ON (R316, R317, R320). -/
def Pkg.init : Pkg :=
  { power := .ambient, clock := .stopped, seq := 0, code := 3, tmax := 0, tmin := 0, exc1 := 0, exc2 := 0, exc3 := 0
    peakBand := 0, peak := 0, rate := 0, sensors := List.replicate 64 (some 0), history := [], samples := 0, soaked := 0
    hostHold := false, drained := false, firmware := none, fwFailed := false, coolFailed := false, warmWanted := false
    stepping := false, exiting := false, lost := [], errlog := [], counters := [], msix := [], fabricNo := 0
    ports := List.replicate 48 ⟨true, []⟩, hdm := 0, snooped := [], freds := [], markers := [], report := none, requests := [], answers := [] }

/-- The machine right after reset: power applied, nothing started (R320). -/
def State.reset : State :=
  { mem := [], poison := [], homes := [], plinths := [], mapcnt := [], rdc := [], cores := [], groups := [], teams := []
    grids := [], queues := [], ctxs := Vector.replicate 16 Ctx.init, pkg := Pkg.init, lease := 0x0A, tick := 0x40
    lead := 0, leadLog := [], walks := [], visits := [], now := 0, probedAt := 0, agenda := [], turn := 0, focus := ⟨0, false, 0⟩, draws := 0
    nextSeq := 1, nextGroup := 0, nextTeam := 0, nextGrid := 0, nextReq := 0 }

end Sys2Proof.Machine
end

