-- ==== Sys2Proof/Machine/Tab.lean ====
section
/-!
DEFINITION. The sparse tables and the small list operations that State and its operations use.
-/
namespace Sys2Proof.Tab

/-- The value a key has, if it is listed. -/
def find? {α : Type} : Tab α → Nat → Option α
  | [], _ => none
  | (k, a) :: t, n => if n = k then some a else find? t n

/-- The value a key has, or a default. -/
def get {α : Type} (t : Tab α) (n : Nat) (d : α) : α := (find? t n).getD d

/-- Gives a key a value; keys stay in rising order. -/
def put {α : Type} : Tab α → Nat → α → Tab α
  | [], n, a => [(n, a)]
  | (k, b) :: t, n, a =>
    if n < k then (n, a) :: (k, b) :: t else if n = k then (n, a) :: t else (k, b) :: put t n a

/-- Takes a key out. -/
def erase {α : Type} (t : Tab α) (n : Nat) : Tab α := t.filter fun (k, _) => k != n

/-- Changes the value of a key that is listed. -/
def modify {α : Type} (t : Tab α) (n : Nat) (f : α → α) : Tab α :=
  t.map fun (k, b) => if k = n then (k, f b) else (k, b)

/-- Changes every value. -/
def mapVals {α : Type} (t : Tab α) (f : Nat → α → α) : Tab α := t.map fun (k, b) => (k, f k b)

/-- The keys listed. -/
def keys {α : Type} (t : Tab α) : List Nat := t.map (·.1)

/-- The values listed. -/
def vals {α : Type} (t : Tab α) : List α := t.map (·.2)

/-- Keeps the entries that a test accepts. -/
def keep {α : Type} (t : Tab α) (p : Nat → α → Bool) : Tab α := t.filter fun (k, b) => p k b

end Sys2Proof.Tab

namespace Sys2Proof

/-- The first list entry with the least measure. -/
def minOf? {α : Type} (f : α → Nat) : List α → Option α
  | [] => none
  | a :: l => match minOf? f l with
    | none => some a
    | some b => if f a ≤ f b then some a else some b

/-- A list with repeats taken out, first places kept. -/
def dedup {α : Type} [BEq α] : List α → List α
  | [] => []
  | a :: l => a :: (dedup l).filter (fun b => !(b == a))

/-- A list, latest first, without the members of a set that come after the first `n` of them. -/
def keepWays {α : Type} (p : α → Bool) : Nat → List α → List α
  | _, [] => []
  | 0, a :: l => if p a then keepWays p 0 l else a :: keepWays p 0 l
  | n + 1, a :: l => a :: keepWays p (if p a then n else n + 1) l

/-- Puts a number in its place in a rising list. -/
def insertNat (a : Nat) : List Nat → List Nat
  | [] => [a]
  | b :: l => if a ≤ b then a :: b :: l else b :: insertNat a l

/-- Sorts numbers in rising order. -/
def sortNat : List Nat → List Nat
  | [] => []
  | a :: l => insertNat a (sortNat l)

/-- The first `n` numbers from `a`. -/
def upFrom (a n : Nat) : List Nat := (List.range n).map (a + ·)

end Sys2Proof
end

