-- ==== Sys2Proof/Machine/Memory.lean ====
section
/-!
DEFINITION. Home memory in its canonical form, lines and poison, the address map (R13, R14, R47), and logical times
(R68, R95 to R100).
-/
namespace Sys2Proof.Machine

/-! ## Bytes -/

namespace Memory

/-- What a byte of memory that nothing has written reads as: arrays and DRAM are cleared to zero at TRAIN (R320). The
model takes the same value before TRAIN (log 3). -/
def blank : Byte := 0

/-- One byte. -/
def get : List Host.Cell → Nat → Byte
  | [], _ => blank
  | (k, b) :: m, a => if a = k then b else if a < k then blank else get m a

/-- Stores one byte; the blank value takes the entry out. -/
def set : List Host.Cell → Nat → Byte → List Host.Cell
  | [], a, v => if v = blank then [] else [(a, v)]
  | (k, b) :: m, a, v =>
    if a < k then (if v = blank then (k, b) :: m else (a, v) :: (k, b) :: m)
    else if a = k then (if v = blank then m else (a, v) :: m)
    else (k, b) :: set m a v

/-- Stores bytes one after another. -/
def setBytes (m : List Host.Cell) : Nat → List Byte → List Host.Cell
  | _, [] => m
  | a, v :: vs => setBytes (set m a v) (a + 1) vs

/-- The listing from an address on. -/
def dropBelow : List Host.Cell → Nat → List Host.Cell
  | [], _ => []
  | (k, b) :: m, a => if k < a then dropBelow m a else (k, b) :: m

/-- Bytes from an address on. -/
def getBytes (m : List Host.Cell) (a n : Nat) : List Byte :=
  let t := dropBelow m a
  (List.range n).map fun i => get t (a + i)

/-- Every listed address is at or above a bound, addresses rise strictly, and no listed byte is blank. -/
def wfFrom : Nat → List Host.Cell → Bool
  | _, [] => true
  | lo, (k, b) :: m => decide (lo ≤ k) && !(b == blank) && wfFrom (k + 1) m

/-- The canonical form. -/
def wf (m : List Host.Cell) : Bool := wfFrom 0 m

end Memory

/-- Little-endian value of bytes (R3). -/
def leVal : List Byte → Nat
  | [] => 0
  | b :: bs => b.toNat + 256 * leVal bs

/-- Little-endian bytes of a value (R3). -/
def leBytesOf : Nat → Nat → List Byte
  | 0, _ => []
  | n + 1, v => BitVec.ofNat 8 v :: leBytesOf n (v / 256)

/-! ## Logical times -/

/-- Serial order: `a` at or before `b` (R26, R96). -/
def serialLe (a b : Time) : Bool := decide ((b - a).toNat < 2 ^ 15)

/-- The serially later time (R68). -/
def serialMax (a b : Time) : Time := if serialLe a b then b else a

/-- The serially earlier time (R68). -/
def serialMin (a b : Time) : Time := if serialLe a b then a else b

/-- Stale: more than 2^14 ticks behind the reference (R100). -/
def stale (t ref : Time) : Bool := serialLe t ref && decide (2 ^ 14 < (ref - t).toNat)

/-- A stale time reads as the clamp value (R100). -/
def clamp (t ref : Time) : Time := if stale t ref then ref - BitVec.ofNat 16 (2 ^ 14) else t

/-- FLOOR (R98). -/
def State.floor (s : State) : Time := s.lead - BitVec.ofNat 16 (2 ^ 13)

/-! ## The address map -/

/-- What stands at a physical address (R13, R14). -/
inductive Place where
  /-- Usable memory, or the hold region's neighbourhood seen by the part; at home on a pair, or beyond the package. -/
  | here
  /-- Error response. -/
  | error
  /-- On a lost die pair (R61). -/
  | lost (k : Nat)
deriving DecidableEq, Repr

/-- The regions of R13. -/
inductive Region where
  | local_ | peer (f : Nat) | host | reserved
deriving DecidableEq, Repr

/-- The region of a physical address (R13). -/
def region (pa : Nat) : Region :=
  let top := pa >>> 49
  if top = 0 then (if pa < 2 ^ 41 then .local_ else .reserved)
  else if top = 1 then .peer ((pa >>> 41) % 256)
  else if top = 2 then .host
  else .reserved

/-- The die pair of a local address (R47). -/
def pairOf (pa : Nat) : Nat := (pa >>> 38) % 8

/-- The DRAM stack of a local address, among the three of its pair (R47). -/
def stackOf (pa : Nat) : Nat := pa % 2 ^ 38 / 2 ^ 12 % 3

/-- The usable local region of R13. -/
def usableLocal (pa : Nat) : Bool := region pa == .local_ && decide (pa % 2 ^ 38 < Config.holdBase)

/-- What an access finds at a physical address (R14, R61). A peer is out of reach while no fabric port is up (R328). -/
def State.place (s : State) (pa : Nat) : Place :=
  match region pa with
  | .local_ =>
    if s.pkg.lost.contains (pairOf pa) then .lost (pairOf pa) else if usableLocal pa then .here else .error
  | .peer f =>
    if f = s.pkg.fabricNo.toNat || !s.pkg.ports.any (·.up) then .error else if Config.remotePresent pa then .here else .error
  | .host => if Config.remotePresent pa then .here else .error
  | .reserved => .error

/-- The line of a physical address (R44). -/
def lineOf (pa : Nat) : Nat := pa / 128

/-- The home Plinth of a local line (R47), numbered 48·k + p. -/
def plinthOf (line : Nat) : Nat := 48 * ((line >>> 31) % 8) + (line % 2 ^ 31) % 48

/-- A line is homed at a Plinth of this package. -/
def isLocal (line : Nat) : Bool := region (line * 128) == .local_

/-- The compute die of a core (R288). -/
def dieOf (core : Nat) : Nat := core / Config.coresPerDie

/-! ## Lines at home -/

/-- The poison bits of the four sectors of a line at home (R60). -/
def State.linePoison (s : State) (line : Nat) : BitVec 4 :=
  BitVec.ofNat 4 ((List.range 4).foldl (fun a j => if s.poison.contains (line * 4 + j) then a + 2 ^ j else a) 0)

/-- The data of a line at home. -/
def State.homeData (s : State) (line : Nat) : LineData :=
  let t := Memory.dropBelow s.mem (line * 128)
  ⟨Vector.ofFn fun i : Fin 128 => Memory.get t (line * 128 + i.val), s.linePoison line⟩

/-- Sets or clears one sector's poison bit at home, keeping the list rising. -/
def setSector (l : List Nat) (k : Nat) (p : Bool) : List Nat :=
  if p then (if l.contains k then l else insertNat k l) else l.filter (· != k)

/-- The mask of all 32 bytes of sector `j`. -/
def sectorMask (j : Nat) : BitVec 128 := BitVec.ofNat 128 ((2 ^ 32 - 1) * 2 ^ (32 * j))

/-- The poison of a line after bytes under a mask come in (R60): writing a whole sector sets its poison to that of the
bytes, writing a part of it can only add poison. -/
def mixPoison (old new : BitVec 4) (mask : BitVec 128) : BitVec 4 :=
  BitVec.ofNat 4 ((List.range 4).foldl (fun a j =>
    let m := mask &&& sectorMask j
    let p := if m = 0 then old.getLsbD j else if m = sectorMask j then new.getLsbD j else old.getLsbD j || new.getLsbD j
    if p then a + 2 ^ j else a) 0)

/-- Bytes of a line under a mask replace those of another. -/
def mixData (old new : LineData) (mask : BitVec 128) : LineData :=
  ⟨Vector.ofFn fun i : Fin 128 => if mask.getLsbD i.val then new.bytes[i] else old.bytes[i],
   mixPoison old.poison new.poison mask⟩

/-- The listing after the masked bytes of a line are written, from the line's byte `i` on. -/
def writeMasked (m : List Host.Cell) (base : Nat) (d : Vector Byte 128) (mask : BitVec 128) : List Nat → List Host.Cell
  | [] => m
  | i :: is =>
    writeMasked (if mask.getLsbD i then Memory.set m (base + i) (d[i]?.getD 0) else m) base d mask is

/-- Writes the masked bytes of a line at home, with their poison. -/
def State.putHome (s : State) (line : Nat) (d : LineData) (mask : BitVec 128) : State :=
  let p := mixPoison (s.linePoison line) d.poison mask
  { s with
    mem := writeMasked s.mem (line * 128) d.bytes mask (List.range 128)
    poison := (List.range 4).foldl (fun l j => setSector l (line * 4 + j) (p.getLsbD j)) s.poison }

/-- A line image with some bytes placed at an offset; the mask of those bytes. -/
def lineWith (off : Nat) (bs : List Byte) : LineData :=
  ⟨Vector.ofFn fun i : Fin 128 => if off ≤ i.val then (bs[i.val - off]?).getD 0 else 0, 0⟩

/-- The mask of `n` bytes at an offset. -/
def maskOf (off n : Nat) : BitVec 128 := BitVec.ofNat 128 ((2 ^ n - 1) * 2 ^ off)

/-- Bytes of a line. -/
def LineData.slice (d : LineData) (off n : Nat) : List Byte := (List.range n).map fun i => (d.bytes[off + i]?).getD 0

/-- Some byte of a range lies in a poisoned sector. -/
def LineData.poisoned (d : LineData) (off n : Nat) : Bool :=
  (List.range n).any fun i => d.poison.getLsbD ((off + i) / 32)

end Sys2Proof.Machine
end

