-- ==== Sys2Proof/Machine/Basics.lean ====
section
/-!
DEFINITION. The monad of the longer moves, and the accessors of cores, groups and registers that every meaning uses.
A move that cannot be taken waits, and a wait leaves the state as it was (R67).
-/
namespace Sys2Proof.Machine

/-- A fault as a check finds it (R295): class, sub-code, and the VA and AUX of its record (R297, R299). -/
structure XFault where
  cls : BitVec 4
  sub : BitVec 4
  va  : DWord
  aux : DWord
deriving DecidableEq, Repr

/-- How a move ends early: it waits, or its checks find faults (by lane, in ascending order). -/
inductive Stop where
  | wait
  | faults (l : List (Nat × XFault))
deriving DecidableEq, Repr

/-- A move under way. -/
abbrev M := EStateM Stop State

/-- The move's precondition does not hold (R67). -/
def waitM {α : Type} : M α := throw .wait

/-- Goes on only if a precondition holds. -/
def need (b : Bool) : M Unit := if b then pure () else waitM

/-- Stops with one fault. -/
def faultM {α : Type} (cls sub : BitVec 4) (va aux : DWord) : M α := throw (.faults [(0, ⟨cls, sub, va, aux⟩)])

/-! ## Fault classes (R295) -/

namespace Cls
def translation : BitVec 4 := 1
def permission : BitVec 4 := 2
def scope : BitVec 4 := 3
def align : BitVec 4 := 4
def illegal : BitVec 4 := 5
def forknest : BitVec 4 := 6
def bound : BitVec 4 := 7
def poison : BitVec 4 := 8
def pair : BitVec 4 := 9
def homelost : BitVec 4 := 10
def errresp : BitVec 4 := 11
def watchdog : BitVec 4 := 12
def deadlock : BitVec 4 := 13
def cont : BitVec 4 := 14
end Cls

/-- ILLEGAL for an encoding (R158, R295). -/
def illegalM {α : Type} : M α := faultM Cls.illegal 0 0 0
/-- ILLEGAL for a missing privilege or grant (R295). -/
def privilegeM {α : Type} : M α := faultM Cls.illegal 1 0 0

/-! ## Cores -/

/-- A core; one that is not listed is as after reset. -/
def State.core (s : State) (c : Nat) : Core := Tab.get s.cores c Core.init

/-- Changes a core. -/
def State.updCore (s : State) (c : Nat) (f : Core → Core) : State := { s with cores := Tab.put s.cores c (f (s.core c)) }

/-- Adds to the event counters of a core that count an event of a context (R332). -/
def Core.count (c : Core) (ctx : Nat) (code : BitVec 8) (n : Nat) : Core :=
  { c with evcnt := Vector.ofFn fun i : Fin 8 =>
      let sel := c.evsel[i]
      if sel.getLsbD 16 ∧ (sel.extractLsb' 17 4).toNat = ctx ∧ sel.extractLsb' 0 8 = code
      then c.evcnt[i] + BitVec.ofNat 64 n else c.evcnt[i] }

/-- Counts one event (R332). -/
def State.event (s : State) (core ctx : Nat) (code : BitVec 8) : State := s.updCore core (·.count ctx code 1)

/-! ## Groups and their work -/

/-- A group, if it exists. -/
def State.group? (s : State) (g : Nat) : Option Group := Tab.find? s.groups g

/-- Changes a group. -/
def State.updGroup (s : State) (g : Nat) (f : Group → Group) : State := { s with groups := Tab.modify s.groups g f }

/-- A group is present for the lock queues: present, and not suspended (R119, R190, R307). -/
def Group.queued (g : Group) : Bool := g.present && g.hold != .suspended

/-- Changes the work that a level names: the group's own (0) or that of handler entry n. Work that has ended is left. -/
def Group.updWork (g : Group) (level : Nat) (f : Work → Work) : Group :=
  match g.handler with
  | none => if level = 0 then { g with work := f g.work } else g
  | some h =>
    if level = h.entryNo then { g with work := f g.work }
    else if level = 0 then { g with handler := some { h with saved := f h.saved } } else g

/-- The level of the work that runs now. -/
def Group.level (g : Group) : Nat := match g.handler with
  | none => 0
  | some h => h.entryNo

/-- Changes the work a level of a group names. -/
def State.updWork (s : State) (g level : Nat) (f : Work → Work) : State := s.updGroup g (·.updWork level f)

/-! ## Registers -/

/-- s-register read; s0 reads zero (R142). -/
def Work.sreg (w : Work) (r : SReg) : DWord := if r = 0 then 0 else w.s[r.toNat]'(r.isLt)

/-- s-register write; a write to s0 is discarded (R165). -/
def Work.setS (w : Work) (r : SReg) (v : DWord) : Work :=
  if r = 0 then w else { w with s := w.s.set r.toNat v (r.isLt) }

/-- Mask register read. -/
def Work.kreg (w : Work) (r : KReg) : Word := w.k[r.toNat]'(r.isLt)

/-- Mask register write; k0 never changes (R126). -/
def Work.setK (w : Work) (r : KReg) (v : Word) : Work :=
  if r = 0 then w else { w with k := w.k.set r.toNat v (r.isLt) }

/-- Uniform register read. -/
def Work.wreg (w : Work) (r : WReg) : Word := w.w[r.toNat]'(r.isLt)

/-- Uniform register write. -/
def Work.setW (w : Work) (r : WReg) (v : Word) : Work := { w with w := w.w.set r.toNat v (r.isLt) }

/-- A vector register; an unlisted one reads zero in every lane (R126). -/
def Work.vreg (w : Work) (r : Nat) : VVal := Tab.get w.v r VVal.zero

/-- Vector register write. -/
def Work.setV (w : Work) (r : Nat) (v : VVal) : Work := { w with v := Tab.put w.v r v }

/-- q register read. -/
def Work.qreg (w : Work) (r : QReg) : QVal := w.q[r.toNat]'(r.isLt)

/-- q register write. -/
def Work.setQ (w : Work) (r : QReg) (v : QVal) : Work := { w with q := w.q.set r.toNat v (r.isLt) }

/-- One lane of a vector register value. -/
def VVal.lane (v : VVal) (l : Fin 32) : Word := v.val[l]

/-- One lane of a vector register takes a value and a poison bit. -/
def VVal.setLane (v : VVal) (l : Nat) (x : Word) (p : Bool) : VVal :=
  ⟨v.val.setIfInBounds l x, if p then v.poison ||| (1#32 <<< l) else v.poison &&& ~~~(1#32 <<< l)⟩

/-! ## Counters (R63, R69) -/

/-- A counter's value. -/
def Counters.get (c : Counters) : Counter → Nat
  | .ldc => c.ldc | .stc => c.stc | .cpc => c.cpc | .mxc => c.mxc | .rcc => c.rcc | .lkc => c.lkc

/-- Changes a counter. -/
def Counters.upd (c : Counters) (k : Counter) (f : Nat → Nat) : Counters :=
  match k with
  | .ldc => { c with ldc := f c.ldc } | .stc => { c with stc := f c.stc } | .cpc => { c with cpc := f c.cpc }
  | .mxc => { c with mxc := f c.mxc } | .rcc => { c with rcc := f c.rcc } | .lkc => { c with lkc := f c.lkc }

/-- All counters zero. -/
def Counters.zero : Counters := ⟨0, 0, 0, 0, 0, 0⟩

/-- Raises a counter. -/
def Work.raise (w : Work) (k : Counter) : Work := { w with cnt := w.cnt.upd k (· + 1) }

/-- Lowers a counter. -/
def Work.lower (w : Work) (k : Counter) : Work := { w with cnt := w.cnt.upd k (· - 1) }

/-! ## Monadic accessors -/

/-- The group a move names; a move of a group that does not exist is not taken. -/
def theGroup (g : Nat) : M Group := do
  match (← get).group? g with
  | some x => pure x
  | none => waitM

/-- The team of a group. -/
def theTeam (t : Nat) : M Team := do
  match Tab.find? (← get).teams t with
  | some x => pure x
  | none => waitM

/-- The grid of a team. -/
def theGrid (n : Nat) : M Grid := do
  match Tab.find? (← get).grids n with
  | some x => pure x
  | none => waitM

/-- A context. -/
def State.ctx (s : State) (c : Nat) : Ctx := (s.ctxs[c]?).getD Ctx.init

/-- Changes a context. -/
def State.updCtx (s : State) (c : Nat) (f : Ctx → Ctx) : State := { s with ctxs := s.ctxs.setIfInBounds c (f (s.ctx c)) }

def modCore (c : Nat) (f : Core → Core) : M Unit := modify (·.updCore c f)
def modGroup (g : Nat) (f : Group → Group) : M Unit := modify (·.updGroup g f)
def modWork (g level : Nat) (f : Work → Work) : M Unit := modify (·.updWork g level f)
def modCtx (c : Nat) (f : Ctx → Ctx) : M Unit := modify (·.updCtx c f)
def modTeam (t : Nat) (f : Team → Team) : M Unit := modify fun s => { s with teams := Tab.modify s.teams t f }
def modPkg (f : Pkg → Pkg) : M Unit := modify fun s => { s with pkg := f s.pkg }

/-- The next number in issue order. -/
def fresh : M Nat := do
  let s ← get
  set { s with nextSeq := s.nextSeq + 1 }
  pure s.nextSeq

/-- The next draw of a free value (log 4). -/
def draw : M Nat := do
  let s ← get
  set { s with draws := s.draws + 1 }
  pure s.draws

/-- Does something for each member of a list. -/
def each {α : Type} (l : List α) (f : α → M Unit) : M Unit :=
  match l with
  | [] => pure ()
  | a :: t => do f a; each t f

/-- Takes a move; one that waits leaves the state as it was. -/
def takeMove (s : State) (m : M Unit) : State :=
  match m s with
  | .ok _ s' => s'
  | .error _ _ => s

/-- A move as an outcome of a step. -/
def moveStep (s : State) (m : M Unit) : Host.Outcome State Fault Refusal := .next (takeMove s m)

/-- Bits `hi:lo` of a 64-bit value, as a number. -/
def bitsOf (v : DWord) (hi lo : Nat) : Nat := (v.extractLsb' lo (hi + 1 - lo)).toNat

/-- An address with a non-zero bit in 63:57 (R11). -/
def nonCanonical (va : DWord) : Bool := va.extractLsb' 57 7 != 0

/-- Number of set bits of a word. -/
def popcount (w : Word) : Nat := (List.range 32).foldl (fun n i => if w.getLsbD i then n + 1 else n) 0

end Sys2Proof.Machine
end

