-- ==== Sys2Proof/Machine/Caches.lean ====
section
/-!
DEFINITION. Homes, L1 views, remote-data caches and the moves between them: JUMP, RENEW, RECALL, WRITEBACK, gaining
ownership, filling non-coherent lines (R49 to R57, R73 to R79, R87, R98, R99).
-/
namespace Sys2Proof.Machine

/-! ## Time (R77, R98, R99) -/

/-- The clocks run (R107, R315). -/
def State.clocked (s : State) : Bool := s.pkg.clock != .stopped

/-- The cycle in which a core's tick in progress ends (R97). -/
def Core.tickEnd (k : Core) : Nat := k.cyc.toNat + k.period

/-- Every core has taken its tick of the present cycle (R97). -/
def State.settled (s : State) : Bool :=
  (List.range (Config.hostAgent + 1)).all fun c => decide (s.now < (s.core c).tickEnd)

/-- The shortest period of a tick that is in progress or to come (R106). -/
def State.pace (s : State) : Nat := (List.range (Config.hostAgent + 1)).foldl (fun p c => min p (s.core c).period) s.tick.toNat

/-- The advances of LEAD that an interval up to now still counts (R99), latest first. -/
def State.advances (s : State) : List (Nat × Nat) := s.leadLog.filter fun (at_, _) => decide (s.now < at_ + Config.leadWindow)

/-- The advances of a list, latest first, leave room in every interval that holds them: those of the interval, `n` of them counted
already, and the ticks that can come before it ends stay within R99's limit. -/
def leadRoom (now pace : Nat) : Nat → List (Nat × Nat) → Bool
  | _, [] => true
  | n, (at_, k) :: l =>
    decide (n + k + (at_ + Config.leadWindow - now + pace - 1) / pace ≤ Config.leadLimit) && leadRoom now pace (n + k) l

/-- LEAD can advance by `adv` now: no interval of 16,384 cycles comes to hold more than 2^11, ticks that are still to come at the
shortest period `pace` among them (R99, log 45). -/
def State.leadFits (s : State) (pace adv : Nat) : Bool := leadRoom s.now (max pace 1) 0 ((s.now, adv) :: s.advances)

/-- LEAD after a time has been stamped or reached by a jump. The move waits until R99 allows it. While no clock runs LEAD holds
(R107). -/
def stampLead (t : Time) : M Unit := do
  let s ← get
  let new := serialMax s.lead t
  let adv := (new - s.lead).toNat
  if adv = 0 || !s.clocked then pure () else
    need (s.leadFits s.pace adv)
    set { s with lead := new, leadLog := (s.now, adv) :: s.advances }

/-- JUMP (R77). A core that has yet to take a tick of the present cycle takes it first (R97, log 45). While no clock runs pts holds
(R107). -/
def jump (c : Nat) (t : Time) : M Unit := do
  let s ← get
  if s.clocked then
    need (decide (s.now < (s.core c).tickEnd))
    let p := serialMax (s.core c).pts t
    stampLead p
    modCore c ({ · with pts := p })
  else pure ()

/-! ## Home records (R57, R65, R100) -/

/-- A Plinth; one that is not listed is as after reset: summary time 0 and the FLOOR of LEAD 0 (log 2). -/
def State.plinth (s : State) (p : Nat) : Plinth := Tab.get s.plinths p ⟨0, 0xE000⟩

/-- A Plinth's view of LEAD (R100). -/
def State.leadView (s : State) (line : Nat) : Time := (s.plinth (plinthOf line)).floor + 0x2000

/-- The record of a line as its home reads it: stale times are clamped (R100), and a line that is filled again takes the
summary time (R57). -/
def State.home (s : State) (line : Nat) : Home :=
  let ref := s.leadView line
  match Tab.find? s.homes line with
  | some h => { h with wts := clamp h.wts ref, rts := clamp h.rts ref }
  | none =>
    let t := clamp (s.plinth (plinthOf line)).summary ref
    ⟨t, t, none, none, [], false, [], false⟩

/-- Stores a line's record. -/
def State.setHome (s : State) (line : Nat) (h : Home) : State := { s with homes := Tab.put s.homes line h }

def modHome (line : Nat) (f : Home → Home) : M Unit := modify fun s => s.setHome line (f (s.home line))

/-- A line is blocked (R68). -/
def State.blocked (s : State) (line : Nat) : Bool :=
  let h := s.home line
  h.held || !h.records.isEmpty

/-- A Plinth has a way for a line: it holds the line, or its set has fewer than 16 others (R46). A line that a range record
covers stands beyond the ways (log 96). -/
def State.homeRoom (s : State) (line : Nat) : Bool :=
  !isLocal line || decide (s.homes.length < Config.homeWays) ||
    (match Tab.find? s.homes line with
    | some h => h.records.isEmpty
    | none => false) ||
    decide ((s.homes.filter fun (l, h) => l != line && h.records.isEmpty && isLocal l && plinthOf l == plinthOf line &&
      Config.plinthSet l == Config.plinthSet line).length < Config.homeWays)

/-- A thread access can perform at a line's home now: the line is not blocked, and its Plinth has a way for it (R46, R68). -/
def State.serves (s : State) (line : Nat) : Bool := !s.blocked line && s.homeRoom line

/-- Waits until a line's home can serve it. -/
def unblocked (line : Nat) : M Unit := do need ((← get).serves line)

/-- A system-coherent access performs in the directory, in the one order of its line, with no wts and no rts (R84, R328). The
directory then holds the line as system-coherent (R325, log 110). -/
def sysLine (line : Nat) : M Unit := do
  unblocked line
  if isLocal line then
    modPkg fun p => { p with snooped := if p.snooped.contains line then p.snooped else insertNat line p.snooped }
  else pure ()

/-- Writes bytes at home and stamps the line for core `c`: wts := SerialMax(pts, rts + 1), rts := wts (R75, R79, R80,
R84). A line of a peer or of the host is not stamped here, and no line is while no clock runs (R107). The answer is the wts. -/
def storeHome (c line : Nat) (d : LineData) (mask : BitVec 128) : M Time := do
  need ((← get).homeRoom line)
  modify (·.putHome line d mask)
  let s ← get
  if isLocal line && s.clocked then
    let w := serialMax (s.core c).pts ((s.home line).rts + 1)
    stampLead w
    modHome line ({ · with wts := w, rts := w })
    pure w
  else pure (s.core c).pts

/-! ## Remote-data caches (R46, R56, R87) -/

/-- A line is homed away from a core's die (R56). -/
def remoteTo (c line : Nat) : Bool := !isLocal line || pairOf (line * 128) != dieOf c % 8

/-- The key of an RDC line. -/
def rdcKey (die line : Nat) : Nat := die * 2 ^ 45 + line

/-- The RDC line of a core's die. -/
def State.rdcLine (s : State) (c line : Nat) : Option RdcLine :=
  if remoteTo c line then Tab.find? s.rdc (rdcKey (dieOf c) line) else none

def State.setRdc (s : State) (c line : Nat) (r : RdcLine) : State :=
  { s with rdc := Tab.put s.rdc (rdcKey (dieOf c) line) r }

/-- Every way of a line's set in an RDC holds another line (R46). -/
def State.rdcFull (s : State) (die line : Nat) : Bool :=
  decide (Config.homeWays ≤ s.rdc.length) &&
    decide (Config.homeWays ≤ (s.rdc.filter fun (k, _) => k / 2 ^ 45 == die && k != rdcKey die line &&
      Config.rdcSet (k % 2 ^ 45) == Config.rdcSet line).length)

/-- A clean copy that the RDC of a core's die keeps; where its set is full it is dropped at once (R46, log 96). -/
def keepRdc (c line : Nat) (r : RdcLine) : M Unit := do
  if (← get).rdcFull (dieOf c) line then pure () else modify (·.setRdc c line r)

/-- A copy that the RDC of a core's die holds takes bytes that the core has written at home, and the time of the write (R56).
A clean copy takes the line as home now holds it; of a dirty non-coherent line those bytes are no longer dirty (log 33). -/
def rdcUpdate (c line : Nat) (d : LineData) (mask : BitVec 128) (t : Time) : M Unit := do
  let s ← get
  match s.rdcLine c line with
  | none => pure ()
  | some r =>
    set (s.setRdc c line (if r.noncoh then { r with data := mixData r.data d mask, dirty := r.dirty &&& ~~~mask }
      else { r with data := s.homeData line, wts := t, rts := t }))

/-! ## Write-backs and recalls (R50 to R53, R78, R79) -/

/-- Writes an L1's or a buffer's dirty bytes home, through the RDC of the core's die; no dirty byte, no write and no stamp
(R56, R79). -/
def dirtyHome (c line : Nat) (d : LineData) (dirty : BitVec 128) : M Unit :=
  if dirty = 0 then pure () else do
    let w ← storeHome c line d dirty
    rdcUpdate c line d dirty w

/-- A group on core `c` holds the line's lock (R78). -/
def State.lockedOn (s : State) (line c : Nat) : Bool :=
  match (s.home line).holder with
  | none => false
  | some g => match s.group? g with
    | none => false
    | some x => x.present && x.core == c

/-- WRITEBACK from the write-back buffer: the owner becomes none, unless its copy stays pinned (R78, R79). -/
def writebackBuffer (c line : Nat) : M Unit := do
  match Tab.find? ((← get).core c).wb line with
  | none => waitM
  | some b =>
    dirtyHome c line b.data b.dirty
    modCore c fun k => { k with wb := Tab.erase k.wb line }
    let kept := match Tab.find? ((← get).core c).l1 line with
      | some ⟨.owned .., _⟩ => true
      | _ => false
    if kept then pure () else modHome line ({ · with owner := none })

/-- RECALL (R78): the owner's dirty bytes move to its write-back buffer and its copy leaves, or stays pinned and clean. -/
def recallLine (line : Nat) : M Unit := do
  let s ← get
  match (s.home line).owner with
  | none => pure ()
  | some o =>
    match Tab.find? (s.core o).l1 line with
    | some ⟨.owned wts dirty _, d⟩ =>
      let merged := match Tab.find? (s.core o).wb line with
        | none => ⟨d, dirty⟩
        | some b => (⟨mixData b.data d dirty, b.dirty ||| dirty⟩ : WbLine)
      modCore o fun k =>
        { k with wb := Tab.put k.wb line merged
                 l1 := if s.lockedOn line o then Tab.put k.l1 line ⟨.owned wts 0 true, d⟩ else Tab.erase k.l1 line }
    | _ => pure ()

/-- Recall and write-back, as far as the line has an owner that is to give it up. -/
def clearOwner (line : Nat) : M Unit := do
  recallLine line
  match ((← get).home line).owner with
  | none => pure ()
  | some o =>
    if (Tab.find? ((← get).core o).wb line).isSome then writebackBuffer o line
    else match Tab.find? ((← get).core o).l1 line with
      | some ⟨.owned .., _⟩ => pure ()
      | _ => modHome line ({ · with owner := none })

/-- Recall and write-back if a core other than `c` owns the line; bytes that `c` itself has in its buffer go home. -/
def clearOther (c line : Nat) : M Unit := do
  let s ← get
  match (s.home line).owner with
  | none => pure ()
  | some o =>
    if o ≠ c then clearOwner line
    else if (Tab.find? (s.core c).wb line).isSome then writebackBuffer c line else pure ()

/-- The write-back buffer of a core holds no bytes of a line; older bytes go home before newer ones (R94). -/
def bufferFree (c line : Nat) : M Unit := do need (Tab.find? ((← get).core c).wb line).isNone

/-- WRITEBACK for a release or fence: dirty bytes go home, ownership stays (R52, R79). -/
def writebackRelease (c line : Nat) : M Unit := do
  bufferFree c line
  match Tab.find? ((← get).core c).l1 line with
  | some ⟨.owned wts dirty pin, d⟩ =>
    dirtyHome c line d dirty
    modCore c fun k => { k with l1 := Tab.put k.l1 line ⟨.owned wts 0 pin, d⟩ }
  | _ => waitM

/-- WRITEBACK on replacement: an unpinned owned line goes home and its owner becomes none (R53, R79). -/
def writebackReplace (c line : Nat) : M Unit := do
  bufferFree c line
  match Tab.find? ((← get).core c).l1 line with
  | some ⟨.owned _ dirty false, d⟩ =>
    dirtyHome c line d dirty
    modCore c fun k => { k with l1 := Tab.erase k.l1 line }
    modHome line ({ · with owner := none })
  | _ => waitM

/-- The dirty owned lines of a core (R52). -/
def Core.dirtyOwned (c : Core) : List Nat :=
  (c.l1.filter fun (_, l) => match l.kind with
    | .owned _ d _ => d != 0
    | _ => false).map (·.1)

/-- The write-backs of a device- or system-scope release or fence of core `c` (R52, R75, R93). -/
def releaseCore (c : Nat) : M Unit := do
  each (Tab.keys ((← get).core c).wb) (writebackBuffer c)
  each ((← get).core c).dirtyOwned (writebackRelease c)

/-! ## Dirty lines of an RDC (R56) -/

/-- The RDC writes a dirty non-coherent line home. -/
def rdcClean (die line : Nat) : M Unit := do
  match Tab.find? (← get).rdc (rdcKey die line) with
  | some r =>
    if r.dirty = 0 then pure () else
      let _ ← storeHome (die * Config.coresPerDie) line r.data r.dirty
      modify fun s => { s with rdc := Tab.put s.rdc (rdcKey die line) { r with dirty := 0 } }
  | none => pure ()

/-! ## L1 copies -/

/-- Every way of a line's set holds another line (R45). -/
def Core.setFull (c : Core) (line : Nat) : Bool :=
  decide (Config.l1Ways ≤ (c.l1.filter fun (k, _) => k % Config.l1Sets == line % Config.l1Sets && k != line).length)

/-- A copy a core keeps; where every way of its set holds another line it is dropped at once (R49, R53, log 96). -/
def keepCopy (c line : Nat) (l : L1Line) : M Unit := do
  if ((← get).core c).setFull line then pure () else modCore c fun k => { k with l1 := Tab.put k.l1 line l }

/-- Dirty bytes of a non-coherent L1 line go to the RDC for a line homed elsewhere, else home (R49, R56). -/
def noncohBack (c line : Nat) : M Unit := do
  match Tab.find? ((← get).core c).l1 line with
  | some ⟨.noncoh dirty, d⟩ =>
    if dirty = 0 then pure ()
    else if remoteTo c line then
      let s ← get
      need (!s.rdcFull (dieOf c) line)
      let r := (s.rdcLine c line).getD ⟨s.homeData line, 0, 0, true, 0⟩
      set (s.setRdc c line { r with data := mixData r.data d dirty, noncoh := true, dirty := r.dirty ||| dirty })
    else dirtyHome c line d dirty
    modCore c fun k => { k with l1 := Tab.put k.l1 line ⟨.noncoh 0, d⟩ }
  | _ => waitM

/-- Dirty bytes of a line go home if the RDC of the core's die holds it as non-coherent (R56). -/
def leaveRdc (c line : Nat) : M Unit := do
  match (← get).rdcLine c line with
  | some r => if r.dirty = 0 then pure () else rdcClean (dieOf c) line
  | none => pure ()

/-- A line leaves as non-coherent before it is held as another kind: the dirty bytes of the core's copy and of its die's RDC
go home (R49, R56, log 10). -/
def leaveNoncoh (c line : Nat) : M Unit := do
  match Tab.find? ((← get).core c).l1 line with
  | some ⟨.noncoh dirty, _⟩ => if dirty = 0 then leaveRdc c line else do noncohBack c line; leaveRdc c line
  | _ => leaveRdc c line

/-- The rts that a home grants at a pts (R76, R82); while no clock runs it holds (R107). -/
def State.grantedRts (s : State) (h : Home) (pts : Time) : Time :=
  if s.clocked then serialMax h.rts (pts + BitVec.ofNat 16 s.lease.toNat) else h.rts

/-- RENEW (R76): the home grants core `c` a lease, and the core and its RDC take leased copies. -/
def renew (c ctx line : Nat) : M L1Line := do
  unblocked line
  leaveNoncoh c line
  clearOther c line
  let s ← get
  let h := s.home line
  let r := s.grantedRts h (s.core c).pts
  stampLead r
  modHome line ({ · with rts := r })
  modify (·.event c ctx 0x05)
  let d := s.homeData line
  let copy : L1Line := ⟨.leased h.wts r, d⟩
  match Tab.find? (s.core c).l1 line with
  | some ⟨.owned .., _⟩ => pure ()
  | _ => keepCopy c line copy
  if remoteTo c line then keepRdc c line ⟨d, h.wts, r, false, 0⟩ else pure ()
  pure copy

/-- A copy's lease serves a time: not past its end, and not stale (R49, R100). -/
def leaseServes (pts rts : Time) : Bool := serialLe pts rts && !stale rts pts

/-- The clean copy of the RDC of a core's die, which acts as a leased copy in the L1 view of the core (R87). Where the core's own
write-back buffer holds bytes of the line that copy is older than they are, and home is read after them (R94). -/
def State.rdcCopy (s : State) (c line : Nat) : Option RdcLine :=
  if (Tab.find? (s.core c).wb line).isSome then none else (s.rdcLine c line).filter (!·.noncoh)

/-- A leased copy for a device-scope load: the RDC's while its lease lasts, else by RENEW (R56, R73, R87). -/
def leasedCopy (c ctx line : Nat) : M L1Line := do
  leaveNoncoh c line
  let s ← get
  match s.rdcCopy c line with
  | some r =>
    if leaseServes (s.core c).pts r.rts then
      let copy : L1Line := ⟨.leased r.wts r.rts, r.data⟩
      keepCopy c line copy
      pure copy
    else renew c ctx line
  | none => renew c ctx line

/-- The data of a non-coherent line that the L1 does not hold: from the RDC, else from home (R49, R56). -/
def fillNoncoh (c ctx line : Nat) : M L1Line := do
  modify (·.event c ctx 0x04)
  let s ← get
  match s.rdcLine c line with
  | some r =>
    let copy : L1Line := ⟨.noncoh 0, r.data⟩
    keepCopy c line copy
    pure copy
  | none =>
    unblocked line
    let d := (← get).homeData line
    if remoteTo c line then keepRdc c line ⟨d, 0, 0, true, 0⟩ else pure ()
    let copy : L1Line := ⟨.noncoh 0, d⟩
    keepCopy c line copy
    pure copy

/-- Gains an owned copy for a group- or core-scope store or atomic (R75, R84). It waits where no way can hold the copy (R45,
R53). A line that the L1 does not hold is a miss (R332). -/
def gainOwned (c ctx line : Nat) : M Unit := do
  match Tab.find? ((← get).core c).l1 line with
  | some ⟨.owned .., _⟩ => pure ()
  | found =>
    if found.isNone then modify (·.event c ctx 0x04) else pure ()
    unblocked line
    leaveNoncoh c line
    clearOther c line
    let s ← get
    let h := s.home line
    need (h.owner.isNone || h.owner == some c)
    need (!(s.core c).setFull line)
    modHome line ({ · with owner := some c })
    modCore c fun k => { k with l1 := Tab.put k.l1 line ⟨.owned h.wts 0 false, s.homeData line⟩ }

/-- The copy a group- or core-scope access, or one to a non-coherent line, reads, and the wts it JUMPs to (R73). A clean copy
in the RDC is a leased copy of the L1 view, which serves such an access at any pts (R87). A line that the L1 does not hold is a miss
(R332); one that it holds with an expired lease, or as another kind, is not (R48). -/
def readL1 (c ctx line : Nat) (scope : Scope) (cls : CClass) : M (LineData × Option Time) := do
  let s ← get
  let out (l : L1Line) : LineData × Option Time := match l.kind with
    | .leased w _ => (l.data, some w)
    | .owned w _ _ => (l.data, some w)
    | .noncoh _ => (l.data, none)
  match Tab.find? (s.core c).l1 line with
  | none =>
    if cls = .non then pure (out (← fillNoncoh c ctx line))
    else
      modify (·.event c ctx 0x04)
      match s.rdcCopy c line with
      | some r =>
        if scope == .grp || scope == .core then do
          let copy : L1Line := ⟨.leased r.wts r.rts, r.data⟩
          keepCopy c line copy
          pure (out copy)
        else pure (out (← leasedCopy c ctx line))
      | none => pure (out (← leasedCopy c ctx line))
  | some l =>
    if cls = .non ∨ scope = .grp ∨ scope = .core then pure (out l)
    else match l.kind with
      | .leased _ r => if leaseServes (s.core c).pts r then pure (out l) else do pure (out (← leasedCopy c ctx line))
      | .owned .. => pure (out l)
      | .noncoh _ => do pure (out (← leasedCopy c ctx line))

/-- What VLDRO reads (R54): the view, else the L1 in any kind, else the RDC, else home. The view keeps 8 lines of a set, the
one filled first giving way (R45, log 96). -/
def readRo (c ctx line : Nat) : M LineData := do
  let s ← get
  let k := s.core c
  match k.ro.find? (fun r => r.ctx == ctx && r.line == line) with
  | some r => pure r.data
  | none =>
    let d ← match Tab.find? k.l1 line with
      | some l => pure l.data
      | none => match s.rdcLine c line with
        | some r => pure r.data
        | none => do unblocked line; pure (s.homeData line)
    modCore c fun k => { k with
      ro := ⟨ctx, line, d⟩ :: keepWays (fun r => r.line % Config.roSets == line % Config.roSets) (Config.roWays - 1) k.ro }
    pure d

/-- Writes bytes into the core's own copy at core scope (R75). -/
def writeOwned (c line : Nat) (d : LineData) (mask : BitVec 128) : M Unit := do
  match Tab.find? ((← get).core c).l1 line with
  | some ⟨.owned w dirty pin, old⟩ =>
    modCore c fun k => { k with l1 := Tab.put k.l1 line ⟨.owned w (dirty ||| mask) pin, mixData old d mask⟩ }
  | some ⟨_, old⟩ =>
    modCore c fun k =>
      let dirty := match (Tab.find? k.l1 line).map (·.kind) with
        | some (.noncoh m) => m
        | _ => 0
      { k with l1 := Tab.put k.l1 line ⟨.noncoh (dirty ||| mask), mixData old d mask⟩ }
  | none => waitM

/-- A non-coherent copy to write, filled if the L1 has no copy; it waits where no way can hold it (R53, R75). -/
def gainNoncoh (c ctx line : Nat) : M Unit := do
  match Tab.find? ((← get).core c).l1 line with
  | some _ => pure ()
  | none =>
    need (!((← get).core c).setFull line)
    let _ ← fillNoncoh c ctx line

/-- The issuer's own copy takes bytes that it has written at home with a wts (R50, R75): an owned or non-coherent one clears
them from its mask; a leased one takes the line as home now holds it, with the new times (R103, log 33). -/
def ownCopy (c line : Nat) (d : LineData) (mask : BitVec 128) (w : Time) : M Unit := do
  let s ← get
  match Tab.find? (s.core c).l1 line with
  | some ⟨.owned wts dirty pin, old⟩ =>
    modCore c fun k => { k with l1 := Tab.put k.l1 line ⟨.owned wts (dirty &&& ~~~mask) pin, mixData old d mask⟩ }
  | some ⟨.leased .., _⟩ => modCore c fun k => { k with l1 := Tab.put k.l1 line ⟨.leased w w, s.homeData line⟩ }
  | some ⟨.noncoh dirty, old⟩ =>
    modCore c fun k => { k with l1 := Tab.put k.l1 line ⟨.noncoh (dirty &&& ~~~mask), mixData old d mask⟩ }
  | none => pure ()

/-- A device-scope store or the write of a device-scope atomic: at home, then in the copies of the issuer's die and core (R50,
R56, R75, R84). Bytes of the line that a recall has moved to the core's write-back buffer stay there (log 97). -/
def storeDevice (c line : Nat) (d : LineData) (mask : BitVec 128) : M Time := do
  unblocked line
  let w ← storeHome c line d mask
  jump c w
  rdcUpdate c line d mask w
  ownCopy c line d mask w
  pure w

end Sys2Proof.Machine
end

