-- ==== Sys2Proof/Machine/Translate.lean ====
section
/-!
DEFINITION. Page-table walks and their leases, the TLB view, access checks (R11, R17 to R27, R82) and instruction
fetch (R55, R127, R166).
-/
namespace Sys2Proof.Machine

/-! ## Entries (R18 to R20, R22) -/

/-- Bit 0, V. -/
def entryValid (e : DWord) : Bool := e.getLsbD 0

/-- The class a leaf names, if it is not reserved (R19). -/
def leafClass (e : DWord) : Option CClass :=
  match bitsOf e 4 3 with
  | 0 => some .non
  | 1 => some .dev
  | 2 => some .sys
  | _ => none

/-- A class may lie in a region (R22). -/
def classRegion (c : CClass) (r : Region) : Bool :=
  match c, r with
  | .non, .local_ => true | .non, .peer _ => true
  | .dev, .local_ => true
  | .sys, .local_ => true | .sys, .peer _ => true | .sys, .host => true
  | _, _ => false

/-- Bits 51:16 as the address of the frame. -/
def leafBase (e : DWord) : Nat := bitsOf e 51 16 * 0x10000

/-- LeafWellFormed of R20. -/
def leafWellFormed (e : DWord) (level : Nat) : Bool :=
  decide (bitsOf e 15 8 = 0) && (decide (level ≠ 0) || !e.getLsbD 7) &&
  (decide (level ≠ 1) || decide (bitsOf e 20 16 = 0)) &&
  match leafClass e with
  | none => false
  | some c => classRegion c (region (leafBase e))

/-- The address of the next table. -/
def descTable (e : DWord) : Nat := bitsOf e 51 8 * 256

/-- DescriptorWellFormed of R20, for an entry found at a level. -/
def descWellFormed (e : DWord) (level : Nat) : Bool :=
  decide (bitsOf e 7 1 = 0) && (decide (level ≤ 1) || decide (bitsOf e 11 8 = 0)) && usableLocal (descTable e)

/-- The index of an address at a level (R17). -/
def tableIndex (va : DWord) (level : Nat) : Nat :=
  if level = 0 then bitsOf va 20 16 else bitsOf va (9 * level + 20) (9 * level + 12)

/-- The 8 bytes of an entry at home. -/
def State.entryAt (s : State) (pa : Nat) : DWord := BitVec.ofNat 64 (leVal (Memory.getBytes s.mem pa 8))

/-- The sector of an address at home is poisoned (R60). -/
def State.sectorPoisoned (s : State) (pa : Nat) : Bool := s.poison.contains (pa / 32)

/-- The fault of a walk, recast or RQRY that meets an entry of a poisoned sector, which is never used (R60). -/
def State.entryPoison (s : State) (va : DWord) (pa : Nat) : Option XFault :=
  if s.sectorPoisoned pa then some ⟨Cls.poison, 0, va, BitVec.ofNat 64 (pa / 32 * 32)⟩ else none

/-! ## Walks -/

/-- The entries a walk would meet, with no effect: level, address and entry. -/
def State.peek (s : State) (ctx : Nat) (va : DWord) : List (Nat × Nat × DWord) :=
  let rec go : List Nat → Nat → List (Nat × Nat × DWord)
    | [], _ => []
    | level :: rest, table =>
      let pa := table + 8 * tableIndex va level
      let e := s.entryAt pa
      (level, pa, e) ::
        (if entryValid e && !(level == 0 || (level == 1 && e.getLsbD 7)) && descWellFormed e level
          then go rest (descTable e) else [])
  go [4, 3, 2, 1, 0] (s.ctx ctx).root.toNat

/-- The physical address a context's tables give an address now, with no effect. -/
def State.peekPa (s : State) (ctx : Nat) (va : DWord) : Option Nat :=
  match (s.peek ctx va).getLast? with
  | some (level, _, e) =>
    if entryValid e && (level == 0 || (level == 1 && e.getLsbD 7)) && leafWellFormed e level then
      some (leafBase e + (if level == 1 then va.toNat % 2 ^ 21 else va.toNat % 2 ^ 16))
    else none
  | none => none

/-- The fault of an access that has no home to go to (R14, R61). -/
def placeFault (va : DWord) (pa : Nat) : Place → Option XFault
  | .here => none
  | .error => some ⟨Cls.errresp, 0, va, BitVec.ofNat 64 pa⟩
  | .lost k => some ⟨Cls.homelost, 0, va, BitVec.ofNat 64 k⟩

/-- The lease-renewing read of a line at its home for a core, with a pts (R25, R82): the line's wts and rts. -/
def readHomeAt (c : Nat) (pts : Time) (line : Nat) : M (Time × Time) := do
  unblocked line
  clearOther c line
  let s ← get
  let h := s.home line
  let r := s.grantedRts h pts
  stampLead r
  modHome line ({ · with rts := r })
  pure (h.wts, r)

/-- The same with the core's own pts. -/
def readHome (c line : Nat) : M (Time × Time) := do readHomeAt c ((← get).core c).pts line

/-- Where a walk ended: the leaf, its level and the lease end. -/
structure Leaf where
  entry : DWord
  level : Nat
  lease : Time
  /-- Address of the entry. -/
  pa    : Nat
deriving DecidableEq, Repr

/-- The levels of a walk in turn, which renews with a pts (R20, R24). The last part of the answer is the latest wts read. -/
def walkLevels (c : Nat) (pts : Time) (va : DWord) : List Nat → Nat → Time → Option Time → M (Except XFault Leaf × Option Time)
  | [], _, _, w => pure (.error ⟨Cls.translation, 2, va, 0⟩, w)
  | level :: rest, table, lease, w => do
    let pa := table + 8 * tableIndex va level
    match placeFault va pa ((← get).place pa) with
    | some f => pure (.error f, w)
    | none =>
      let (wts, rts) ← readHomeAt c pts (lineOf pa)
      let lease := serialMin lease rts
      let w := some (match w with
        | none => wts
        | some x => serialMax x wts)
      match (← get).entryPoison va pa with
      | some f => pure (.error f, w)
      | none =>
      let e := (← get).entryAt pa
      if !entryValid e then
        pure (.error ⟨Cls.translation, if level ≤ 1 ∧ e = 0 then 1 else 0, va, e⟩, w)
      else if level = 0 ∨ (level = 1 ∧ e.getLsbD 7) then
        if leafWellFormed e level then pure (.ok ⟨e, level, lease, pa⟩, w)
        else pure (.error ⟨Cls.translation, 2, va, e⟩, w)
      else if descWellFormed e level then walkLevels c pts va rest (descTable e) lease w
      else pure (.error ⟨Cls.translation, 2, va, e⟩, w)

/-- A walk with a pts (R20, R24, R82): it renews what it reads. It installs nothing. -/
def walk (c ctx : Nat) (pts : Time) (va : DWord) : M (Except XFault Leaf × Option Time) := do
  walkLevels c pts va [4, 3, 2, 1, 0] ((← get).ctx ctx).root.toNat (pts + 0x7FFF) none

/-! ## TLB view (R23, R26) -/

/-- The page of an address in a TLB entry. -/
def TlbEntry.covers (t : TlbEntry) (va : DWord) : Bool :=
  if t.big then t.page == va.toNat / 2 ^ 21 * 2 ^ 21 else t.page == va.toNat / 2 ^ 16 * 2 ^ 16

/-- A TLB entry may serve an access of a context at a core (R23, R26). While no clock runs, times hold, and an entry serves whatever
its lease (R107, log 45). -/
def State.tlbUsable (s : State) (c ctx : Nat) (va : DWord) (t : TlbEntry) : Bool :=
  t.ctx == ctx && t.gen == (s.ctx ctx).gen && t.covers va && (leaseServes (s.core c).pts t.lease || !s.clocked)

/-- The usable entry for an address. -/
def State.tlbFind (s : State) (c ctx : Nat) (va : DWord) : Option TlbEntry :=
  (s.core c).tlb.find? (s.tlbUsable c ctx va)

/-- Two entries that compete for a way: of the same TLB and, of the 64 KiB TLB, in the same set (R23). -/
def TlbEntry.rival (t o : TlbEntry) : Bool :=
  o.big == t.big && (t.big || o.page / 2 ^ 16 % Config.tlbSets == t.page / 2 ^ 16 % Config.tlbSets)

/-- The ways an entry competes for (R23). -/
def TlbEntry.ways (t : TlbEntry) : Nat := if t.big then Config.bigTlb else Config.tlbWays

/-- An entry comes in, replacing one for the same page and then the least recently used of its set (R23). -/
def Core.tlbPut (k : Core) (t : TlbEntry) : Core :=
  let others := k.tlb.filter fun o => !(o.ctx == t.ctx && o.big == t.big && o.page == t.page)
  { k with tlb := t :: keepWays t.rival (t.ways - 1) others }

/-- An entry is used (R23). -/
def Core.tlbTouch (k : Core) (t : TlbEntry) : Core := { k with tlb := t :: k.tlb.erase t }

/-- The leaf entry that an address of a context leads to: the address of the last entry its walk meets. -/
def State.leafEntry (s : State) (ctx : Nat) (va : DWord) : Nat := ((s.peek ctx va).getLast?.map (·.2.1)).getD 0

/-- The walks of a die that are for the same leaf entry in the same context as a miss of a core (R24). -/
def State.merged (s : State) (c ctx : Nat) (va : DWord) : List Walk :=
  s.walks.filter fun w => dieOf w.core == dieOf c && w.ctx == ctx && s.leafEntry ctx w.va == s.leafEntry ctx va

/-- The walks under way in a die's walker; misses that are merged are one (R24). -/
def State.walking (s : State) (die : Nat) : Nat :=
  (dedup ((s.walks.filter fun w => dieOf w.core == die).map fun w => (w.ctx, s.leafEntry w.ctx w.va))).length

/-- A core's walker can take a miss: it is merged with a walk under way, or fewer than 64 are in use (R24). -/
def State.walkerFree (s : State) (c ctx : Nat) (va : DWord) : Bool :=
  !(s.merged c ctx va).isEmpty || decide (s.walking (dieOf c) < Config.walkerSize)

/-- TLB-RENEW (R24, R82): a walk that serves a core and every miss merged with its own, with the largest pts among them. Each
core's pts JUMPs to the latest wts read, and the leaf enters its TLB view with its lease end. -/
def tlbRenew (c ctx : Nat) (va : DWord) : M (Except XFault Unit) := do
  modify (·.event c ctx 0x06)
  let s ← get
  need (s.walkerFree c ctx va)
  let with_ := s.merged c ctx va
  let cores := dedup (c :: with_.map (·.core))
  let (r, w) ← walk c ctx (with_.foldl (fun t x => serialMax t x.pts) (s.core c).pts) va
  match w with
  | none => pure ()
  | some t => each cores (jump · t)
  modify fun s => { s with walks := s.walks.filter fun x => !with_.contains x }
  match r with
  | .error f => pure (.error f)
  | .ok l =>
    let big := l.level == 1
    let size := if big then 2 ^ 21 else 2 ^ 16
    let t : TlbEntry := ⟨ctx, ((← get).ctx ctx).gen, va.toNat / size * size, big, l.entry, l.lease⟩
    each cores fun c => modCore c (·.tlbPut t)
    pure (.ok ())

/-- A miss of a context with a group on a core comes to the core's walker and stays under way until a TLB-RENEW of its leaf entry finishes it (R24). It counts in
RHOR with the pts it came with (R42). -/
def postMiss (c ctx : Nat) (va : DWord) : M Unit := do
  let s ← get
  need ((Tab.vals s.groups).any fun g => g.present && g.core == c && g.ctx == ctx)
  need (!nonCanonical va && (s.tlbFind c ctx va).isNone && s.walkerFree c ctx va &&
    !(s.merged c ctx va).any (·.core == c))
  set { s with walks := s.walks ++ [(⟨c, ctx, va, (s.core c).pts⟩ : Walk)] }

/-- A translation: physical address, leaf, class, and the pts it was taken at (R63). -/
structure Xlat where
  pa   : Nat
  leaf : DWord
  cls  : CClass
  pts  : Time
deriving DecidableEq, Repr

/-- The translation a TLB entry gives. -/
def TlbEntry.xlat (t : TlbEntry) (va : DWord) (pts : Time) : Xlat :=
  ⟨leafBase t.leaf + (if t.big then va.toNat % 2 ^ 21 else va.toNat % 2 ^ 16), t.leaf, (leafClass t.leaf).getD .non, pts⟩

/-- Translation of one address (R26): by a usable entry, else after a walk; an entry that has expired on arrival is
walked once more, and if that too has expired the access waits. -/
def translate (c ctx : Nat) (va : DWord) : M (Except XFault Xlat) := do
  if nonCanonical va then return .error ⟨Cls.translation, 3, va, 0⟩
  let use : M (Option Xlat) := do
    let s ← get
    match s.tlbFind c ctx va with
    | none => pure none
    | some t =>
      modCore c (·.tlbTouch t)
      pure (some (t.xlat va (s.core c).pts))
  match ← use with
  | some x => pure (.ok x)
  | none =>
    match ← tlbRenew c ctx va with
    | .error f => pure (.error f)
    | .ok () => match ← use with
      | some x => pure (.ok x)
      | none => match ← tlbRenew c ctx va with
        | .error f => pure (.error f)
        | .ok () => match ← use with
          | some x => pure (.ok x)
          | none => waitM

/-! ## Access checks (R21, R22, R233) -/

/-- What an access needs of its leaf (R21). -/
inductive Right where
  | load | store | fetch
deriving DecidableEq, Repr

/-- The leaf has the bits. -/
def Right.allows (r : Right) (leaf : DWord) : Bool :=
  match r with
  | .load => true
  | .store => leaf.getLsbD 1
  | .fetch => leaf.getLsbD 2

/-- Scopes that a class lists (R22). -/
def CClass.legal (c : CClass) (s : Scope) : Bool :=
  match c, s with
  | .non, .grp => true | .non, .core => true
  | .dev, .grp => true | .dev, .core => true | .dev, .dev => true
  | .sys, _ => true
  | _, _ => false

/-- Rows 4 to 7 of R233 for one address. `ro` is a VLDRO, `lock` an LKL or ULK (R112, R242). -/
def accessAt (c ctx : Nat) (va : DWord) (r : Right) (scope : Option Scope) (ro lock : Bool := false) :
    M (Except XFault Xlat) := do
  match ← translate c ctx va with
  | .error f => pure (.error f)
  | .ok x =>
    if !r.allows x.leaf then pure (.error ⟨Cls.permission, 0, va, x.leaf⟩)
    else if (match scope with | none => false | some sc => !x.cls.legal sc) || (ro && x.cls == .sys) ||
        (lock && x.cls != .dev) then
      pure (.error ⟨Cls.scope, 0, va, x.leaf⟩)
    else pure (.ok x)

/-- The same, stopping with the fault. -/
def accessM (c ctx : Nat) (va : DWord) (r : Right) (scope : Option Scope) : M Xlat := do
  match ← accessAt c ctx va r scope with
  | .ok x => pure x
  | .error f => throw (.faults [(0, f)])

/-- Stops with HOMELOST or ERRRESP where an address has no home to serve it (R14, R61). -/
def hereM (va : DWord) (pa : Nat) : M Unit := do
  match placeFault va pa ((← get).place pa) with
  | none => pure ()
  | some f => throw (.faults [(0, f)])

/-! ## Instruction fetch (R11, R55, R60, R127, R166) -/

/-- The instruction cache of one side of a core. -/
def Core.codeCache (k : Core) (lane : Bool) : Tab LineData := if lane then k.lcache else k.icache

/-- A code line comes in; of the lines of its set the one filled first gives way (R45, log 96). -/
def Core.keepCode (k : Core) (lane : Bool) (line : Nat) (d : LineData) : Core :=
  let put (sets ways : Nat) (l : Tab LineData) : Tab LineData :=
    (line, d) :: keepWays (fun e => e.1 % sets == line % sets) (ways - 1) l
  if lane then { k with lcache := put Config.lcacheSets Config.lcacheWays k.lcache }
  else { k with icache := put Config.icacheSets Config.icacheWays k.icache }

/-- A code line: from the cache, else read at its home as a device-scope relaxed load (R55). -/
def codeLine (c : Nat) (lane : Bool) (line : Nat) : M LineData := do
  match Tab.find? (((← get).core c).codeCache lane) line with
  | some d => pure d
  | none =>
    if isLocal line then
      let (w, _) ← readHome c line
      jump c w
    else pure ()
    let d := (← get).homeData line
    modCore c (·.keepCode lane line d)
    pure d

/-- One 32-bit part of an instruction. A fetch names no scope, so none of R22's is checked (log 113). -/
def fetchWord (c ctx : Nat) (lane : Bool) (va : DWord) : M Nat := do
  if va.extractLsb' 0 2 ≠ 0 then faultM Cls.align 0 va 0
  let x ← accessM c ctx va .fetch none
  if (Tab.find? (((← get).core c).codeCache lane) (lineOf x.pa)).isNone then hereM va x.pa else pure ()
  let d ← codeLine c lane (lineOf x.pa)
  if d.poisoned (x.pa % 128) 4 then faultM Cls.poison 0 va (BitVec.ofNat 64 (x.pa / 32 * 32))
  pure (leVal (d.slice (x.pa % 128) 4))

/-- An Armature word (R127). -/
def fetchArm (c ctx : Nat) (va : DWord) : M Nat := fetchWord c ctx false va

/-- A lane word: three parts, bits 31:0 first (R127, R146). -/
def fetchLane (c ctx : Nat) (va : DWord) : M Nat := do
  let a ← fetchWord c ctx true va
  let b ← fetchWord c ctx true (va + 4)
  let d ← fetchWord c ctx true (va + 8)
  pure (a + b * 2 ^ 32 + d * 2 ^ 64)

end Sys2Proof.Machine
end

