-- ==== Sys2Proof/Machine/Ops.lean ====
section
/-!
DEFINITION. The operations every family shares: the part's own accesses, taking an exception and returning from it
(R295 to R310), barrier words, ending a group.
-/
namespace Sys2Proof.Machine

/-! ## The part's own accesses -/

/-- Splits bytes at an address into runs that stay inside one line: offset in the list, address, count. -/
def lineRuns : Nat → Nat → Nat → List (Nat × Nat × Nat)
  | 0, _, _ => []
  | fuel + 1, va, n =>
    if n = 0 then [] else
      let k := min n (128 - va % 128)
      (va, va, k) :: lineRuns fuel (va + k) (n - k)

/-- An access of the part counts as no event of a context's groups (R332). -/
def uncounted {α : Type} (c : Nat) (m : M α) : M α := do
  let n := ((← get).core c).evcnt
  let r ← m
  modCore c ({ · with evcnt := n })
  pure r

/-- A device-scope store of bytes by the part through a context's page tables (R8, R302, R305). -/
def partStore (c ctx : Nat) (va : DWord) (bs : List Byte) : M (Except XFault (List Nat × Option Time)) := do
  let rec go : List (Nat × Nat × Nat) → List Nat → Option Time → M (Except XFault (List Nat × Option Time))
    | [], lines, t => pure (.ok (lines, t))
    | (at_, _, k) :: rest, lines, _ => do
      let va' := BitVec.ofNat 64 at_
      match ← accessAt c ctx va' .store (some .dev) with
      | .error f => pure (.error f)
      | .ok x => match placeFault va' x.pa ((← get).place x.pa) with
        | some f => pure (.error f)
        | none =>
          let off := x.pa % 128
          let d := lineWith off ((bs.drop (at_ - va.toNat)).take k)
          if x.cls = .sys then
            sysLine (lineOf x.pa)
            modify (·.putHome (lineOf x.pa) d (maskOf off k))
            go rest (lineOf x.pa :: lines) none
          else
            let w ← storeDevice c (lineOf x.pa) d (maskOf off k)
            go rest (lineOf x.pa :: lines) (some w)
  uncounted c (go (lineRuns (bs.length / 128 + 2) va.toNat bs.length) [] none)

/-- A device-scope relaxed load of bytes by the part (R183, R189, R285). The wts is that of the last line read. -/
def partLoad (c ctx : Nat) (va : DWord) (n : Nat) : M (Except XFault (List Byte × Option Time)) := do
  let rec go : List (Nat × Nat × Nat) → List Byte → Option Time → M (Except XFault (List Byte × Option Time))
    | [], acc, t => pure (.ok (acc, t))
    | (at_, _, k) :: rest, acc, _ => do
      let va' := BitVec.ofNat 64 at_
      match ← accessAt c ctx va' .load (some .dev) with
      | .error f => pure (.error f)
      | .ok x => match placeFault va' x.pa ((← get).place x.pa) with
        | some f => pure (.error f)
        | none =>
          let (d, w) ← if x.cls = .sys then do
              sysLine (lineOf x.pa)
              pure ((← get).homeData (lineOf x.pa), none)
            else readL1 c ctx (lineOf x.pa) .dev x.cls
          match w with
          | none => pure ()
          | some t => jump c t
          if d.poisoned (x.pa % 128) k then pure (.error ⟨Cls.poison, 0, va', BitVec.ofNat 64 (x.pa / 32 * 32)⟩)
          else go rest (acc ++ d.slice (x.pa % 128) k) w
  uncounted c (go (lineRuns (n / 128 + 2) va.toNat n) [] none)

/-- ERRLOG keeps the latest event (R312). -/
def logError (ctx : Nat) (kind : BitVec 4) (addr : Nat) : M Unit :=
  modCtx ctx fun x =>
    { x with errKind := kind, errCount := if x.errCount = 255 then 255 else x.errCount + 1
             errAddr := BitVec.ofNat 52 addr }

/-- An MSI-X signal (R326). -/
def signal (v : Nat) : M Unit := modPkg fun p => { p with msix := p.msix ++ [v] }

/-- Counts on a package counter (R332). -/
def countPkg (k : Nat) : M Unit := modPkg fun p => { p with counters := Tab.put p.counters k ((Tab.get p.counters k 0 + 1) % 2 ^ 64) }

/-! ## Fault records (R297 to R302) -/

/-- Records of the faults that one instruction's checks found: one per lane, in order (R233). -/
def recsOf (pc : DWord) (word : Word) (src : BitVec 3) (byLane : Bool) (l : List (Nat × XFault)) : List Rec :=
  l.map fun (lane, f) => ⟨f.va, f.aux, pc, word, src, BitVec.ofNat 5 lane, false, f.cls, f.sub, byLane, 0, false⟩

/-- INFO without its PH bit (R298). -/
def recInfo (g : Group) (r : Rec) : Word :=
  BitVec.ofNat 32 (r.src.toNat * 2 ^ 28 + r.lane.toNat * 2 ^ 23 + g.number % 16 * 2 ^ 19 + dieOf g.core % 8 * 2 ^ 16 +
    g.core % Config.coresPerDie * 2 ^ 10 + (if r.nest then 2 ^ 9 else 0) + r.sub.toNat * 2 ^ 4 + r.cls.toNat)

/-- The 32 bytes of a record (R297), given its counter value and the ring's SIZE + 7. -/
def recBytes (g : Group) (r : Rec) (n size : Nat) : List Byte :=
  let ph := if n.testBit size then 0 else 2 ^ 31
  leBytesOf 8 r.va.toNat ++ leBytesOf 8 r.aux.toNat ++ leBytesOf 8 r.pc.toNat ++
    leBytesOf 4 ((recInfo g r).toNat + ph) ++ leBytesOf 4 r.word.toNat

/-- The log2 of a ring's records (R300). -/
def ringBits (x : Ctx) : Nat := min (bitsOf x.fring 3 0) 8 + 7

/-- A copy command by its engine and identifier. -/
def State.cmd? (s : State) (core : Nat) (id : BitVec 16) : Option Cmd := (s.core core).engine.find? (·.id == id)

/-- The range record of a copy stalled on a fault covers a line (R301). -/
def State.stalledOn (s : State) (line : Nat) : Bool :=
  (s.home line).records.any fun (c, id) => match s.cmd? c id with
    | some k => k.stalled
    | none => false

/-- A record is lost (R301): OVF, DROPS, ERRLOG kind 3 and package counter 0x07. -/
def dropRec (ctx n : Nat) : M Unit := do
  modCtx ctx fun x => { x with ovf := true, drops := if x.drops = 0x7FFF then 0x7FFF else x.drops + 1 }
  logError ctx 3 n
  countPkg 0x07

/-- Writes one record, or drops it (R301, R302). The answer says whether it was written. It waits while a line on its
path is blocked by a running copy. -/
def writeRec (gid : Nat) (r : Rec) : M Bool := do
  let g ← theGroup gid
  let s ← get
  let x := s.ctx g.ctx
  let n := x.tail.toNat
  let bits := ringBits x
  let va : DWord := BitVec.ofNat 64 (bitsOf x.fring 56 12 * 4096 + 32 * (n % 2 ^ bits))
  let path := (s.peek g.ctx va).map (fun (_, pa, _) => lineOf pa) ++ (s.peekPa g.ctx va).toList.map lineOf
  if decide (2 ^ bits ≤ (x.tail - x.head).toNat) || path.any s.stalledOn then
    dropRec g.ctx n
    pure false
  else
    releaseCore g.core
    match ← accessAt g.core g.ctx va .store (some .dev) with
    | .error _ => do dropRec g.ctx n; pure false
    | .ok t =>
      if t.cls ≠ .dev then do dropRec g.ctx n; pure false
      else match ← partStore g.core g.ctx va (recBytes g r n bits) with
        | .error _ => do dropRec g.ctx n; pure false
        | .ok _ => do
          modCtx g.ctx fun x => { x with tail := x.tail + 1 }
          pure true

/-- A record is of a class that ends the group unless RECOV is set (R306, R309). -/
def Rec.fatal (r : Rec) : Bool := r.cls == Cls.bound || r.cls == Cls.poison || r.cls == Cls.pair

/-- A record joins the coming entry. -/
def Entry.add (e : Option Entry) (r : Rec) : Entry :=
  let x := e.getD ⟨none, 0, r.cls, r.sub, 0, false⟩
  { x with lanes := if r.byLane then x.lanes ||| (1#32 <<< r.lane.toNat) else x.lanes, fatal := x.fatal || r.fatal }

/-- Writes a record and counts it in the group's coming entry (R304). -/
def writeEntryRec (gid : Nat) (r : Rec) : M Unit := do
  let g ← theGroup gid
  let n := ((← get).ctx g.ctx).tail
  let wrote ← writeRec gid r
  modGroup gid fun g =>
    let e := Entry.add g.entry r
    { g with entry := some { e with tail := some (e.tail.getD n), count := if wrote then e.count + 1 else e.count } }

/-! ## Scratchpad and barrier words (R15, R137 to R139) -/

/-- Bytes of a team's scratchpad. -/
def Team.scratchBytes (t : Team) (a n : Nat) : List Byte := (upFrom a n).map fun i => Tab.get t.scratch i 0

/-- Some byte of a range of a team's scratchpad lies in a poisoned sector (R60). -/
def Team.scratchBad (t : Team) (a n : Nat) : Bool := (upFrom a n).any fun i => t.bad.contains (i / 32)

/-- Stores bytes in a team's scratchpad. -/
def Team.putScratch (t : Team) (a : Nat) : List Byte → Team
  | [] => t
  | b :: bs => Team.putScratch { t with scratch := Tab.put t.scratch a b } (a + 1) bs

/-- The barrier words a packet lists are at T + 8·i (R137). -/
def barAddr (p : LaunchPacket) (i : Nat) : Nat := p.bar + 8 * i

/-- The packet lists barrier words (R137). -/
def listsBars (p : LaunchPacket) : Bool := decide (p.bar + 128 ≤ p.scratch)

/-- A barrier word: PH, ARR, EXP (R137). -/
structure BarWord where
  ph  : Bool
  arr : Nat
  exp : Nat
deriving DecidableEq, Repr

/-- EXP of an abandoned word. -/
def abandonedExp : Nat := 0xFFFFFFFF

def Team.bar (t : Team) (p : LaunchPacket) (i : Nat) : BarWord :=
  let v := leVal (t.scratchBytes (barAddr p i) 8)
  ⟨v.testBit 63, v / 2 ^ 32 % 2 ^ 31, v % 2 ^ 32⟩

def Team.putBar (t : Team) (p : LaunchPacket) (i : Nat) (b : BarWord) : Team :=
  t.putScratch (barAddr p i) (leBytesOf 8 ((if b.ph then 2 ^ 63 else 0) + b.arr % 2 ^ 31 * 2 ^ 32 + b.exp % 2 ^ 32))

/-- A barrier word stands in a sector of the scratchpad that is poisoned (R60). -/
def Team.barBad (t : Team) (p : LaunchPacket) (i : Nat) : Bool := t.scratchBad (barAddr p i) 8

/-- POISON of the use of such a word. The record has VA 0, and the scratchpad address of the sector in AUX (R299, log 92). -/
def barPoison (p : LaunchPacket) (i : Nat) : XFault := ⟨Cls.poison, 0, 0, BitVec.ofNat 64 (barAddr p i / 32 * 32)⟩

/-- The hidden flags of a word. -/
def Team.flags (t : Team) (i : Nat) : Barrier := Tab.get t.bars i ⟨[], [], 0⟩

def Team.setFlags (t : Team) (i : Nat) (b : Barrier) : Team := { t with bars := Tab.put t.bars i b }

/-- Flip of R138. -/
def Team.flip (t : Team) (p : LaunchPacket) (i : Nat) : Team :=
  let b := t.bar p i
  let f := t.flags i
  (t.putBar p i ⟨!b.ph, 0, b.exp - f.deferred⟩).setFlags i { f with arrived := [], deferred := 0 }

/-- Arrive of R138: the team after it, and the status. -/
def Team.arrive (t : Team) (p : LaunchPacket) (g i n : Nat) : Team × DWord :=
  let f := t.flags i
  let t := t.setFlags i { f with reg := if f.reg.contains g then f.reg else g :: f.reg }
  let b := t.bar p i
  if b.exp = abandonedExp then (t, 1)
  else
    let a := b.arr + n
    if b.exp ≤ a then (t.flip p i, 0)
    else
      let f := t.flags i
      ((t.putBar p i { b with arr := a }).setFlags i { f with arrived := g :: f.arrived }, 0)

/-- The deduction of R139 at EXIT, from one word. -/
def Team.deduct (t : Team) (p : LaunchPacket) (g n i : Nat) : Team :=
  let f := t.flags i
  let b := t.bar p i
  if !f.reg.contains g || b.exp == abandonedExp then t
  else if f.arrived.contains g then t.setFlags i { f with deferred := f.deferred + n }
  else
    let e := b.exp - n
    let t := t.putBar p i { b with exp := e }
    if 0 < b.arr ∧ e ≤ b.arr then t.flip p i else t

/-- A word in which a killed group is registered is abandoned (R139). -/
def Team.abandon (t : Team) (p : LaunchPacket) (g i : Nat) : Team :=
  if (t.flags i).reg.contains g then t.putBar p i { t.bar p i with arr := 0, exp := abandonedExp } else t

/-! ## Lines a group holds (R83, R116, R120, R121) -/

/-- Frees a held line: dirty bytes go home, the pin is cleared, the core keeps ownership with a clean mask (R83). -/
def freeLine (g : Group) (line : Nat) (mark : Bool) : M Unit := do
  match Tab.find? ((← get).core g.core).l1 line with
  | some ⟨.owned wts dirty _, d⟩ =>
    if g.present then
      dirtyHome g.core line d dirty
      modCore g.core fun k => { k with l1 := Tab.put k.l1 line ⟨.owned wts 0 false, d⟩ }
    else pure ()
  | _ => pure ()
  modHome line fun h => { h with holder := none, orphan := mark }

/-- Takes a request out of the queue it stands in, frees the lines it has taken, and gives its quota back (R116). -/
def dropRequest (gid : Nat) (q : LockReq) : M Unit := do
  let g ← theGroup gid
  if q.joined then
    each (q.lines.take q.taken) (freeLine g · false)
    each (q.lines.drop q.taken) fun l => modHome l fun h => { h with queue := h.queue.filter (· != gid) }
    modCtx g.ctx fun x => { x with used := x.used - q.lines.length }
    modGroup gid fun g => { g with locks := g.locks.filter fun h => !(q.lines.take q.taken).contains h.line }
  else pure ()
  modGroup gid fun g =>
    { g with requests := g.requests.filter (·.iseq != q.iseq), loads := g.loads.filter (·.acc.iseq != q.iseq) }

/-- The locks of a group that ends: its requests leave their queues and the lines it holds pass on (R121). -/
def dropLocks (gid : Nat) (mark : Bool) : M Unit := do
  let g ← theGroup gid
  each g.requests (dropRequest gid)
  let g ← theGroup gid
  each g.locks fun h => do
    freeLine g h.line mark
    modCtx g.ctx fun x => { x with used := x.used - 1 }
  modGroup gid ({ · with locks := [] })

/-! ## Ending a group (R136, R139, R191, R192, R309, R310) -/

/-- The first 64 KiB unit of a group record, relative to SAVEBASE. -/
def saveUnitOf (x : Ctx) (va : DWord) : Nat := (va.toNat - bitsOf x.savebase 56 21 * 2 ^ 21) / 2 ^ 16

/-- Gives a record of the save area up (R305). -/
def freeRecord (ctx : Nat) (va : DWord) : M Unit :=
  modCtx ctx fun x => { x with units := x.units.filter fun (u, _) => u != saveUnitOf x va }

/-- Fewer than 64 commands of a context at an engine are later than one: its status is kept (R281). -/
def Core.recent (c : Core) (ctx iseq : Nat) : Bool :=
  decide ((c.engine.filter fun k => k.ctx == ctx && decide (iseq < k.iseq)).length +
    (c.status.filter fun k => k.ctx == ctx && decide (iseq < k.iseq)).length < 64)

/-- A command's status joins those the engine keeps, the 64 most recent of each context (R281). -/
def Core.keepStatus (c : Core) (k : CmdStatus) : Core :=
  let c := { c with status := k :: c.status }
  { c with status := c.status.filter fun x => c.recent x.ctx x.iseq }

/-- A command that ends: its records go, its status is kept, its counter falls, and the core JUMPs to the latest wts that it
wrote (R81, R281, R310). -/
def endCmd (core : Nat) (k : Cmd) (flt : Bool) : M Unit := do
  let s ← get
  each (k.todo.filter fun l => (s.home l).records.contains (core, k.id)) fun l =>
    modHome l fun h => { h with records := h.records.filter (· != (core, k.id)) }
  modCore core fun c =>
    { c with engine := c.engine.filter (·.id != k.id) }.keepStatus ⟨k.id, k.ctx, k.iseq, k.oor, flt, k.err⟩
  modWork k.group k.level fun w => w.lower (if k.kind = .dup then .rcc else .cpc)
  match k.lastWts with
  | none => pure ()
  | some t => jump core t

/-- The group leaves its core, its team and the save area. A team whose last group has gone retires (R136). -/
def removeGroup (gid : Nat) : M Unit := do
  let g ← theGroup gid
  freeRecord g.ctx g.record
  let t ← theTeam g.team
  match t.saved with
  | some sv => if t.groups.filter (· != gid) = [] then freeRecord t.ctx sv.record else pure ()
  | none => pure ()
  modify fun s => { s with
    groups := Tab.erase s.groups gid
    grids := Tab.modify s.grids t.grid fun d => { d with cores := g.core :: d.cores.filter (· != g.core) }
    teams := if t.groups.filter (· != gid) = [] then Tab.erase s.teams g.team
      else Tab.modify s.teams g.team fun t => { t with groups := t.groups.filter (· != gid) } }

/-- A single-group kill (R310). `first` is the class of its first record, if it has one. -/
def killGroup (gid : Nat) (first : Option (BitVec 4)) : M Unit := do
  let g ← theGroup gid
  let t ← theTeam g.team
  let d ← theGrid t.grid
  let cls := match first with
    | some c => some c
    | none => g.handler.map (·.first.cls)
  modTeam g.team fun t => if listsBars d.packet then (List.range 16).foldl (fun t i => t.abandon d.packet gid i) t else t
  dropLocks gid true
  each (← get).cores fun (c, k) => each k.engine fun cmd =>
    if cmd.group = gid ∧ cmd.stalled then endCmd c cmd true else pure ()
  modify fun s => { s with grids := Tab.modify s.grids t.grid fun d =>
    if d.killed then d else { d with killed := true, firstKill := cls } }
  removeGroup gid

/-! ## Taking an exception (R303 to R307) -/

/-- A group that leaves the active set: its current priority returns to its launch priority. One that is pending already keeps
the priority it has come to (R290, R291). -/
def Group.toPending (g : Group) (ready : Bool) (now prio : Nat) : Group :=
  { g with sched := { g.sched with active := false, ready := ready, readyAt := now, since := now
                                   prio := if g.sched.active then prio else g.sched.prio } }

/-- The launch priority of a group (R283, R291). -/
def State.launchPrio (s : State) (g : Group) : Nat :=
  match Tab.find? s.teams g.team with
  | none => 0
  | some t => ((Tab.find? s.grids t.grid).map (·.prio)).getD 0

/-- Suspends a group until the host driver acts (R190, R307, R308). -/
def suspend (gid : Nat) : M Unit := do
  let g ← theGroup gid
  let s ← get
  modGroup gid fun g => { g.toPending false s.now (s.launchPrio g) with hold := .suspended }
  signal (64 + g.ctx)

/-- The work a handler starts with (R304). -/
def handlerWork (own : Work) (entry : DWord) (e : Entry) (tail : BitVec 16) (record : DWord) : Work :=
  let s0 : Vector DWord 64 := Vector.replicate 64 0
  let s1 := ((((s0.set 2 (record + 0x2000)).set 3 (tail.setWidth 64)).set 4 (BitVec.ofNat 64 e.count)).set 5
    (BitVec.ofNat 64 (e.sub.toNat * 16 + e.cls.toNat))).set 6 own.pc |>.set 8 record
  { pc := entry, priv := true, s := s1
    k := ((Vector.replicate 8 (0 : Word)).set 0 (own.kreg 0)).set 7 e.lanes
    w := Vector.replicate 16 0, v := [], q := Vector.replicate 8 ⟨0, 0⟩, budget := 32, elastic := true, image := []
    cached := [], used := [], cnt := Counters.zero, sprue := [], cur0 := none, cur1 := none, aForks := [], lForks := []
    frames := [], retq := [], latch := none, srseed := own.srseed, epoch := own.epoch + 1, gens := [], bar := none
    recasts := [], list := none, back := none }

/-- The location of a group (R305, R326). -/
def locationBytes (g : Group) : List Byte :=
  leBytesOf 8 (dieOf g.core % 8 + g.core % Config.coresPerDie * 8 + g.slot % 32 * 512)

/-- The bytes of a line that no write of software changes: the location word of a saved-state block. Records are aligned on 64 KiB, in
memory as in the save area (R305). -/
def State.fixedBytes (s : State) (line : Nat) : BitVec 128 :=
  if line % 512 == 4 && (Tab.vals s.groups).any fun g => s.peekPa g.ctx (g.record + 0x268) == some (line * 128 + 0x68)
  then maskOf 0x68 8 else 0

/-- The bytes of a write that have an effect (R305). -/
def State.open_ (s : State) (line : Nat) (mask : BitVec 128) : BitVec 128 := mask &&& ~~~s.fixedBytes line

/-- The saved-state block (R305). -/
def savedBlock (g : Group) : List Byte :=
  let w := g.work
  w.s.toList.flatMap (fun v => leBytesOf 8 v.toNat) ++ w.k.toList.flatMap (fun v => leBytesOf 4 v.toNat) ++
    w.w.toList.flatMap (fun v => leBytesOf 4 v.toNat) ++ leBytesOf 8 w.pc.toNat ++
    locationBytes g

/-- The part stores bytes in a group's record. A fault or an error response ends the group and ERRLOG keeps kind 5; the answer says
whether the group goes on (R305). -/
def recordStore (gid off : Nat) (bs : List Byte) : M Bool := do
  let g ← theGroup gid
  match ← partStore g.core g.ctx (g.record + BitVec.ofNat 64 off) bs with
  | .ok _ => pure true
  | .error f => do
    logError g.ctx 5 f.va.toNat
    killGroup gid (g.entry.map (·.cls))
    pure false

/-- The part loads bytes from a group's record; `none` where a fault or an error response has ended the group (R305). -/
def recordLoad (gid off n : Nat) : M (Option (List Byte)) := do
  let g ← theGroup gid
  match ← partLoad g.core g.ctx (g.record + BitVec.ofNat 64 off) n with
  | .ok (bs, _) => pure (some bs)
  | .error f => do
    logError g.ctx 5 f.va.toNat
    killGroup gid (g.entry.map (·.cls))
    pure none

/-- Where a vector register stands in the group's record: one of the group's own, or of its handler (R305). -/
def fileOffset (own : Bool) (r : Nat) : Nat := (if own then 0x8000 else 0x7000) + 128 * r

/-- The same for a register of the work that runs. -/
def regOffset (g : Group) (r : Nat) : Nat := fileOffset g.handler.isNone r

/-- The bytes of a vector register in memory. -/
def VVal.bytes (v : VVal) : List Byte := v.val.toList.flatMap fun x => leBytesOf 4 x.toNat

/-- A recast that waits for a token of its own level that has not retired: it can perform only after ERET (R38). -/
def Group.recastStuck (g : Group) (r : Recast) : Bool :=
  r.level == g.level && ((g.work.sprue.any fun i => match i with
    | .token t => decide (t.seq < r.seq)
    | _ => false) ||
  (g.work.cur0.any fun c => decide (c.token.seq < r.seq)) || (g.work.cur1.any fun c => decide (c.token.seq < r.seq)))

/-- Everything the group issued before the fault has performed, but for waiting lock requests, entries that wait for a
matrix instruction held by a stalled copy, and recasts behind a token that has not retired (R303 step 2, R268, R38). -/
def State.quiet (s : State) (gid : Nat) (g : Group) : Bool :=
  let held (i : Nat) : Bool := (Tab.vals s.cores).any fun k => k.matrix.any fun m => decide (m.iseq ≤ i) && m.group == gid &&
    m.after.any fun (c, id) => match s.cmd? c id with
      | some k => k.stalled
      | none => false
  (g.loads.all fun e => e.kind == .lock) && (g.stores.all fun e => e.kind == .mdst && held e.acc.iseq) &&
  g.work.recasts.all fun r => g.recastStuck r || g.stores.any fun e => e.kind == .mdst && decide (e.acc.key < r.seq)

/-- A record counts in a handler entry: not one raised in privileged code, nor the DEADLOCK record of a group that ran its own
instructions (R122, R295, R307). -/
def Rec.joins (r : Rec) : Bool := !r.nest && !r.alone

/-- A record found and not yet written is written. -/
def writeFound (gid : Nat) (r : Rec) : M Unit := do
  if r.joins then writeEntryRec gid r else do let _ ← writeRec gid r

/-- A group that goes on with its own work is vectored for the faults found meanwhile (R280, R303). -/
def Group.revector (g : Group) : Group :=
  let e := (g.faults.filter (·.joins)).foldl (fun e r => some (Entry.add e r)) g.entry
  { g with entry := e, hold := if e.isSome then .vectoring else .none }

/-- FAULT_RECORD_WRITE (R302): the next record found and not yet written, with its continuation records (R299). Release order:
loads of the group that are older than the fault come first. When the last record of a fault in privileged code is written,
the group is suspended (R307). -/
def faultRecordWrite (gid : Nat) : M Unit := do
  let g ← theGroup gid
  match g.faults with
  | [] => waitM
  | r :: rest =>
    need (g.loads.all fun e => e.kind == .lock || decide (r.seq ≤ e.acc.seq))
    each (r :: rest.takeWhile (·.cls == Cls.cont)) (writeFound gid)
    let rest := rest.dropWhile (·.cls == Cls.cont)
    modGroup gid ({ · with faults := rest })
    if r.nest && r.cls != Cls.deadlock && !rest.any (fun x => x.nest && x.cls != Cls.deadlock) then suspend gid else pure ()

/-- TAKING AN EXCEPTION: HANDLER_ENTRY (R303 to R305). Once the records are written and the group is quiet, its state is
saved and its Armature goes to FHND.ENTRY, privileged; or the group ends under R309. -/
def handlerEntry (gid : Nat) : M Unit := do
  let g ← theGroup gid
  match g.hold, g.entry with
  | .vectoring, some e =>
    need g.faults.isEmpty
    let s ← get
    let x := s.ctx g.ctx
    if e.fatal && !x.fhnd.getLsbD 0 then killGroup gid (some e.cls)
    else
      need (s.quiet gid g)
      if ← recordStore gid 0 (savedBlock g) then
        let s ← get
        let prio := s.launchPrio g
        modGroup gid fun g =>
          { g.toPending true s.now prio with
            handler := some ⟨g.nextEntry, { g.work with list := none, back := none }, e, 0⟩
            nextEntry := g.nextEntry + 1
            work := handlerWork g.work (x.fhnd &&& 0x01FFFFFFFFFFFFFC) e (e.tail.getD x.tail) g.record
            hold := .none
            entry := none }
  | _, _ => waitM

/-- As many of the remaining steps of an exception as can be taken now: records in order, then the entry. A step that
cannot be taken yet is left for a FAULT_RECORD_WRITE or HANDLER_ENTRY move. -/
def vectorNow : Nat → Nat → State → State
  | 0, gid, s => takeMove s (handlerEntry gid)
  | n + 1, gid, s =>
    match s.group? gid with
    | none => s
    | some g =>
      if g.faults.isEmpty then takeMove s (handlerEntry gid)
      else match (faultRecordWrite gid) s with
        | .ok _ s' => vectorNow n gid s'
        | .error _ _ => s

/-- RAISING FAULTS: the records of faults that an operation of a level of the group's work has found, and the addresses of its error
responses, which ERRLOG keeps (R14, R312). In privileged code they are written with NEST and the group is suspended (R307). Those of
work that is not running now are written for the group's next entry (R303). Otherwise the group is vectored (R303). Every record
waits for the loads before it (R302). -/
def raiseLogged (gid level : Nat) (recs : List Rec) (refused : List Nat) : M Unit := do
  let g ← theGroup gid
  let s ← get
  let recs := recs.map fun r => { r with seq := s.nextSeq }
  each refused fun a => logError g.ctx 1 a
  if g.work.priv && level == g.level && level != 0 then
    modGroup gid fun g =>
      { g.toPending false s.now (s.launchPrio g) with
        faults := g.faults ++ recs.map ({ · with nest := true }), hold := .vectoring }
    modify (vectorNow (recs.length + 1) gid)
  else if g.handler.isSome || !g.present || g.hold == .suspended then
    modGroup gid fun g => { g with faults := g.faults ++ recs }
    modify (vectorNow recs.length gid)
  else
    modGroup gid fun g =>
      { g.toPending false s.now (s.launchPrio g) with
        faults := g.faults ++ recs, hold := .vectoring, entry := recs.foldl (fun e r => some (Entry.add e r)) g.entry }
    modify (vectorNow (recs.length + 1) gid)

/-- The same for records that hold the address of an error response in AUX (R299), but for a copy engine's, whose event is of
another kind (R280). -/
def raise (gid level : Nat) (recs : List Rec) : M Unit :=
  raiseLogged gid level recs ((recs.filter fun r => r.cls == Cls.errresp && r.src != 3).map (·.aux.toNat))

/-! ## Returning (R189, R308) -/

/-- A 64-bit field of a block of bytes. -/
def field64 (bs : List Byte) (off : Nat) : DWord := BitVec.ofNat 64 (leVal ((bs.drop off).take 8))
/-- A 32-bit field of a block of bytes. -/
def field32 (bs : List Byte) (off : Nat) : Word := BitVec.ofNat 32 (leVal ((bs.drop off).take 4))

/-- The saved work with what the saved-state block now holds; the s0 and k0 slots are ignored. A resume address that has been
changed ends the wait of a BARR or BARW that stood there (R305). -/
def Work.reload (w : Work) (bs : List Byte) : Work :=
  { w with
    s := Vector.ofFn fun i : Fin 64 => if i.val = 0 then w.s[i] else field64 bs (8 * i.val)
    k := Vector.ofFn fun i : Fin 8 => if i.val = 0 then w.k[i] else field32 bs (0x200 + 4 * i.val)
    w := Vector.ofFn fun i : Fin 16 => field32 bs (0x220 + 4 * i.val)
    pc := field64 bs 0x260
    bar := if field64 bs 0x260 = w.pc then w.bar else none }

/-- RETURNING FROM AN EXCEPTION: what ERET and a host resume do with the saved state (R189, R305, R308). Copies of the
group that are stalled on a fault repeat their read (R280); faults found meanwhile vector the group again (R303). Recasts that the
handler has left, as only a host resume lets it, are still to perform (R37). -/
def returnFrom (gid : Nat) : M Unit := do
  let g ← theGroup gid
  match g.handler with
  | none => waitM
  | some h =>
    match ← recordLoad gid 0 0x270 with
    | none => pure ()
    | some bs =>
      let s ← get
      modGroup gid fun g =>
        ({ g with work := { h.saved.reload bs with priv := false, recasts := h.saved.recasts ++ g.work.recasts }
                  handler := none } : Group).revector
      modify fun s => { s with cores := Tab.mapVals s.cores fun _ c =>
        { c with engine := c.engine.map fun k => if k.group = gid ∧ k.until_ ≤ h.entryNo then { k with stalled := false } else k } }
      if g.hold = .suspended then
        modGroup gid fun g => g.toPending true s.now (s.launchPrio g)
      else pure ()
      modify (vectorNow (g.faults.length + 1) gid)

/-! ## Instructions at issue -/

/-- The event code and the length of an instruction of each side (R127, R332). -/
def afterArm (s : State) (gid : Nat) : State :=
  match s.group? gid with
  | none => s
  | some g => ((s.updGroup gid fun g => { g with sched := { g.sched with issuedAt := s.now } }).event g.core g.ctx 0x01)

/-- Runs the body of an Armature instruction at the group in focus: a wait leaves the state as it was; a fault is raised
precisely, with the instruction at the pc (R166). One whose fault its body finds counts as issued (R332, log 105). -/
def armM (s : State) (body : Nat → Group → M Unit) : Host.Outcome State Fault Refusal :=
  let gid := s.focus.group
  match s.group? gid with
  | none => .next s
  | some g =>
    match body gid g (afterArm s gid) with
    | .ok _ s' => .next s'
    | .error .wait _ => .next s
    | .error (.faults l) s' =>
      .next (takeMove s' (raise gid g.level (recsOf g.work.pc (BitVec.ofNat 32 s.focus.word) 0 false l)))

/-- Runs the body of an Armature instruction that may take several steps. It counts as issued in the step that completes it. -/
def armSteps (s : State) (body : Nat → Group → M Bool) : Host.Outcome State Fault Refusal :=
  let gid := s.focus.group
  match s.group? gid with
  | none => .next s
  | some g =>
    match body gid g s with
    | .ok true s' => .next (afterArm s' gid)
    | .ok false s' => .next s'
    | .error .wait _ => .next s
    | .error (.faults l) s' =>
      .next (takeMove (afterArm s' gid) (raise gid g.level (recsOf g.work.pc (BitVec.ofNat 32 s.focus.word) 0 false l)))

/-- Advances the Armature past its instruction. -/
def nextPc (gid : Nat) (level : Nat) : M Unit := modWork gid level fun w => { w with pc := w.pc + 4 }

/-- An Armature instruction that only changes the group's own work (R165). -/
def armWork (s : State) (f : Work → Work) : Host.Outcome State Fault Refusal :=
  let gid := s.focus.group
  match s.group? gid with
  | none => .next s
  | some _ => .next ((afterArm s gid).updGroup gid fun g => { g with work := f g.work })

/-- A register result and the step past the instruction (R165). -/
def Work.result (w : Work) (d : SReg) (v : DWord) : Work := { w.setS d v with pc := w.pc + 4 }

end Sys2Proof.Machine
end

