-- ==== Sys2Proof/Machine/Operands.lean ====
section
/-!
DEFINITION. Operand forms: the registers an instruction names, lane sources, active lanes, lane addresses, and the frame
that every lane instruction runs in (R148 to R152, R158, R210, R211, R235, R311).
-/
namespace Sys2Proof

/-- Bytes of an access size: 2^SIZE (R235). -/
def Size.bytes : Size → Nat
  | .b => 1 | .h => 2 | .w => 4 | .d => 8 | .q => 16

end Sys2Proof

namespace Sys2Proof.Machine

/-! ## Registers named -/

/-- The v register of a source, if it is one. -/
def srcVregs : Src → List Nat
  | .v r => [r.val]
  | _ => []

/-- The `n` v registers from a source (R235). -/
def srcBlock (x : Src) (n : Nat) : List Nat :=
  match x with
  | .v r => upFrom r.val n
  | _ => []

/-- The v registers a lane instruction reads, and those it writes. -/
def laneRegs : Instr → List Nat × List Nat
  | .vadd _ d a b _ => (srcVregs a.src ++ srcVregs b.src, [d.val])
  | .vsub _ d a b _ => (srcVregs a.src ++ srcVregs b.src, [d.val])
  | .vmul _ d a b _ => (srcVregs a.src ++ srcVregs b.src, [d.val])
  | .vfma _ d a b e _ => (srcVregs a.src ++ srcVregs b.src ++ srcVregs e.src, [d.val])
  | .vmin _ d a b _ => (srcVregs a.src ++ srcVregs b.src, [d.val])
  | .vmax _ d a b _ => (srcVregs a.src ++ srcVregs b.src, [d.val])
  | .vrcp _ d a _ => (srcVregs a.src, [d.val])
  | .vrsq _ d a _ => (srcVregs a.src, [d.val])
  | .vexp2 _ d a _ => (srcVregs a.src, [d.val])
  | .vlog2 _ d a _ => (srcVregs a.src, [d.val])
  | .vflr _ d a _ => (srcVregs a.src, [d.val])
  | .vcmp _ _ _ _ a b => (srcVregs a.src ++ srcVregs b.src, [])
  | .vsel _ d a b _ => (srcVregs a ++ srcVregs b, [d.val])
  | .viadd _ d a b => (srcVregs a ++ srcVregs b, [d.val])
  | .visub _ d a b => (srcVregs a ++ srcVregs b, [d.val])
  | .vimul _ d a b => (srcVregs a ++ srcVregs b, [d.val])
  | .vimulh _ d a b => (srcVregs a ++ srcVregs b, [d.val])
  | .vimulhn _ d a b => (srcVregs a ++ srcVregs b, [d.val])
  | .vimad _ d a b e => (srcVregs a ++ srcVregs b ++ srcVregs e, [d.val])
  | .vand _ d a b => (srcVregs a ++ srcVregs b, [d.val])
  | .vor _ d a b => (srcVregs a ++ srcVregs b, [d.val])
  | .vxor _ d a b => (srcVregs a ++ srcVregs b, [d.val])
  | .vshl _ d a b => (srcVregs a ++ srcVregs b, [d.val])
  | .vshr _ d a b => (srcVregs a ++ srcVregs b, [d.val])
  | .vsra _ d a b => (srcVregs a ++ srcVregs b, [d.val])
  | .vimin _ d a b => (srcVregs a ++ srcVregs b, [d.val])
  | .vimax _ d a b => (srcVregs a ++ srcVregs b, [d.val])
  | .viminn _ d a b => (srcVregs a ++ srcVregs b, [d.val])
  | .vimaxn _ d a b => (srcVregs a ++ srcVregs b, [d.val])
  | .vpopc _ d a => (srcVregs a, [d.val])
  | .vclz _ d a => (srcVregs a, [d.val])
  | .vbfe _ d a b e _ => (srcVregs a ++ srcVregs b ++ srcVregs e, [d.val])
  | .vmov _ d a => (srcVregs a, [d.val])
  | .vmovi _ d _ => ([], [d.val])
  | .vcvt _ d a _ _ _ _ => (srcVregs a, [d.val])
  | .vpack _ d a b ty _ _ _ => (srcVregs a ++ srcVregs b ++ (if ty = .bf16 then [] else [d.val]), [d.val])
  | .vunpk _ d a _ _ => (srcVregs a, [d.val])
  | .vsclq _ d a _ => (upFrom a.val 4, upFrom d.val 2)
  | .vshfl _ d a b => (srcVregs a ++ srcVregs b, [d.val])
  | .vshup _ d a b _ => (srcVregs a ++ srcVregs b, [d.val])
  | .vshdn _ d a b _ => (srcVregs a ++ srcVregs b, [d.val])
  | .vshxr _ d a _ => (srcVregs a, [d.val])
  | .vscan _ d a _ _ _ => (srcVregs a, [d.val])
  | .vred _ d a _ _ _ => (srcVregs a, [d.val])
  | .vreds _ a _ _ _ => (srcVregs a, [])
  | .vbal _ _ => ([], [])
  | .vtopk _ d a b k => (srcVregs a ++ srcVregs b ++ upFrom d.val (2 * (k.toNat + 1)), upFrom d.val (2 * (k.toNat + 1)))
  | .vlaunch _ d m _ => (srcVregs m.va, [d.val])
  | .vld _ d m sz _ _ _ => (srcVregs m.va, upFrom d.val sz.regs)
  | .vst _ m v sz _ _ => (srcVregs m.va ++ srcBlock v sz.regs, [])
  | .vldro _ d m sz _ => (srcVregs m.va, upFrom d.val sz.regs)
  | .vpf _ m _ => (srcVregs m.va, [])
  | .vsld _ d m sz _ _ _ => (srcVregs m.va, upFrom d.val sz.regs)
  | .vsst _ m v sz _ _ => (srcVregs m.va ++ srcBlock v sz.regs, [])
  | .vatom _ d m v op _ _ => (srcVregs m.va ++ srcVregs v ++ (if op = .cas then [d.val] else []), [d.val])
  | .vredm _ m v _ _ _ => (srcVregs m.va ++ srcVregs v, [])
  | .lkl _ d m _ => (srcVregs m.va, [d.val])
  | .ulk _ m => (srcVregs m.va, [])
  | .mma _ _ a s _ _ _ => (upFrom a.val 32 ++ srcVregs s, [])
  | .mmab _ _ a s _ _ => (upFrom a.val 32 ++ srcVregs s, [])
  | .mzero _ _ => ([], [])
  | .mdrn _ a _ _ _ => ([], upFrom a.val 32)
  | .mdst _ m _ _ _ _ _ => (srcVregs m.va, [])
  | .mpois _ _ _ _ => ([], [])
  | _ => ([], [])

/-- The q register a lane instruction writes itself. -/
def laneQ : Instr → Option QReg
  | .vcmp _ q _ _ _ _ => some q
  | .mpois _ q _ _ => some q
  | _ => none

/-- The s registers an Armature instruction names. -/
def armRegs : Instr → List SReg
  | .sadd d a b => [d, a, b]
  | .ssub d a b => [d, a, b]
  | .smul d a b => [d, a, b]
  | .smulh d a b => [d, a, b]
  | .smulhn d a b => [d, a, b]
  | .sdiv d a b => [d, a, b]
  | .sdivn d a b => [d, a, b]
  | .srem d a b => [d, a, b]
  | .sremn d a b => [d, a, b]
  | .sand d a b => [d, a, b]
  | .sor d a b => [d, a, b]
  | .sxor d a b => [d, a, b]
  | .sshl d a b => [d, a, b]
  | .sshr d a b => [d, a, b]
  | .ssra d a b => [d, a, b]
  | .smin d a b => [d, a, b]
  | .smax d a b => [d, a, b]
  | .sminn d a b => [d, a, b]
  | .smaxn d a b => [d, a, b]
  | .sslt d a b => [d, a, b]
  | .ssltn d a b => [d, a, b]
  | .saddi d a _ => [d, a]
  | .sandi d a _ => [d, a]
  | .sori d a _ => [d, a]
  | .sxori d a _ => [d, a]
  | .sshli d a _ => [d, a]
  | .sshri d a _ => [d, a]
  | .ssrai d a _ => [d, a]
  | .sslti d a _ => [d, a]
  | .slui d _ => [d]
  | .saui d _ => [d]
  | .sbeq a b _ => [a, b]
  | .sbne a b _ => [a, b]
  | .sblt a b _ => [a, b]
  | .sbge a b _ => [a, b]
  | .sbltn a b _ => [a, b]
  | .sbgen a b _ => [a, b]
  | .sjal d _ => [d]
  | .sjr d a => [d, a]
  | .sld d a _ _ _ _ => [d, a]
  | .sst b a _ _ _ _ => [b, a]
  | .samo d a b _ _ _ => [d, a, b]
  | .lrun _ _ t _ => [t]
  | .lgetv d _ => [d]
  | .setw _ a _ => [a]
  | .kmov _ a => [a]
  | .kget d _ => [d]
  | .kpop d _ => [d]
  | .waitp _ a => [a]
  | .barr d _ => [d]
  | .bara d _ => [d]
  | .barw d a _ => [d, a]
  | .launch d a b => [d, a, b]
  | .rxch x y n => [x, y, n]
  | .rcat x y n => [x, y, n]
  | .rspl x y n => [x, y, n]
  | .rprm x y n => [x, y, n]
  | .rals x y n => [x, y, n]
  | .ralsRw x y n => [x, y, n]
  | .runm x n => [x, n]
  | .rpin x n => [x, n]
  | .rupn x n => [x, n]
  | .rqry d a => [d, a]
  | .rmap d a b => [d, a, b]
  | .cpy d a => [d, a]
  | .cpys d a => [d, a]
  | .cpyw d a => [d, a]
  | .gath d a => [d, a]
  | .scat d a => [d, a]
  | .cpyob d a => [d, a]
  | .fred d a => [d, a]
  | .cpyq d a => [d, a]
  | .obres d a _ _ => [d, a]
  | .crd d _ => [d]
  | .cwr _ a => [a]
  | .trap a => [a]
  | .tmset _ _ a => [a]
  | .tmget d _ _ => [d]
  | _ => []

/-! ## The cursor at issue -/

/-- A cursor of a group's work. -/
def Work.cursor (w : Work) (cur : Bool) : Option Cursor := if cur then w.cur1 else w.cur0

def Work.setCursor (w : Work) (cur : Bool) (c : Option Cursor) : Work :=
  if cur then { w with cur1 := c } else { w with cur0 := c }

/-- What a lane instruction at issue sees: its group and cursor, the launch packet, and the values of R126. -/
structure LaneCx where
  gid    : Nat
  g      : Group
  cursor : Cursor
  cur    : Bool
  packet : LaunchPacket
  index  : Nat
deriving DecidableEq, Repr

/-- Bit 4 of the packet's flags (R284, R311). -/
def LaneCx.paired (x : LaneCx) : Bool := x.packet.flags.getLsbD 4

/-- The cursor in focus, holding a token whose table entry has been read and which has trips left (R69). -/
def laneAt (s : State) : Option LaneCx :=
  match s.group? s.focus.group with
  | none => none
  | some g => match g.work.cursor s.focus.cur with
    | none => none
    | some c =>
      if c.start.isNone || c.trips == 0 then none
      else match Tab.find? s.teams g.team with
        | none => none
        | some t => match Tab.find? s.grids t.grid with
          | none => none
          | some d => some ⟨s.focus.group, g, c, s.focus.cur, d.packet, t.index⟩

/-! ## Sources and active lanes -/

/-- A value in each lane, never poisoned. -/
def VVal.lanes (f : Fin 32 → Word) : VVal := ⟨Vector.ofFn f, 0⟩

/-- A source operand in every lane (R126, R148, R311). -/
def LaneCx.src (x : LaneCx) : Src → VVal
  | .v r => x.g.work.vreg r.val
  | .w r => VVal.lanes fun _ => x.cursor.token.w[r.toNat]'(r.isLt)
  | .lane => VVal.lanes fun l => BitVec.ofNat 32 (if x.paired then l.val % 16 else l.val)
  | .group => VVal.lanes fun _ => BitVec.ofNat 32 x.g.number
  | .team => VVal.lanes fun _ => BitVec.ofNat 32 x.index
  | .role => VVal.lanes fun _ => BitVec.ofNat 32 x.g.role

/-- The absolute-value and negate modifiers (R150). -/
def modify32 (v : Word) (neg abs : Bool) : Word :=
  let a := if abs then v &&& 0x7FFFFFFF else v
  if neg then a ^^^ 0x80000000 else a

/-- A source with its modifiers. -/
def LaneCx.msrc (x : LaneCx) (m : MSrc) : VVal :=
  let v := x.src m.src
  { v with val := v.val.map (modify32 · m.neg m.abs) }

/-- A token's mask over the 32 lanes: in paired mode a bit activates both lanes of its pair (R311). -/
def LaneCx.mask (x : LaneCx) : Word :=
  if x.paired then
    let low := x.cursor.token.mask &&& 0xFFFF
    low ||| (low <<< 16)
  else x.cursor.token.mask

/-- The active lanes (R149). -/
def LaneCx.active (x : LaneCx) (c : Ctl) : Word :=
  match c.guard with
  | none => x.mask
  | some g =>
    let q := (x.g.work.qreg g.q).bits
    x.mask &&& (if g.inv then ~~~q else q)

/-- The guard's poison (R211). -/
def LaneCx.guardPoison (x : LaneCx) (c : Ctl) : Word :=
  match c.guard with
  | none => 0
  | some g => (x.g.work.qreg g.q).poison

/-- The active lanes in ascending order. -/
def lanesOf (m : Word) : List Nat := (List.range 32).filter m.getLsbD

/-- A destination after new values come in on the active lanes (R210, R211). -/
def VVal.write (old new : VVal) (act : Word) : VVal :=
  ⟨Vector.ofFn fun l : Fin 32 => if act.getLsbD l.val then new.val[l] else old.val[l],
   (old.poison &&& ~~~act) ||| (new.poison &&& act)⟩

/-- A q destination after new bits come in on the active lanes. -/
def QVal.write (old : QVal) (bits poison act : Word) : QVal :=
  ⟨(old.bits &&& ~~~act) ||| (bits &&& act), (old.poison &&& ~~~act) ||| (poison &&& act)⟩

/-- LaneAddress of R235, before the offset's sign extension is chosen by the caller. -/
def LaneCx.address (x : LaneCx) (pair : BitVec 3) (va : Src) (off : DWord) (l : Fin 32) : DWord :=
  let b := 2 * pair.toNat
  let lo := (x.cursor.token.w[b]?).getD 0
  let hi := (x.cursor.token.w[b + 1]?).getD 0
  (hi ++ lo : DWord) + ((x.src va).val[l]).setWidth 64 + off

/-! ## Paired mode (R311) -/

/-- Stops with faults, if there are any. -/
def orFault (l : List (Nat × XFault)) : M Unit := if l.isEmpty then pure () else throw (.faults l)

/-- One bit of a word as a value. -/
def bitWord (w : Word) (l : Nat) : Word := if w.getLsbD l then 1 else 0

/-- PAIR in each lane of 0 to 15 that is active in one half only; AUX holds the two activity bits (R299, R311, log 34). -/
def activePairs (act : Word) : List (Nat × XFault) :=
  ((List.range 16).filter fun l => act.getLsbD l != act.getLsbD (l + 16)).map fun l =>
    (l, ⟨Cls.pair, 0, 0, bitWord act (l + 16) ++ bitWord act l⟩)

/-! ## The frame of a lane instruction -/

/-- What the checks before a lane instruction say. -/
inductive Pre where
  | go | wait | illegal
deriving DecidableEq, Repr

/-- The wait field (R152). -/
def waitOk (w : Work) (c : Option (Counter × BitVec 2)) : Bool :=
  match c with
  | none => true
  | some (k, t) => decide (w.cnt.get k ≤ t.toNat)

/-- Registers that an unperformed MDRN or MPOIS of the work will write, at whichever core it was issued (R255, R268). -/
def matrixWrites (s : State) (g : Group) (gid : Nat) : List (Nat × Option QReg) :=
  (((Tab.vals s.cores).flatMap (·.matrix)).filter fun m => m.group == gid && m.level == g.level).flatMap fun m =>
    match m.op with
    | .mdrn va .. => (upFrom va.val 32).map fun r => (r, none)
    | .mpois q .. => [(0, some q)]
    | _ => []

/-- The write interlock of R255. -/
def interlocked (s : State) (g : Group) (gid : Nat) (i : Instr) : Bool :=
  (matrixWrites s g gid).any fun (r, q) => match q with
    | none => (laneRegs i).2.contains r
    | some q => laneQ i == some q

/-- Encoding and budget first (R148, R158), then the wait field (R152), the write interlock of R255 and the elastic
registers (R292). -/
def lanePre (s : State) (x : LaneCx) (i : Instr) (wait : Option (Counter × BitVec 2)) : Pre :=
  let w := x.g.work
  let (rd, wr) := laneRegs i
  if !i.wf || (rd ++ wr).any (fun r => decide (w.budget ≤ r)) then .illegal
  else if !waitOk w wait then .wait
  else if interlocked s x.g x.gid i then .wait
  else if w.elastic && (rd ++ wr).any (fun r => !w.cached.contains r) then .wait
  else .go

/-- A wait on a counter that the instruction raises and that stands at 63 (R69, R234). -/
def counterRoom (w : Work) (k : Counter) : Bool := decide (w.cnt.get k < Config.counterMax)

/-- The work past a lane instruction: the cursor at the next word, registers written noted, registers used put first
(R127, R292). -/
def Work.pastLane (w : Work) (cur : Bool) (i : Instr) (now : Nat) : Work :=
  let (rd, wr) := laneRegs i
  let w := match w.cursor cur with
    | none => w
    | some c => w.setCursor cur (some { c with pc := c.pc + 12, wrote := if w.elastic then dedup (wr ++ c.wrote) else [] })
  if w.elastic then
    { w with cached := dedup (wr ++ rd ++ w.cached), used := (wr ++ rd).foldl (fun t r => Tab.put t r now) w.used }
  else w

/-- The counting of a lane instruction that issues (R332). -/
def afterLane (s : State) (x : LaneCx) : State :=
  (s.updGroup x.gid fun g => { g with sched := { g.sched with issuedAt := s.now } }).event x.g.core x.g.ctx 0x02

/-- Records of a lane word's faults: an ILLEGAL record gives the whole word (R158, R297, R299). -/
def laneRecs (x : LaneCx) (word : Nat) (l : List (Nat × XFault)) : List Rec :=
  (recsOf x.cursor.pc (BitVec.ofNat 32 (word / 2 ^ 64)) (if x.cur then 2 else 1) true l).map fun r =>
    if r.cls = Cls.illegal then { r with aux := BitVec.ofNat 64 word, byLane := false } else r

/-- Raises faults of the lane instruction at issue. -/
def laneFault (s : State) (x : LaneCx) (l : List (Nat × XFault)) : State :=
  takeMove s (raise x.gid x.g.level (laneRecs x s.focus.word l))

/-- ILLEGAL for a lane word. -/
def laneIllegal (s : State) (x : LaneCx) : State := laneFault s x [(0, ⟨Cls.illegal, 0, 0, 0⟩)]

/-- A lane instruction that only changes the group's own work (R210). -/
def laneWork (s : State) (i : Instr) (c : Ctl) (f : LaneCx → Word → Work → Work) :
    Host.Outcome State Fault Refusal :=
  match laneAt s with
  | none => .next s
  | some x => match lanePre s x i c.wait with
    | .illegal => .next (laneIllegal s x)
    | .wait => .next s
    | .go => .next ((afterLane s x).updGroup x.gid fun g =>
        { g with work := (f x (x.active c) g.work).pastLane x.cur i s.now })

/-- A lane instruction with accesses or faults of its own: a wait leaves the state as it was, and a fault leaves the
cursor at the instruction (R233). -/
def laneM (s : State) (i : Instr) (c : Ctl) (body : LaneCx → Word → M Unit) : Host.Outcome State Fault Refusal :=
  match laneAt s with
  | none => .next s
  | some x => match lanePre s x i c.wait with
    | .illegal => .next (laneIllegal s x)
    | .wait => .next s
    | .go => match body x (x.active c) (afterLane s x) with
      | .ok _ s' => .next (s'.updGroup x.gid fun g => { g with work := g.work.pastLane x.cur i s.now })
      | .error .wait _ => .next s
      | .error (.faults l) s' => .next (laneFault s' x l)

/-- A result computed lane by lane from sources, written to one register (R210, R211). -/
def laneResult (x : LaneCx) (c : Ctl) (act : Word) (d : VReg) (srcs : List VVal) (f : Fin 32 → Word) (w : Work) : Work :=
  let p := srcs.foldl (fun p v => p ||| v.poison) (x.guardPoison c)
  w.setV d.val ((w.vreg d.val).write ⟨Vector.ofFn f, p⟩ act)

end Sys2Proof.Machine
end

