-- ==== Sys2Proof/Machine/Issue.lean ====
section
/-!
DEFINITION. ISSUE (R69): which group may issue, the fetch of the next word, and its decoding.
-/
namespace Sys2Proof.Machine

/-- The part starts work: it is in RUN or RETREAT, in band B0 or B1, and its clocks run (R1, R320). -/
def State.computes (s : State) : Bool :=
  (s.pkg.power == .run || s.pkg.power == .retreat) && s.clocked && decide (s.pkg.code.toNat ≤ 1)

/-- The part is draining for HOLD (R319). -/
def State.draining (s : State) : Bool := s.pkg.power == .hold && !s.pkg.drained

/-- Groups run: the part computes, or it drains and their team has yet to be saved (R1, R319). -/
def State.running (s : State) : Bool := s.computes || (s.draining && s.clocked)

/-- The team of a group has been chosen to be saved: its groups take no ISSUE (R293). -/
def State.savingTeam (s : State) (g : Group) : Bool := match Tab.find? s.teams g.team with
  | some t => t.saving
  | none => false

/-- A group that may issue: present, active, not vectoring or suspended, not about to be saved, its held lines brought in
(R69, R107, R120, R289, R293, R303). -/
def State.runnable (s : State) (gid : Nat) : Option Group :=
  match s.group? gid with
  | none => none
  | some g =>
    if s.running && g.present && g.sched.active && g.hold == .none && g.locks.all (·.pinned) && !s.savingTeam g then some g else none

/-- An SLD or an RQRY that has not performed blocks the Armature (R69), as does a BARR or BARW wait (R138). -/
def Group.armBlocked (g : Group) : Bool :=
  g.work.bar.isSome || g.loads.any fun e => e.acc.stream == .arm && e.acc.level == g.level

/-- The destinations of SAMOs that have not performed (R109, R239). -/
def Group.pendingRegs (g : Group) : List SReg :=
  g.stores.filterMap fun e => match e.kind with
    | .atomic _ _ (some (.sreg d _)) => if e.acc.level = g.level && e.acc.stream == .arm && d != 0 then some d else none
    | _ => none

/-- A cursor that will read its table entry again. It goes on at the word it stands at; only a block's first word moves
with the entry, and is marked by pc 0 (R127, R296, log 32). -/
def Work.reread (w : Work) (cur : Bool) : Work :=
  match w.cursor cur with
  | none => w
  | some c => w.setCursor cur (some { c with start := none, pc := if c.start = some c.pc then 0 else c.pc })

/-- The state in which an instruction executes: it is the one in focus. -/
def State.at_ (s : State) (g : Nat) (cur : Bool) (word : Nat) : State := { s with focus := ⟨g, cur, word⟩ }

/-- What an ISSUE comes to: an instruction to execute, or a state in which nothing executes. -/
inductive Issued where
  | run (i : Instr) (s : State)
  | stop (s : State)

/-- A fetch that ended: its state, and the word if there is one. -/
def fetched (s : State) (m : M Nat) (fault : State → List (Nat × XFault) → State) : Option (Nat × State) × State :=
  match m s with
  | .ok w s' => (some (w, s'), s')
  | .error .wait _ => (none, s)
  | .error (.faults l) s' => (none, fault s' l)

/-- ISSUE of the next Armature instruction of a group (R69, R127, R158, R166). -/
def issueArm (s : State) (gid : Nat) : Issued :=
  match s.runnable gid with
  | none => .stop s
  | some g =>
    if g.armBlocked then .stop s
    else
      let pc := g.work.pc
      match fetched s (fetchArm g.core g.ctx pc) fun s' l =>
          takeMove s' (raise gid g.level (recsOf pc 0 0 false l)) with
      | (none, s') => .stop s'
      | (some (w, s'), _) =>
        match decodeArm w with
        | .error _ =>
          .stop (takeMove s' (raise gid g.level (recsOf pc (BitVec.ofNat 32 w) 0 false [(0, ⟨Cls.illegal, 0, 0, 0⟩)])))
        | .ok i =>
          if !i.wf then
            .stop (takeMove s' (raise gid g.level (recsOf pc (BitVec.ofNat 32 w) 0 false [(0, ⟨Cls.illegal, 0, 0, 0⟩)])))
          else if (armRegs i).any g.pendingRegs.contains then .stop s'
          else .run i (s'.at_ gid false w)

/-- ISSUE of the next lane instruction of a cursor (R69, R127, R158). -/
def issueLane (s : State) (gid : Nat) (cur : Bool) : Issued :=
  match s.runnable gid with
  | none => .stop s
  | some g =>
    match laneAt (s.at_ gid cur 0) with
    | none => .stop s
    | some x =>
      match fetched s (fetchLane g.core g.ctx x.cursor.pc) fun s' l =>
          takeMove (if l.any fun f => f.2.cls == Cls.poison then s' else s'.updWork gid g.level (·.reread cur))
            (raise gid g.level (recsOf x.cursor.pc 0 (if cur then 2 else 1) false l)) with
      | (none, s') => .stop s'
      | (some (w, s'), _) =>
        match decodeLane w with
        | .error _ => .stop (laneIllegal (s'.at_ gid cur w) x)
        | .ok i =>
          if !i.wf then .stop (laneIllegal (s'.at_ gid cur w) x)
          else .run i (s'.at_ gid cur w)

/-- A silent replacement (R23, R49, R54 to R57): what leaves needs no message. Anything that may not leave stays, and so does a
home record with an orphan mark, which R57 gives no other place (log 106). -/
def replaceMove (s : State) : Replace → State
  | .l1 c line =>
    match Tab.find? (s.core c).l1 line with
    | some ⟨.leased .., _⟩ => s.updCore c fun k => { k with l1 := Tab.erase k.l1 line }
    | some ⟨.noncoh _, _⟩ => takeMove s do
        noncohBack c line
        modCore c fun k => { k with l1 := Tab.erase k.l1 line }
    | some ⟨.owned _ _ false, _⟩ => takeMove s (writebackReplace c line)
    | _ => s
  | .rdc die line => takeMove s do
      rdcClean die line
      modify fun s => { s with rdc := Tab.erase s.rdc (rdcKey die line) }
  | .ro c ctx line => s.updCore c fun k => { k with ro := k.ro.filter fun r => !(r.ctx == ctx && r.line == line) }
  | .icache c line => s.updCore c fun k => { k with icache := Tab.erase k.icache line }
  | .lcache c line => s.updCore c fun k => { k with lcache := Tab.erase k.lcache line }
  | .home line =>
    match Tab.find? s.homes line with
    | none => s
    | some h =>
      if h.owner.isSome || h.holder.isSome || !h.queue.isEmpty || !h.records.isEmpty || h.held || h.orphan then s
      else
        let p := plinthOf line
        let old := s.plinth p
        { s with homes := Tab.erase s.homes line
                 plinths := Tab.put s.plinths p { old with summary := serialMax old.summary h.rts } }

end Sys2Proof.Machine
end

