-- ==== Sys2Proof/Machine/Flags.lean ====
section
/-!
DEFINITION. Conditions. The AZ9 has no status flags (R167, R197): what other machines keep in flags is a condition of a
branch, a compare that writes a q register, or a status that an instruction writes.
-/
namespace Sys2Proof.Machine

/-- The conditions of the six branches (R171). -/
inductive Branch where
  | eq | ne | lt | ge | ltn | gen
deriving DecidableEq, Repr

/-- Whether a branch is taken (R171). -/
def Branch.holds (c : Branch) (a b : DWord) : Bool :=
  match c with
  | .eq => a == b
  | .ne => a != b
  | .lt => decide (a.toInt < b.toInt)
  | .ge => decide (b.toInt ≤ a.toInt)
  | .ltn => decide (a.toNat < b.toNat)
  | .gen => decide (b.toNat ≤ a.toNat)

/-- A truth value in a register (R167). -/
def boolWord (b : Bool) : DWord := if b then 1 else 0

/-- Integer conditions of VCMP; ORD and UNO are encodings that R216 refuses. -/
def condInt (c : Cond) (signed : Bool) (a b : Word) : Bool :=
  let lt (x y : Word) := if signed then decide (x.toInt < y.toInt) else decide (x.toNat < y.toNat)
  match c with
  | .eq => a == b
  | .ne => a != b
  | .lt => lt a b
  | .le => !lt b a
  | .gt => lt b a
  | .ge => !lt a b
  | .ord => false
  | .uno => false

end Sys2Proof.Machine
end

