-- ==== Sys2Proof/Machine/ArmAlu.lean ====
section
/-!
DEFINITION. The Armature's register and immediate arithmetic, branches and jumps (R165 to R172).
-/
namespace Sys2Proof.Machine

/-- Signed quotient toward zero; the two corners of R168. -/
def sdivOf (a b : DWord) : DWord :=
  if b = 0 then 0xFFFFFFFFFFFFFFFF else BitVec.ofInt 64 (a.toInt.tdiv b.toInt)

/-- Unsigned quotient (R167, R168). -/
def sdivnOf (a b : DWord) : DWord := if b = 0 then 0xFFFFFFFFFFFFFFFF else BitVec.ofNat 64 (a.toNat / b.toNat)

/-- Signed remainder, with the sign of a (R167, R168). -/
def sremOf (a b : DWord) : DWord := if b = 0 then a else BitVec.ofInt 64 (a.toInt.tmod b.toInt)

/-- Unsigned remainder (R167, R168). -/
def sremnOf (a b : DWord) : DWord := if b = 0 then a else BitVec.ofNat 64 (a.toNat % b.toNat)

/-- S[sd] := f(S[sa], S[sb]) (R165, R167). -/
def armAlu (d a b : SReg) (f : DWord → DWord → DWord) (s : State) : Host.Outcome State Fault Refusal :=
  armWork s fun w => w.result d (f (w.sreg a) (w.sreg b))

/-- SADD (R167). -/
def execSadd (d a b : SReg) (s : State) : Host.Outcome State Fault Refusal :=
  armAlu d a b (fun a b => a + b) s

/-- SSUB (R167). -/
def execSsub (d a b : SReg) (s : State) : Host.Outcome State Fault Refusal :=
  armAlu d a b (fun a b => a - b) s

/-- SMUL (R167). -/
def execSmul (d a b : SReg) (s : State) : Host.Outcome State Fault Refusal :=
  armAlu d a b (fun a b => a * b) s

/-- SMULH (R167). -/
def execSmulh (d a b : SReg) (s : State) : Host.Outcome State Fault Refusal :=
  armAlu d a b (fun a b => BitVec.ofInt 64 (a.toInt * b.toInt / 2 ^ 64)) s

/-- SMULHN (R167). -/
def execSmulhn (d a b : SReg) (s : State) : Host.Outcome State Fault Refusal :=
  armAlu d a b (fun a b => BitVec.ofNat 64 (a.toNat * b.toNat / 2 ^ 64)) s

/-- SDIV (R167, R168). -/
def execSdiv (d a b : SReg) (s : State) : Host.Outcome State Fault Refusal :=
  armAlu d a b (fun a b => sdivOf a b) s

/-- SDIVN (R167, R168). -/
def execSdivn (d a b : SReg) (s : State) : Host.Outcome State Fault Refusal :=
  armAlu d a b (fun a b => sdivnOf a b) s

/-- SREM (R167, R168). -/
def execSrem (d a b : SReg) (s : State) : Host.Outcome State Fault Refusal :=
  armAlu d a b (fun a b => sremOf a b) s

/-- SREMN (R167, R168). -/
def execSremn (d a b : SReg) (s : State) : Host.Outcome State Fault Refusal :=
  armAlu d a b (fun a b => sremnOf a b) s

/-- SAND (R167). -/
def execSand (d a b : SReg) (s : State) : Host.Outcome State Fault Refusal :=
  armAlu d a b (fun a b => a &&& b) s

/-- SOR (R167). -/
def execSor (d a b : SReg) (s : State) : Host.Outcome State Fault Refusal :=
  armAlu d a b (fun a b => a ||| b) s

/-- SXOR (R167). -/
def execSxor (d a b : SReg) (s : State) : Host.Outcome State Fault Refusal :=
  armAlu d a b (fun a b => a ^^^ b) s

/-- SSHL (R167). -/
def execSshl (d a b : SReg) (s : State) : Host.Outcome State Fault Refusal :=
  armAlu d a b (fun a b => a <<< (b.toNat % 64)) s

/-- SSHR (R167). -/
def execSshr (d a b : SReg) (s : State) : Host.Outcome State Fault Refusal :=
  armAlu d a b (fun a b => a >>> (b.toNat % 64)) s

/-- SSRA (R167). -/
def execSsra (d a b : SReg) (s : State) : Host.Outcome State Fault Refusal :=
  armAlu d a b (fun a b => a.sshiftRight (b.toNat % 64)) s

/-- SMIN (R167). -/
def execSmin (d a b : SReg) (s : State) : Host.Outcome State Fault Refusal :=
  armAlu d a b (fun a b => if a.toInt ≤ b.toInt then a else b) s

/-- SMAX (R167). -/
def execSmax (d a b : SReg) (s : State) : Host.Outcome State Fault Refusal :=
  armAlu d a b (fun a b => if a.toInt ≤ b.toInt then b else a) s

/-- SMINN (R167). -/
def execSminn (d a b : SReg) (s : State) : Host.Outcome State Fault Refusal :=
  armAlu d a b (fun a b => if a.toNat ≤ b.toNat then a else b) s

/-- SMAXN (R167). -/
def execSmaxn (d a b : SReg) (s : State) : Host.Outcome State Fault Refusal :=
  armAlu d a b (fun a b => if a.toNat ≤ b.toNat then b else a) s

/-- SSLT (R167). -/
def execSslt (d a b : SReg) (s : State) : Host.Outcome State Fault Refusal :=
  armAlu d a b (fun a b => boolWord (decide (a.toInt < b.toInt))) s

/-- SSLTN (R167). -/
def execSsltn (d a b : SReg) (s : State) : Host.Outcome State Fault Refusal :=
  armAlu d a b (fun a b => boolWord (decide (a.toNat < b.toNat))) s

/-- S[sd] := f(S[sa], SignExtend(imm14, 64)) (R169). -/
def armImm (d a : SReg) (imm : BitVec 14) (f : DWord → DWord → DWord) (s : State) : Host.Outcome State Fault Refusal :=
  armWork s fun w => w.result d (f (w.sreg a) (imm.signExtend 64))

/-- SADDI (R169). -/
def execSaddi (d a : SReg) (imm : BitVec 14) (s : State) : Host.Outcome State Fault Refusal :=
  armImm d a imm (fun a b => a + b) s

/-- SANDI (R169). -/
def execSandi (d a : SReg) (imm : BitVec 14) (s : State) : Host.Outcome State Fault Refusal :=
  armImm d a imm (fun a b => a &&& b) s

/-- SORI (R169). -/
def execSori (d a : SReg) (imm : BitVec 14) (s : State) : Host.Outcome State Fault Refusal :=
  armImm d a imm (fun a b => a ||| b) s

/-- SXORI (R169). -/
def execSxori (d a : SReg) (imm : BitVec 14) (s : State) : Host.Outcome State Fault Refusal :=
  armImm d a imm (fun a b => a ^^^ b) s

/-- SSLTI (R169). -/
def execSslti (d a : SReg) (imm : BitVec 14) (s : State) : Host.Outcome State Fault Refusal :=
  armImm d a imm (fun a b => boolWord (decide (a.toInt < b.toInt))) s

/-- SSHLI (R169). -/
def execSshli (d a : SReg) (n : BitVec 6) (s : State) : Host.Outcome State Fault Refusal :=
  armWork s fun w => w.result d (w.sreg a <<< n.toNat)

/-- SSHRI (R169). -/
def execSshri (d a : SReg) (n : BitVec 6) (s : State) : Host.Outcome State Fault Refusal :=
  armWork s fun w => w.result d (w.sreg a >>> n.toNat)

/-- SSRAI (R169). -/
def execSsrai (d a : SReg) (n : BitVec 6) (s : State) : Host.Outcome State Fault Refusal :=
  armWork s fun w => w.result d ((w.sreg a).sshiftRight n.toNat)

/-- The value of an upper immediate (R170). -/
def upperImm (imm : BitVec 20) : DWord := imm.signExtend 64 <<< 12

/-- SLUI (R170). -/
def execSlui (d : SReg) (imm : BitVec 20) (s : State) : Host.Outcome State Fault Refusal :=
  armWork s fun w => w.result d (upperImm imm)

/-- SAUI (R170). -/
def execSaui (d : SReg) (imm : BitVec 20) (s : State) : Host.Outcome State Fault Refusal :=
  armWork s fun w => w.result d (w.pc + upperImm imm)

/-- The next pc of a conditional branch (R171). -/
def branchTarget (w : Work) (c : Branch) (a b : SReg) (off : BitVec 14) : DWord :=
  if c.holds (w.sreg a) (w.sreg b) then w.pc + off.signExtend 64 * 4 else w.pc + 4

/-- A conditional branch writes only the pc (R171). -/
def armBranch (c : Branch) (a b : SReg) (off : BitVec 14) (s : State) : Host.Outcome State Fault Refusal :=
  armWork s fun w => { w with pc := branchTarget w c a b off }

/-- SBEQ (R171). -/
def execSbeq (a b : SReg) (off : BitVec 14) (s : State) : Host.Outcome State Fault Refusal :=
  armBranch .eq a b off s

/-- SBNE (R171). -/
def execSbne (a b : SReg) (off : BitVec 14) (s : State) : Host.Outcome State Fault Refusal :=
  armBranch .ne a b off s

/-- SBLT (R171). -/
def execSblt (a b : SReg) (off : BitVec 14) (s : State) : Host.Outcome State Fault Refusal :=
  armBranch .lt a b off s

/-- SBGE (R171). -/
def execSbge (a b : SReg) (off : BitVec 14) (s : State) : Host.Outcome State Fault Refusal :=
  armBranch .ge a b off s

/-- SBLTN (R171). -/
def execSbltn (a b : SReg) (off : BitVec 14) (s : State) : Host.Outcome State Fault Refusal :=
  armBranch .ltn a b off s

/-- SBGEN (R171). -/
def execSbgen (a b : SReg) (off : BitVec 14) (s : State) : Host.Outcome State Fault Refusal :=
  armBranch .gen a b off s

end Sys2Proof.Machine
end

