-- ==== Sys2Proof/Machine/ArmControl.lean ====
section
/-!
DEFINITION. Armature control: jumps and frames, fences and waits, tokens and forks, return-queue reads, uniforms and
masks, barriers, and the system instructions (R126 to R139, R171 to R192).
-/
namespace Sys2Proof.Machine

/-! ## What has retired and performed -/

/-- Every token pushed earlier has retired (R69). -/
def Work.tokensRetired (w : Work) : Bool :=
  (w.sprue.all fun i => match i with
    | .token _ => false
    | _ => true) && w.cur0.isNone && w.cur1.isNone

/-- The load-point entries of the work that runs now. -/
def Group.myLoads (g : Group) : List LoadEntry := g.loads.filter (·.acc.level == g.level)

/-- The store-queue entries of the work that runs now. -/
def Group.myStores (g : Group) : List StoreEntry := g.stores.filter (·.acc.level == g.level)

/-- Every older load, lock request and atomic has performed (R69, FENCE acquire part). -/
def Group.loadsDone (g : Group) : Bool :=
  g.myLoads.isEmpty && g.myStores.all fun e => match e.kind with
    | .atomic .. => false
    | _ => true

/-- Every older access has performed (R69, FENCE release part; R38). -/
def Group.accessesDone (g : Group) : Bool := g.myLoads.isEmpty && g.myStores.isEmpty

/-- The Armature stream's own accesses have performed. -/
def Group.armDone (g : Group) : Bool :=
  (g.myLoads.all (·.acc.stream != .arm)) && g.myStores.all (·.acc.stream != .arm)

/-! ## Retirement (R136, R139, R191) -/

/-- Every token has retired, LDC, STC, MXC, LKC and RCC are 0, and every entry of the group's store queue and load point has
performed, those that a handler has left among them, as has every recast (R136, R191). -/
def Group.mayRetire (g : Group) : Bool :=
  let c := g.work.cnt
  g.work.tokensRetired && decide (c.ldc = 0 ∧ c.stc = 0 ∧ c.mxc = 0 ∧ c.lkc = 0 ∧ c.rcc = 0) &&
    g.loads.isEmpty && g.stores.isEmpty && g.work.recasts.isEmpty

/-- A listed barrier word that a group's EXIT deducts from stands in a poisoned sector (R60, R139, log 92). -/
def Team.badDeduction (t : Team) (p : LaunchPacket) (gid : Nat) : Option Nat :=
  if listsBars p then (List.range 16).find? fun i => (t.flags i).reg.contains gid && t.barBad p i else none

/-- EXIT: the checks of R133 and R191, the conditions of R136, then the group retires. -/
def exitGroup (gid : Nat) (g : Group) : M Unit := do
  if g.work.priv then privilegeM
  if !g.work.aForks.isEmpty then faultM Cls.forknest 0 0 0
  need g.mayRetire
  let t ← theTeam g.team
  let d ← theGrid t.grid
  let n := popcount (g.work.kreg 0)
  match t.badDeduction d.packet gid with
  | some i => throw (.faults [(0, barPoison d.packet i)])
  | none => pure ()
  modTeam g.team fun t => if listsBars d.packet then (List.range 16).foldl (fun t i => t.deduct d.packet gid n i) t else t
  dropLocks gid true
  removeGroup gid

/-! ## Jumps (R133, R172) -/

/-- A call records the fork depth in a frame record (R133). -/
def callFrame (w : Work) : M (List Nat) :=
  if w.frames.length < Config.frameDepth then pure (w.aForks.length :: w.frames) else faultM Cls.forknest 0 0 0

/-- SJAL (R172). -/
def execSjal (d : SReg) (imm : BitVec 20) (s : State) : Host.Outcome State Fault Refusal :=
  armM s fun gid g => do
    let frames ← if d = 0 then pure g.work.frames else callFrame g.work
    modWork gid g.level fun w =>
      { w.setS d (w.pc + 4) with pc := w.pc + imm.signExtend 64 * 4, frames := frames }

/-- SJR (R133, R164, R172). -/
def execSjr (d a : SReg) (s : State) : Host.Outcome State Fault Refusal :=
  armM s fun gid g => do
    let w := g.work
    let t := w.sreg a
    if d ≠ 0 then
      let frames ← callFrame w
      modWork gid g.level fun w => { w.setS d (w.pc + 4) with pc := t, frames := frames }
    else if a = 1 then
      match w.frames with
      | [] => if t = 0 then exitGroup gid g else modWork gid g.level ({ · with pc := t })
      | depth :: rest =>
        if depth < w.aForks.length then faultM Cls.forknest 0 0 0
        modWork gid g.level fun w => { w with pc := t, frames := rest }
    else modWork gid g.level ({ · with pc := t })

/-! ## Fences and waits (R69, R93, R173, R181) -/

/-- FENCE (R69, R93, R173). -/
def execFence (sc : Scope) (kind : FenceKind) (s : State) : Host.Outcome State Fault Refusal :=
  armM s fun gid g => do
    need g.work.tokensRetired
    match kind with
    | .acq => need g.loadsDone
    | _ => need (g.accessesDone && g.work.cnt.rcc == 0)
    if sc = .dev ∨ sc = .sys then releaseCore g.core
    nextPc gid g.level

/-- The counters are at or below their thresholds and earlier tokens have retired (R181). -/
def waitDone (w : Work) (l : List (Counter × Nat)) : Bool :=
  w.tokensRetired && l.all fun (k, t) => decide (w.cnt.get k ≤ t)

/-- WAITC (R181). -/
def execWaitc (ldc stc cpc mxc : BitVec 6) (s : State) : Host.Outcome State Fault Refusal :=
  armM s fun gid g => do
    need (waitDone g.work [(.ldc, ldc.toNat), (.stc, stc.toNat), (.cpc, cpc.toNat), (.mxc, mxc.toNat)])
    nextPc gid g.level

/-- The counter that a WAITP selects (R181). -/
def waitpCounter (c : BitVec 3) : Option Counter :=
  match c.toNat with
  | 1 => some .ldc | 2 => some .stc | 3 => some .cpc | 4 => some .mxc | 5 => some .rcc | 6 => some .lkc
  | _ => none

/-- WAITP (R181). -/
def execWaitp (c : BitVec 3) (a : SReg) (s : State) : Host.Outcome State Fault Refusal :=
  armM s fun gid g => do
    match waitpCounter c with
    | none => illegalM
    | some k =>
      need (waitDone g.work [(k, min (g.work.sreg a).toNat 63)])
      nextPc gid g.level

/-! ## Tokens and forks (R71, R128 to R132, R174 to R176) -/

/-- The current mask that an arm field selects; `none` where R128 and R131 forbid the arm. -/
def Work.armMask (w : Work) (arm : ArmSel) : Option Word :=
  match arm, w.aForks with
  | .none, [] => some (w.kreg 0)
  | .a0, f :: _ => some f.mask0
  | .a1, f :: _ => some f.mask1
  | _, _ => none

/-- LRUN (R128, R174). -/
def execLrun (k : KReg) (arm : ArmSel) (t : SReg) (block : BitVec 15) (s : State) : Host.Outcome State Fault Refusal :=
  armM s fun gid g => do
    match g.work.armMask arm with
    | none => illegalM
    | some m =>
      need (decide (g.work.sprue.length < Config.sprueSize))
      let n ← fresh
      let trips : Word := if t = 0 then 1 else (g.work.sreg t).setWidth 32
      modWork gid g.level fun w =>
        { w with sprue := w.sprue ++ [.token ⟨n, block, w.kreg k &&& m, trips, arm, w.w, w.epoch, w.srseed⟩]
                 pc := w.pc + 4 }

/-- LFORK (R131, R132, R176). -/
def execLfork (k : KReg) (arm : ArmSel) (s : State) : Host.Outcome State Fault Refusal :=
  armM s fun gid g => do
    match g.work.armMask arm with
    | none => illegalM
    | some c =>
      if Config.forkDepth ≤ g.work.aForks.length then faultM Cls.forknest 0 0 0
      need (decide (g.work.sprue.length < Config.sprueSize))
      let m0 := c &&& g.work.kreg k
      let m1 := c &&& ~~~(g.work.kreg k)
      modWork gid g.level fun w =>
        { w with sprue := w.sprue ++ [.forkMark m0 m1], aForks := ⟨m0, m1, w.frames.length⟩ :: w.aForks, pc := w.pc + 4 }

/-- LJOIN (R132, R133, R176). -/
def execLjoin (s : State) : Host.Outcome State Fault Refusal :=
  armM s fun gid g => do
    match g.work.aForks with
    | [] => faultM Cls.forknest 0 0 0
    | f :: rest =>
      if f.depth < g.work.frames.length then faultM Cls.forknest 0 0 0
      need (decide (g.work.sprue.length < Config.sprueSize))
      modWork gid g.level fun w => { w with sprue := w.sprue ++ [.joinMark], aForks := rest, pc := w.pc + 4 }

/-! ## Return queue (R72, R134, R177) -/

/-- A return-queue entry is ready once the lane accesses that issued before its push have performed (R72). -/
def Group.retReady (g : Group) (e : RetEntry) : Bool :=
  let before (a : Access) : Bool := a.level == g.level && a.stream == .lane && decide (a.seq < e.seq)
  g.loads.all (fun x => !before x.acc) && g.stores.all fun x => !before x.acc

/-- The head entry, when it is ready. -/
def popRet (g : Group) : M (Word × List RetEntry) :=
  match g.work.retq with
  | [] => waitM
  | e :: rest => do
    need (g.retReady e)
    pure (e.value, rest)

/-- LCOND (R177). -/
def execLcond (d : KReg) (s : State) : Host.Outcome State Fault Refusal :=
  armM s fun gid g => do
    if d = 0 then illegalM
    let (v, rest) ← popRet g
    modWork gid g.level fun w => { w.setK d v with retq := rest, pc := w.pc + 4 }

/-- LGETV (R177). -/
def execLgetv (d : SReg) (signed : Bool) (s : State) : Host.Outcome State Fault Refusal :=
  armM s fun gid g => do
    let (v, rest) ← popRet g
    modWork gid g.level fun w =>
      { w.setS d (if signed then v.signExtend 64 else v.setWidth 64) with retq := rest, pc := w.pc + 4 }

/-! ## Uniforms and masks (R178 to R180) -/

/-- SETW (R178). -/
def execSetw (d : WReg) (a : SReg) (pair : Bool) (s : State) : Host.Outcome State Fault Refusal :=
  if pair && d.toNat % 2 == 1 then armM s fun _ _ => illegalM
  else armWork s fun w =>
    let v := w.sreg a
    let w1 := w.setW d (v.setWidth 32)
    { (if pair then w1.setW (d + 1) (v.extractLsb' 32 32) else w1) with pc := w.pc + 4 }

/-- K[d] := f; a write to k0 raises ILLEGAL (R142, R179). -/
def armMask (d : KReg) (f : Work → Word) (s : State) : Host.Outcome State Fault Refusal :=
  if d = 0 then armM s fun _ _ => illegalM
  else armWork s fun w => { w.setK d (f w) with pc := w.pc + 4 }

/-- KAND (R179). -/
def execKand (d a b : KReg) (s : State) : Host.Outcome State Fault Refusal :=
  armMask d (fun w => w.kreg a &&& w.kreg b) s

/-- KOR (R179). -/
def execKor (d a b : KReg) (s : State) : Host.Outcome State Fault Refusal :=
  armMask d (fun w => w.kreg a ||| w.kreg b) s

/-- KXOR (R179). -/
def execKxor (d a b : KReg) (s : State) : Host.Outcome State Fault Refusal :=
  armMask d (fun w => w.kreg a ^^^ w.kreg b) s

/-- KANDN (R179). -/
def execKandn (d a b : KReg) (s : State) : Host.Outcome State Fault Refusal :=
  armMask d (fun w => w.kreg a &&& ~~~(w.kreg b)) s

/-- KNOT (R179). -/
def execKnot (d a : KReg) (s : State) : Host.Outcome State Fault Refusal :=
  armMask d (fun w => ~~~(w.kreg a)) s

/-- KMOV (R180). -/
def execKmov (d : KReg) (a : SReg) (s : State) : Host.Outcome State Fault Refusal :=
  armMask d (fun w => (w.sreg a).setWidth 32) s

/-- KGET (R180). -/
def execKget (d : SReg) (a : KReg) (s : State) : Host.Outcome State Fault Refusal :=
  armWork s fun w => w.result d ((w.kreg a).setWidth 64)

/-- KPOP (R180). -/
def execKpop (d : SReg) (a : KReg) (s : State) : Host.Outcome State Fault Refusal :=
  armWork s fun w => w.result d (BitVec.ofNat 64 (popcount (w.kreg a)))

/-! ## Barriers (R85, R137, R138, R182) -/

/-- The packet of a barrier instruction; ILLEGAL where R138 says so. -/
def barPacket (g : Group) (i : BitVec 14) : M LaunchPacket := do
  let t ← theTeam g.team
  let d ← theGrid t.grid
  if 16 ≤ i.toNat ∨ !listsBars d.packet then illegalM
  pure d.packet

/-- POISON of the use of a barrier word in a poisoned sector, with nothing changed (R60, R237, log 92). -/
def barClean (t : Team) (p : LaunchPacket) (i : Nat) : M Unit := if t.barBad p i then throw (.faults [(0, barPoison p i)]) else pure ()

/-- WaitEnds of R138. -/
def waitEnds (b : BarWord) (phase : Bool) : Bool := b.ph != phase || b.exp == abandonedExp

/-- The status of a wait that ends (R138). -/
def waitStatus (b : BarWord) : DWord := if b.exp = abandonedExp then 1 else 0

/-- BARR (R138). -/
def execBarr (d : SReg) (i : BitVec 14) (s : State) : Host.Outcome State Fault Refusal :=
  armM s fun gid g => do
    let p ← barPacket g i
    need g.armDone
    let t ← theTeam g.team
    barClean t p i.toNat
    let ph := (t.bar p i.toNat).ph
    let (t', status) := t.arrive p gid i.toNat (popcount (g.work.kreg 0))
    modTeam g.team fun _ => t'
    let b := t'.bar p i.toNat
    if status = 1 then modWork gid g.level (·.result d 1)
    else if waitEnds b ph then modWork gid g.level (·.result d (waitStatus b))
    else modWork gid g.level ({ · with bar := some ⟨i.toNat, ph, d, s.focus.word⟩ })

/-- BARA (R138). -/
def execBara (d : SReg) (i : BitVec 14) (s : State) : Host.Outcome State Fault Refusal :=
  armM s fun gid g => do
    let p ← barPacket g i
    need g.armDone
    let t ← theTeam g.team
    barClean t p i.toNat
    let (t', status) := t.arrive p gid i.toNat (popcount (g.work.kreg 0))
    modTeam g.team fun _ => t'
    modWork gid g.level (·.result d status)

/-- BARW (R138). -/
def execBarw (d a : SReg) (i : BitVec 14) (s : State) : Host.Outcome State Fault Refusal :=
  armM s fun gid g => do
    let p ← barPacket g i
    let t ← theTeam g.team
    barClean t p i.toNat
    let b := t.bar p i.toNat
    let ph := (g.work.sreg a).getLsbD 0
    if waitEnds b ph then modWork gid g.level (·.result d (waitStatus b))
    else modWork gid g.level ({ · with bar := some ⟨i.toNat, ph, d, s.focus.word⟩ })

/-- The wait of a group's barrier instruction has ended (R138); so has one whose word is poisoned, in a fault (R60). -/
def State.barEnds (s : State) (g : Group) (b : BarWait) : Bool := match Tab.find? s.teams g.team with
  | none => false
  | some t => match Tab.find? s.grids t.grid with
    | none => false
    | some d => t.barBad d.packet b.word || waitEnds (t.bar d.packet b.word) b.phase

/-- BARRIER_WAIT_END: a BARR or BARW whose word has changed phase or been abandoned completes (R85, R138, R182). One whose word has
been poisoned meanwhile raises POISON and goes on waiting when it is resumed (R60, R296, log 92). -/
def execBarrierWaitEnd (gid : Nat) (s : State) : Host.Outcome State Fault Refusal :=
  moveStep s do
    let g ← theGroup gid
    need (g.present && g.hold == .none && g.sched.active)
    match g.work.bar with
    | none => waitM
    | some b =>
      need ((← get).barEnds g b)
      let t ← theTeam g.team
      let d ← theGrid t.grid
      if t.barBad d.packet b.word then
        raise gid g.level (recsOf g.work.pc (BitVec.ofNat 32 b.instr) 0 false [(0, barPoison d.packet b.word)])
      else modWork gid g.level fun k => { k.result b.dest (waitStatus (t.bar d.packet b.word)) with bar := none }

/-! ## System (R188 to R192) -/

/-- TRAP (R188). -/
def execTrap (a : SReg) (s : State) : Host.Outcome State Fault Refusal :=
  armM s fun gid g => do
    nextPc gid g.level
    raise gid g.level
      (recsOf g.work.pc (BitVec.ofNat 32 s.focus.word) 0 false [(0, ⟨Cls.illegal, 2, 0, g.work.sreg a⟩)])

/-- ERET (R189). -/
def execEret (s : State) : Host.Outcome State Fault Refusal :=
  armM s fun gid g => do
    if !g.work.priv then privilegeM
    need (g.accessesDone && g.work.recasts.isEmpty && g.work.tokensRetired)
    returnFrom gid

/-- YIELD (R190). -/
def execYield (s : State) : Host.Outcome State Fault Refusal :=
  armM s fun gid g => do
    nextPc gid g.level
    if g.work.priv then suspend gid
    else
      let st ← get
      modGroup gid fun g => g.toPending true st.now (st.launchPrio g)

/-- EXIT (R136, R191). -/
def execExit (s : State) : Host.Outcome State Fault Refusal := armM s exitGroup

/-- HALT (R192). -/
def execHalt (s : State) : Host.Outcome State Fault Refusal :=
  armM s fun gid g => do
    if !g.work.priv then privilegeM
    killGroup gid none

end Sys2Proof.Machine
end

