-- ==== Sys2Proof/Machine/Float.lean ====
section
/-!
DEFINITION. Number formats, exact values and their one rounding, conversions, the functions of R215 and block scales
(R193 to R209). Every result is computed exactly and rounded once.
-/
namespace Sys2Proof.Machine

/-! ## Formats (R194) -/

/-- A floating-point format: exponent and mantissa widths and the bias. -/
structure Fmt where
  eb   : Nat
  mb   : Nat
  bias : Nat
  /-- The top exponent holds infinities and NaNs; E4M3 has only the NaN 0x7F. -/
  ieee : Bool
deriving DecidableEq, Repr

def Fmt.f32 : Fmt := ⟨8, 23, 127, true⟩
def Fmt.bf16 : Fmt := ⟨8, 7, 127, true⟩
def Fmt.e4m3 : Fmt := ⟨4, 3, 7, false⟩
def Fmt.e5m2 : Fmt := ⟨5, 2, 15, true⟩

/-- The exponent of the smallest normal binade. -/
def Fmt.emin (f : Fmt) : Int := 1 - f.bias

/-- The sign bit. -/
def Fmt.signBit (f : Fmt) : Nat := 2 ^ (f.eb + f.mb)

/-- Bits of an infinity, sign aside. -/
def Fmt.infBits (f : Fmt) : Nat := (2 ^ f.eb - 1) * 2 ^ f.mb

/-- The canonical NaN (R194). -/
def Fmt.nan (f : Fmt) : Nat := if f.ieee then f.infBits + 2 ^ (f.mb - 1) else 2 ^ (f.eb + f.mb) - 1

/-- Bits of the largest finite magnitude (R194). -/
def Fmt.maxBits (f : Fmt) : Nat := if f.ieee then f.infBits - 1 else 2 ^ (f.eb + f.mb) - 2

/-! ## Exact values -/

/-- A real: its magnitude is (m + δ)·2^e with δ = 0, or δ strictly between 0 and 1 when `sticky`. Zero has m = 0 and
keeps its sign (R198). -/
structure Exact where
  neg : Bool
  m   : Nat
  e   : Int
  sticky : Bool
deriving DecidableEq, Repr

/-- What a floating-point computation gives before it is rounded. -/
inductive FVal where
  | nan
  | inf (neg : Bool)
  | fin (x : Exact)
deriving DecidableEq, Repr

/-- The value of an encoding (R195). -/
def Fmt.value (f : Fmt) (bits : Nat) : FVal :=
  let neg := bits / f.signBit % 2 == 1
  let e := bits / 2 ^ f.mb % 2 ^ f.eb
  let m := bits % 2 ^ f.mb
  if f.ieee && e == 2 ^ f.eb - 1 then (if m = 0 then .inf neg else .nan)
  else if !f.ieee && e == 2 ^ f.eb - 1 && m == 2 ^ f.mb - 1 then .nan
  else if e = 0 then .fin ⟨neg, m, 1 - f.bias - f.mb, false⟩
  else .fin ⟨neg, 2 ^ f.mb + m, (e : Int) - f.bias - f.mb, false⟩

/-- Zero of a sign. -/
def Exact.zero (neg : Bool) : Exact := ⟨neg, 0, 0, false⟩

/-- The value is exactly zero. -/
def Exact.isZero (x : Exact) : Bool := x.m == 0 && !x.sticky

/-- Signed mantissa at a lower exponent. -/
def Exact.at_ (x : Exact) (e : Int) : Int :=
  let v : Int := x.m * 2 ^ (x.e - e).toNat
  if x.neg then -v else v

/-- Exact sum of two values without sticky parts; an exact zero has the sign of R198. -/
def Exact.add (rd : Bool) (a b : Exact) : Exact :=
  let e := min a.e b.e
  let v := a.at_ e + b.at_ e
  if v = 0 then .zero (if a.neg == b.neg then a.neg else rd)
  else ⟨decide (v < 0), v.natAbs, e, false⟩

/-- Exact product of two values without sticky parts. -/
def Exact.mul (a b : Exact) : Exact := ⟨a.neg != b.neg, a.m * b.m, a.e + b.e, false⟩

/-- A value times 2^k (R150). -/
def Exact.scale (x : Exact) (k : Int) : Exact := { x with e := x.e + k }

def FVal.neg : FVal → FVal
  | .nan => .nan
  | .inf n => .inf (!n)
  | .fin x => .fin { x with neg := !x.neg }

/-- Sum under R197 and R198; `rd` is the rounding mode RD. -/
def FVal.add (rd : Bool) : FVal → FVal → FVal
  | .nan, _ => .nan
  | _, .nan => .nan
  | .inf a, .inf b => if a == b then .inf a else .nan
  | .inf a, _ => .inf a
  | _, .inf b => .inf b
  | .fin a, .fin b => .fin (a.add rd b)

/-- Product under R197 and R198. -/
def FVal.mul : FVal → FVal → FVal
  | .nan, _ => .nan
  | _, .nan => .nan
  | .inf a, .inf b => .inf (a != b)
  | .inf a, .fin x => if x.isZero then .nan else .inf (a != x.neg)
  | .fin x, .inf b => if x.isZero then .nan else .inf (x.neg != b)
  | .fin a, .fin b => .fin (a.mul b)

/-- Infinities and NaNs are not scaled (R215). -/
def FVal.scale (k : Int) : FVal → FVal
  | .fin x => .fin (x.scale k)
  | v => v

/-! ## Rounding (R199 to R201) -/

/-- Whether the first stage rounds a magnitude up, from the kept integer's parity and the dropped part: `r` of `2^k`,
and the sticky part. `u` is the 16-bit number that SR uses. -/
def roundsUp (rm : Rm) (neg odd : Bool) (r k : Nat) (sticky : Bool) (u : Nat) : Bool :=
  if r = 0 ∧ !sticky then false
  else match rm with
    | .rne =>
      if 2 * r < 2 ^ k then false
      else if 2 * r = 2 ^ k ∧ !sticky then odd
      else true
    | .rz => false
    | .rd => neg
    | .ru => !neg
    | .sr => decide (2 ^ 16 * 2 ^ k ≤ r * 2 ^ 16 + u * 2 ^ k)

/-- The integer n of the first stage on the grid 2^q (R199): |x| rounds to n·2^q. -/
def roundGrid (rm : Rm) (u : Nat) (x : Exact) (q : Int) : Nat :=
  if q ≤ x.e then x.m * 2 ^ (x.e - q).toNat
  else
    let k := (q - x.e).toNat
    let n := x.m / 2 ^ k
    if roundsUp rm x.neg (n % 2 == 1) (x.m % 2 ^ k) k x.sticky u then n + 1 else n

/-- Encodes n·2^q, which lies on the format's grid and within its range. -/
def Fmt.encode (f : Fmt) (neg : Bool) (n : Nat) (q : Int) : Nat :=
  let sign := if neg then f.signBit else 0
  if n < 2 ^ f.mb then sign + n
  else if n < 2 ^ (f.mb + 1) then sign + (q + f.mb + f.bias).toNat * 2 ^ f.mb + (n - 2 ^ f.mb)
  else sign + (q + 1 + f.mb + f.bias).toNat * 2 ^ f.mb

/-- The result of an overflow (R200). -/
def Fmt.overflow (f : Fmt) (rm : Rm) (sat neg : Bool) : Nat :=
  let sign := if neg then f.signBit else 0
  let toMax := sat || (match rm with
    | .rz => true
    | .rd => !neg
    | .ru => neg
    | _ => false)
  if toMax then sign + f.maxBits else if f.ieee then sign + f.infBits else f.nan

/-- Rounds an exact value to a format in the two stages of R199 and R200. -/
def Fmt.round (f : Fmt) (rm : Rm) (u : Nat) (sat : Bool) : FVal → Nat
  | .nan => f.nan
  | .inf neg =>
    let sign := if neg then f.signBit else 0
    if sat then sign + f.maxBits else if f.ieee then sign + f.infBits else f.nan
  | .fin x =>
    if x.isZero then (if x.neg then f.signBit else 0)
    else
      let q := max ((Nat.log2 x.m : Int) + x.e) f.emin - f.mb
      let n := roundGrid rm u x q
      let top := if f.ieee then 2 ^ (f.mb + 1) - 1 else 2 ^ (f.mb + 1) - 2
      let qmax : Int := (if f.ieee then 2 ^ f.eb - 2 else 2 ^ f.eb - 1 : Int) - f.bias - f.mb
      if qmax < q ∨ (q = qmax ∧ top < n) then f.overflow rm sat x.neg
      else f.encode x.neg n q

/-- Rounds to an integer, exactly bounded by the caller (R199, R204). -/
def roundInt (rm : Rm) (u : Nat) (x : Exact) : Int :=
  let n : Int := roundGrid rm u x 0
  if x.neg then -n else n

/-! ## FP32 words -/

def f32Value (w : Word) : FVal := Fmt.f32.value w.toNat
def f32Nan : Word := 0x7FC00000
def isNan (w : Word) : Bool := f32Value w == .nan
def f32Round (rm : Rm) (u : Nat) (v : FVal) : Word := BitVec.ofNat 32 (Fmt.f32.round rm u false v)

/-- The order of FP32 numbers, as integers; both zeros are 0. -/
def f32Key (w : Word) : Int := if w.getLsbD 31 then -((w &&& 0x7FFFFFFF).toNat : Int) else w.toNat

/-- IEEE less-than. -/
def f32Lt (a b : Word) : Bool := !isNan a && !isNan b && decide (f32Key a < f32Key b)

/-- IEEE equality. -/
def f32Eq (a b : Word) : Bool := !isNan a && !isNan b && decide (f32Key a = f32Key b)

/-- The minimum (`lo`) or maximum of R205, bit for bit. -/
def f32MinMax (lo : Bool) (a b : Word) : Word :=
  if isNan a then (if isNan b then f32Nan else b)
  else if isNan b then a
  else
    -- −0 is less than +0
    let ka := 2 * f32Key a + (if a = 0x80000000 then -1 else 0)
    let kb := 2 * f32Key b + (if b = 0x80000000 then -1 else 0)
    if decide (ka ≤ kb) == lo then a else b

/-- Clamp01 of R150. -/
def clamp01 (w : Word) : Word :=
  if isNan w || w.getLsbD 31 then 0 else if 0x3F800000 < w.toNat then 0x3F800000 else w

/-! ## Conversions (R204, R221) -/

/-- The float format of a lane type. -/
def floatFmt : LTy → Option Fmt
  | .f32 => some Fmt.f32 | .bf16 => some Fmt.bf16 | .e4m3 => some Fmt.e4m3 | .e5m2 => some Fmt.e5m2
  | _ => none

/-- Width and signedness of an integer lane type (R193). -/
def intTy : LTy → Nat × Bool
  | .i8 => (8, true) | .i16 => (16, true) | .i32 => (32, true)
  | .n8 => (8, false) | .n16 => (16, false) | .n32 => (32, false)
  | _ => (32, false)

/-- The value of an integer element in the low bits of a register. -/
def intElem (t : LTy) (w : Word) : Int :=
  let (n, signed) := intTy t
  let v := w.toNat % 2 ^ n
  if signed ∧ 2 ^ (n - 1) ≤ v then (v : Int) - 2 ^ n else v

/-- The range of an integer type. -/
def intRange (t : LTy) : Int × Int :=
  let (n, signed) := intTy t
  if signed then (-(2 ^ (n - 1) : Int), 2 ^ (n - 1) - 1) else (0, 2 ^ n - 1)

def clampInt (t : LTy) (v : Int) : Int := max (intRange t).1 (min (intRange t).2 v)

/-- An integer result in a register: extended by the signedness of its type (R193, R221). -/
def intWord (t : LTy) (v : Int) : Word :=
  let (n, signed) := intTy t
  let low := (v % 2 ^ n).toNat
  BitVec.ofInt 32 (if signed ∧ 2 ^ (n - 1) ≤ low then (low : Int) - 2 ^ n else low)

/-- An integer as an exact value; zero is +0. -/
def exactInt (v : Int) : Exact := ⟨decide (v < 0), v.natAbs, 0, false⟩

/-- Low bits of a register that hold a float of a format. -/
def floatBits (f : Fmt) (w : Word) : Nat := w.toNat % (2 * f.signBit)

/-- VCVT of one element (R204, R221). A narrower format goes to FP32 exactly, and SAT leaves its infinities (log 112). -/
def convert (src dst : LTy) (sat : Bool) (rm : Rm) (u : Nat) (w : Word) : Word :=
  match floatFmt src, floatFmt dst with
  | some f, some g => BitVec.ofNat 32 (g.round rm u (sat && (dst != .f32 || src == .f32)) (f.value (floatBits f w)))
  | some f, none => match f.value (floatBits f w) with
    | .nan => 0
    | .inf neg => intWord dst (if neg then (intRange dst).1 else (intRange dst).2)
    | .fin x => intWord dst (clampInt dst (roundInt rm u x))
  | none, some g => BitVec.ofNat 32 (g.round rm u sat (.fin (exactInt (intElem src w))))
  | none, none =>
    let v := intElem src w
    let (n, sg) := intTy src
    let (m, dg) := intTy dst
    if sg = dg ∧ n ≤ m then intWord dst v
    else if sat then intWord dst (clampInt dst v) else intWord dst v

/-! ## Functions (R215) -/

/-- Newton steps of an integer square root. -/
def isqrtStep (n : Nat) : Nat → Nat → Nat
  | 0, x => x
  | k + 1, x =>
    let y := (x + n / x) / 2
    if y < x then isqrtStep n k y else x

/-- ⌊√n⌋. -/
def isqrt (n : Nat) : Nat := if n = 0 then 0 else isqrtStep n (Nat.log2 n + 8) (2 ^ (Nat.log2 n / 2 + 1))

/-- 1/a, for a not zero. -/
def recip (x : Exact) : Exact :=
  ⟨x.neg, 2 ^ 96 / x.m, -96 - x.e, 2 ^ 96 % x.m != 0⟩

/-- 1/√a, for a above zero. -/
def recipSqrt (x : Exact) : Exact :=
  let m := if x.e % 2 = 0 then x.m else 2 * x.m
  let e := if x.e % 2 = 0 then x.e else x.e - 1
  let q := isqrt (2 ^ 192 / m)
  ⟨false, q, -96 - e / 2, q * q * m != 2 ^ 192⟩

/-- ⌊a⌋; a fraction in (0, 1) gives +0. -/
def floorExact (x : Exact) : Exact :=
  if 0 ≤ x.e then x
  else
    let k := (-x.e).toNat
    let n := x.m / 2 ^ k
    let n := if x.neg ∧ x.m % 2 ^ k ≠ 0 then n + 1 else n
    ⟨x.neg, n, 0, false⟩

/-- Bits of the fixed-point numbers below. -/
def fixBits : Nat := 320

/-- ln 2 in fixed point, as the sum of 1/(k·2^k). -/
def ln2Fix : Nat := (List.range 340).foldl (fun a k => a + 2 ^ fixBits / ((k + 1) * 2 ^ (k + 1))) 0

/-- The exponential series of y in fixed point. -/
def expSeries (y : Nat) : Nat → Nat → Nat → Nat → Nat
  | 0, _, _, acc => acc
  | n + 1, k, term, acc =>
    let t := term * y / 2 ^ fixBits / k
    expSeries y n (k + 1) t (acc + t)

/-- 2^a for a finite a. -/
def exp2Exact (x : Exact) : Exact :=
  let e := x.e
  if 12 ≤ (Nat.log2 x.m : Int) + e then
    -- far outside every format's range
    ⟨false, 2 ^ 64, (if x.neg then -8192 else 8192), true⟩
  else
    let v := x.at_ (min e 0)
    let d : Nat := (-(min e 0)).toNat
    let n := v / (2 ^ d : Int)
    let f := (v - n * 2 ^ d).toNat
    if f = 0 then ⟨false, 1, n, false⟩
    else
      let y := f * ln2Fix / 2 ^ d
      ⟨false, expSeries y 100 1 (2 ^ fixBits) (2 ^ fixBits), n - fixBits, true⟩

/-- The series of atanh z in fixed point. -/
def atanhSeries (z2 : Nat) : Nat → Nat → Nat → Nat → Nat
  | 0, _, _, acc => acc
  | n + 1, k, pow, acc => atanhSeries z2 n (k + 2) (pow * z2 / 2 ^ fixBits) (acc + pow / k)

/-- log2 a for a above zero. -/
def log2Exact (x : Exact) : Exact :=
  let l := Nat.log2 x.m
  let k : Int := l + x.e
  if x.m = 2 ^ l then exactInt k
  else
    -- a = (x.m / 2^l)·2^k with the quotient in (1, 2)
    let z := (x.m - 2 ^ l) * 2 ^ fixBits / (x.m + 2 ^ l)
    let ln := 2 * atanhSeries (z * z / 2 ^ fixBits) 120 1 z 0
    let frac := ln * 2 ^ fixBits / ln2Fix
    let v : Int := k * 2 ^ fixBits + frac
    if 0 ≤ v then ⟨false, v.toNat, -fixBits, true⟩ else ⟨true, (-v - 1).toNat, -fixBits, true⟩

/-- The five functions of R215. -/
inductive FFun where
  | rcp | rsq | exp2 | log2 | flr
deriving DecidableEq, Repr

/-- The exact value of a function, with the special values of R215. -/
def FFun.apply (f : FFun) (a : FVal) : FVal :=
  match f, a with
  | _, .nan => .nan
  | .rcp, .inf n => .fin (.zero n)
  | .rcp, .fin x => if x.isZero then .inf x.neg else .fin (recip x)
  | .rsq, .inf n => if n then .nan else .fin (.zero false)
  | .rsq, .fin x => if x.isZero then .inf x.neg else if x.neg then .nan else .fin (recipSqrt x)
  | .exp2, .inf n => if n then .fin (.zero false) else .inf false
  | .exp2, .fin x => .fin (if x.isZero then exactInt 1 else exp2Exact x)
  | .log2, .inf n => if n then .nan else .inf false
  | .log2, .fin x => if x.isZero then .inf true else if x.neg then .nan else .fin (log2Exact x)
  | .flr, .inf n => .inf n
  | .flr, .fin x => .fin (floorExact x)

/-! ## Stochastic rounding (R201, R202) -/

/-- XorStep of R201. -/
def xorStep (x : Word) : Word :=
  let a := x ^^^ (x <<< 13)
  let b := a ^^^ (a >>> 17)
  b ^^^ (b <<< 5)

/-- The seed of a lane (R202). -/
def laneSeed (seed : Word) (l : Nat) : Word :=
  let g := seed + BitVec.ofNat 32 l
  if g = 0 then 0x6D2B79F5 else g

/-! ## Block scales (R209) -/

/-- The least e with a ≤ M·2^e, for M = k·2^t with k odd, clamped to −126 to 127. -/
def scaleExp (f : F8) (a : Exact) : Int :=
  let (k, t) : Nat × Int := match f with
    | .e4m3 => (7, 6)
    | .e5m2 => (7, 13)
  -- a ≤ 7·2^(t + e): compare a.m with 7·2^(t + e - a.e)
  let l : Int := Nat.log2 a.m
  -- 2^l ≤ a.m < 2^(l+1), and 7·2^d ≥ a.m needs d ≥ l - 2
  let d := if a.m * 4 ≤ k * 2 ^ l.toNat then l - 2 else l - 1
  max (-126) (min 127 (d + a.e - t))

/-- The scale s and 2^−e of a block whose largest magnitude has the given FP32 bits; `bad` is a NaN or infinity in it. -/
def blockScale (f : F8) (bad : Bool) (maxBits : Word) : Word × Word × Int :=
  if bad then (f32Nan, f32Nan, 0)
  else match f32Value maxBits with
    | .fin x =>
      if x.isZero then (0x3F800000, 0x3F800000, 0)
      else
        let e := scaleExp f { x with neg := false }
        (f32Round .rne 0 (.fin ⟨false, 1, e, false⟩), f32Round .rne 0 (.fin ⟨false, 1, -e, false⟩), e)
    | _ => (f32Nan, f32Nan, 0)

end Sys2Proof.Machine
end

