-- ==== Sys2Proof/Machine/LaneAlu.lean ====
section
/-!
DEFINITION. Lane arithmetic: floating point, compare and select, integers, moves, conversions and packing (R210 to
R223).
-/
namespace Sys2Proof.Machine

/-! ## Rounding in lanes (R201, R202) -/

/-- Steps a lane's generator, seeding it first when the token's epoch is later than the generator's; the answer is the
16-bit number that SR uses. -/
def stepGen (t : Token) (l : Nat) (w : Work) : Work × Nat :=
  let g0 : Gen := match Tab.find? w.gens l with
    | some g => if g.epoch < t.epoch then ⟨laneSeed t.seed l, t.epoch⟩ else g
    | none => (⟨laneSeed t.seed l, t.epoch⟩ : Gen)
  let g := xorStep g0.g
  ({ w with gens := Tab.put w.gens l ⟨g, g0.epoch⟩ }, (g >>> 16).toNat)

/-- One rounding in a lane: under SR its generator steps. -/
def drawFor (rm : Rm) (t : Token) (l : Nat) (w : Work) : Work × Nat := if rm = .sr then stepGen t l w else (w, 0)

/-- Computes one rounded result in each listed lane, in order; the other lanes get 0. -/
def roundLanes (rm : Rm) (t : Token) (f : Nat → Nat → Word) : List Nat → Work → Work × Vector Word 32
  | [], w => (w, Vector.replicate 32 0)
  | l :: ls, w =>
    let (w, u) := drawFor rm t l w
    let (w, v) := roundLanes rm t f ls w
    (w, v.setIfInBounds l (f l u))

/-- One lane of a value by number. -/
def VVal.get (v : VVal) (l : Nat) : Word := (v.val[l]?).getD 0

/-! ## Floating point (R213 to R215) -/

/-- FpResult of R213. -/
def fpResult (o : FOpt) (u : Nat) (x : FVal) : Word :=
  let r := f32Round o.rm u (x.scale o.scl.toInt)
  if o.clp then clamp01 r else r

/-- A floating-point instruction: modified operands, an exact result, one rounding (R213, R215). -/
def laneFp (i : Instr) (c : Ctl) (d : VReg) (srcs : List MSrc) (o : FOpt) (f : List FVal → FVal) (s : State) :
    Host.Outcome State Fault Refusal :=
  laneWork s i c fun x act w =>
    let vs := srcs.map x.msrc
    let (w, r) := roundLanes o.rm x.cursor.token (fun l u => fpResult o u (f (vs.map fun v => f32Value (v.get l))))
      (lanesOf act) w
    laneResult x c act d vs (fun l => r[l]) w

/-- Sum of two operands, and of a product and an addend. -/
def sum2 (rd : Bool) : List FVal → FVal
  | [a, b] => a.add rd b
  | _ => .nan

def diff2 (rd : Bool) : List FVal → FVal
  | [a, b] => a.add rd b.neg
  | _ => .nan

def prod2 : List FVal → FVal
  | [a, b] => a.mul b
  | _ => .nan

def fma3 (rd : Bool) : List FVal → FVal
  | [a, b, c] => (a.mul b).add rd c
  | _ => .nan

def fun1 (f : FFun) : List FVal → FVal
  | [a] => f.apply a
  | _ => .nan

/-- VADD (R213). -/
def execVadd (c : Ctl) (d : VReg) (a b : MSrc) (o : FOpt) (s : State) : Host.Outcome State Fault Refusal :=
  laneFp (.vadd c d a b o) c d [a, b] o (sum2 (o.rm == .rd)) s

/-- VSUB (R213). -/
def execVsub (c : Ctl) (d : VReg) (a b : MSrc) (o : FOpt) (s : State) : Host.Outcome State Fault Refusal :=
  laneFp (.vsub c d a b o) c d [a, b] o (diff2 (o.rm == .rd)) s

/-- VMUL (R213). -/
def execVmul (c : Ctl) (d : VReg) (a b : MSrc) (o : FOpt) (s : State) : Host.Outcome State Fault Refusal :=
  laneFp (.vmul c d a b o) c d [a, b] o prod2 s

/-- VFMA (R213). -/
def execVfma (c : Ctl) (d : VReg) (a b e : MSrc) (o : FOpt) (s : State) : Host.Outcome State Fault Refusal :=
  laneFp (.vfma c d a b e o) c d [a, b, e] o (fma3 (o.rm == .rd)) s

/-- VMIN and VMAX (R205, R214). -/
def laneMinMax (i : Instr) (lo : Bool) (c : Ctl) (d : VReg) (a b : MSrc) (clp : Bool) (s : State) :
    Host.Outcome State Fault Refusal :=
  laneWork s i c fun x act w =>
    let va := x.msrc a
    let vb := x.msrc b
    laneResult x c act d [va, vb] (fun l =>
      let r := f32MinMax lo va.val[l] vb.val[l]
      if clp then clamp01 r else r) w

/-- VMIN (R214). -/
def execVmin (c : Ctl) (d : VReg) (a b : MSrc) (clp : Bool) (s : State) : Host.Outcome State Fault Refusal :=
  laneMinMax (.vmin c d a b clp) true c d a b clp s

/-- VMAX (R214). -/
def execVmax (c : Ctl) (d : VReg) (a b : MSrc) (clp : Bool) (s : State) : Host.Outcome State Fault Refusal :=
  laneMinMax (.vmax c d a b clp) false c d a b clp s

/-- VRCP (R215). -/
def execVrcp (c : Ctl) (d : VReg) (a : MSrc) (o : FOpt) (s : State) : Host.Outcome State Fault Refusal :=
  laneFp (.vrcp c d a o) c d [a] o (fun1 .rcp) s

/-- VRSQ (R215). -/
def execVrsq (c : Ctl) (d : VReg) (a : MSrc) (o : FOpt) (s : State) : Host.Outcome State Fault Refusal :=
  laneFp (.vrsq c d a o) c d [a] o (fun1 .rsq) s

/-- VEXP2 (R215). -/
def execVexp2 (c : Ctl) (d : VReg) (a : MSrc) (o : FOpt) (s : State) : Host.Outcome State Fault Refusal :=
  laneFp (.vexp2 c d a o) c d [a] o (fun1 .exp2) s

/-- VLOG2 (R215). -/
def execVlog2 (c : Ctl) (d : VReg) (a : MSrc) (o : FOpt) (s : State) : Host.Outcome State Fault Refusal :=
  laneFp (.vlog2 c d a o) c d [a] o (fun1 .log2) s

/-- VFLR (R215). -/
def execVflr (c : Ctl) (d : VReg) (a : MSrc) (o : FOpt) (s : State) : Host.Outcome State Fault Refusal :=
  laneFp (.vflr c d a o) c d [a] o (fun1 .flr) s

/-! ## Compare and select (R216, R217) -/

/-- FP32 conditions of VCMP (R216). -/
def condF32 (c : Cond) (a b : Word) : Bool :=
  match c with
  | .eq => f32Eq a b
  | .ne => !f32Eq a b
  | .lt => f32Lt a b
  | .le => f32Lt a b || f32Eq a b
  | .gt => f32Lt b a
  | .ge => f32Lt b a || f32Eq a b
  | .ord => !isNan a && !isNan b
  | .uno => isNan a || isNan b

/-- Cond of R216 for a type. -/
def condOf (ty : CmpTy) (c : Cond) (a b : Word) : Bool :=
  match ty with
  | .f32 => condF32 c a b
  | .i32 => condInt c true a b
  | .n32 => condInt c false a b

/-- The word with one bit per lane. -/
def bitsFrom (f : Nat → Bool) : Word := BitVec.ofNat 32 ((List.range 32).foldl (fun a l => if f l then a + 2 ^ l else a) 0)

/-- VCMP (R216). -/
def execVcmp (c : Ctl) (q : QReg) (ty : CmpTy) (cond : Cond) (a b : MSrc) (s : State) :
    Host.Outcome State Fault Refusal :=
  laneWork s (.vcmp c q ty cond a b) c fun x act w =>
    let va := x.msrc a
    let vb := x.msrc b
    let bits := bitsFrom fun l => condOf ty cond (va.get l) (vb.get l)
    w.setQ q ((w.qreg q).write bits (va.poison ||| vb.poison ||| x.guardPoison c) act)

/-- VSEL: the poison of the value not chosen does not pass (R217). -/
def execVsel (c : Ctl) (d : VReg) (a b : Src) (q : QReg) (s : State) : Host.Outcome State Fault Refusal :=
  laneWork s (.vsel c d a b q) c fun x act w =>
    let va := x.src a
    let vb := x.src b
    let k := w.qreg q
    let p := (va.poison &&& k.bits) ||| (vb.poison &&& ~~~k.bits) ||| k.poison ||| x.guardPoison c
    w.setV d.val ((w.vreg d.val).write
      ⟨Vector.ofFn fun l : Fin 32 => if k.bits.getLsbD l.val then va.val[l] else vb.val[l], p⟩ act)

/-! ## Integers (R218, R219) -/

/-- An operation on two sources, lane by lane. -/
def laneInt2 (i : Instr) (c : Ctl) (d : VReg) (a b : Src) (f : Word → Word → Word) (s : State) :
    Host.Outcome State Fault Refusal :=
  laneWork s i c fun x act w =>
    let va := x.src a
    let vb := x.src b
    laneResult x c act d [va, vb] (fun l => f va.val[l] vb.val[l]) w

/-- An operation on one source, lane by lane. -/
def laneInt1 (i : Instr) (c : Ctl) (d : VReg) (a : Src) (f : Word → Word) (s : State) :
    Host.Outcome State Fault Refusal :=
  laneWork s i c fun x act w =>
    let va := x.src a
    laneResult x c act d [va] (fun l => f va.val[l]) w

/-- An operation on three sources, lane by lane. -/
def laneInt3 (i : Instr) (c : Ctl) (d : VReg) (a b e : Src) (f : Word → Word → Word → Word) (s : State) :
    Host.Outcome State Fault Refusal :=
  laneWork s i c fun x act w =>
    let va := x.src a
    let vb := x.src b
    let ve := x.src e
    laneResult x c act d [va, vb, ve] (fun l => f va.val[l] vb.val[l] ve.val[l]) w

/-- VIADD (R218). -/
def execViadd (c : Ctl) (d : VReg) (a b : Src) (s : State) : Host.Outcome State Fault Refusal :=
  laneInt2 (.viadd c d a b) c d a b (fun a b => a + b) s

/-- VISUB (R218). -/
def execVisub (c : Ctl) (d : VReg) (a b : Src) (s : State) : Host.Outcome State Fault Refusal :=
  laneInt2 (.visub c d a b) c d a b (fun a b => a - b) s

/-- VIMUL (R218). -/
def execVimul (c : Ctl) (d : VReg) (a b : Src) (s : State) : Host.Outcome State Fault Refusal :=
  laneInt2 (.vimul c d a b) c d a b (fun a b => a * b) s

/-- VIMULH (R218). -/
def execVimulh (c : Ctl) (d : VReg) (a b : Src) (s : State) : Host.Outcome State Fault Refusal :=
  laneInt2 (.vimulh c d a b) c d a b (fun a b => BitVec.ofInt 32 (a.toInt * b.toInt / 2 ^ 32)) s

/-- VIMULHN (R218). -/
def execVimulhn (c : Ctl) (d : VReg) (a b : Src) (s : State) : Host.Outcome State Fault Refusal :=
  laneInt2 (.vimulhn c d a b) c d a b (fun a b => BitVec.ofNat 32 (a.toNat * b.toNat / 2 ^ 32)) s

/-- VAND (R218). -/
def execVand (c : Ctl) (d : VReg) (a b : Src) (s : State) : Host.Outcome State Fault Refusal :=
  laneInt2 (.vand c d a b) c d a b (fun a b => a &&& b) s

/-- VOR (R218). -/
def execVor (c : Ctl) (d : VReg) (a b : Src) (s : State) : Host.Outcome State Fault Refusal :=
  laneInt2 (.vor c d a b) c d a b (fun a b => a ||| b) s

/-- VXOR (R218). -/
def execVxor (c : Ctl) (d : VReg) (a b : Src) (s : State) : Host.Outcome State Fault Refusal :=
  laneInt2 (.vxor c d a b) c d a b (fun a b => a ^^^ b) s

/-- VSHL (R218). -/
def execVshl (c : Ctl) (d : VReg) (a b : Src) (s : State) : Host.Outcome State Fault Refusal :=
  laneInt2 (.vshl c d a b) c d a b (fun a b => a <<< (b.toNat % 32)) s

/-- VSHR (R218). -/
def execVshr (c : Ctl) (d : VReg) (a b : Src) (s : State) : Host.Outcome State Fault Refusal :=
  laneInt2 (.vshr c d a b) c d a b (fun a b => a >>> (b.toNat % 32)) s

/-- VSRA (R218). -/
def execVsra (c : Ctl) (d : VReg) (a b : Src) (s : State) : Host.Outcome State Fault Refusal :=
  laneInt2 (.vsra c d a b) c d a b (fun a b => a.sshiftRight (b.toNat % 32)) s

/-- VIMIN (R218). -/
def execVimin (c : Ctl) (d : VReg) (a b : Src) (s : State) : Host.Outcome State Fault Refusal :=
  laneInt2 (.vimin c d a b) c d a b (fun a b => if a.toInt ≤ b.toInt then a else b) s

/-- VIMAX (R218). -/
def execVimax (c : Ctl) (d : VReg) (a b : Src) (s : State) : Host.Outcome State Fault Refusal :=
  laneInt2 (.vimax c d a b) c d a b (fun a b => if a.toInt ≤ b.toInt then b else a) s

/-- VIMINN (R218). -/
def execViminn (c : Ctl) (d : VReg) (a b : Src) (s : State) : Host.Outcome State Fault Refusal :=
  laneInt2 (.viminn c d a b) c d a b (fun a b => if a.toNat ≤ b.toNat then a else b) s

/-- VIMAXN (R218). -/
def execVimaxn (c : Ctl) (d : VReg) (a b : Src) (s : State) : Host.Outcome State Fault Refusal :=
  laneInt2 (.vimaxn c d a b) c d a b (fun a b => if a.toNat ≤ b.toNat then b else a) s

/-- VIMAD (R218). -/
def execVimad (c : Ctl) (d : VReg) (a b e : Src) (s : State) : Host.Outcome State Fault Refusal :=
  laneInt3 (.vimad c d a b e) c d a b e (fun a b e => a * b + e) s

/-- VPOPC (R218). -/
def execVpopc (c : Ctl) (d : VReg) (a : Src) (s : State) : Host.Outcome State Fault Refusal :=
  laneInt1 (.vpopc c d a) c d a (fun a => BitVec.ofNat 32 (popcount a)) s

/-- Leading zero bits; 32 for 0 (R218). -/
def leadingZeros (a : Word) : Nat := if a = 0 then 32 else 31 - Nat.log2 a.toNat

/-- VCLZ (R218). -/
def execVclz (c : Ctl) (d : VReg) (a : Src) (s : State) : Host.Outcome State Fault Refusal :=
  laneInt1 (.vclz c d a) c d a (fun a => BitVec.ofNat 32 (leadingZeros a)) s

/-- The field of R219. -/
def bitField (sx : Bool) (a b e : Word) : Word :=
  let n := min (e.toNat % 64) 32
  let f := a.toNat / 2 ^ (b.toNat % 32) % 2 ^ n
  if sx ∧ 0 < n ∧ f.testBit (n - 1) then BitVec.ofInt 32 ((f : Int) - 2 ^ n) else BitVec.ofNat 32 f

/-- VBFE (R219). -/
def execVbfe (c : Ctl) (d : VReg) (a b e : Src) (sx : Bool) (s : State) : Host.Outcome State Fault Refusal :=
  laneInt3 (.vbfe c d a b e sx) c d a b e (bitField sx) s

/-! ## Moves (R220) -/

/-- VMOV (R220). -/
def execVmov (c : Ctl) (d : VReg) (a : Src) (s : State) : Host.Outcome State Fault Refusal :=
  laneInt1 (.vmov c d a) c d a id s

/-- VMOVI (R220). -/
def execVmovi (c : Ctl) (d : VReg) (imm : Word) (s : State) : Host.Outcome State Fault Refusal :=
  laneWork s (.vmovi c d imm) c fun x act w => laneResult x c act d [] (fun _ => imm) w

/-! ## Conversion and packing (R221 to R223) -/

/-- VCVT. Integers do not round, so they step no generator (R201, R221). -/
def execVcvt (c : Ctl) (d : VReg) (a : Src) (src dst : LTy) (sat : Bool) (rm : Rm) (s : State) :
    Host.Outcome State Fault Refusal :=
  laneWork s (.vcvt c d a src dst sat rm) c fun x act w =>
    let va := x.src a
    let (w, r) := roundLanes rm x.cursor.token (fun l u => convert src dst sat rm u (va.get l)) (lanesOf act) w
    laneResult x c act d [va] (fun l => r[l]) w

/-- The lane type of a packed type. -/
def ptyLTy : PTy → LTy
  | .bf16 => .bf16 | .e4m3 => .e4m3 | .e5m2 => .e5m2

/-- The packed word of VPACK (R222). -/
def packWord (ty : PTy) (h : Bool) (old a b : Word) : Word :=
  match ty with
  | .bf16 => (b <<< 16) ||| a
  | _ => if h then (old &&& 0x0000FFFF) ||| (a <<< 16) ||| (b <<< 24) else (old &&& 0xFFFF0000) ||| a ||| (b <<< 8)

/-- VPACK; under SR a generator steps twice, for a first (R222). -/
def execVpack (c : Ctl) (d : VReg) (a b : Src) (ty : PTy) (h sat : Bool) (rm : Rm) (s : State) :
    Host.Outcome State Fault Refusal :=
  laneWork s (.vpack c d a b ty h sat rm) c fun x act w =>
    let va := x.src a
    let vb := x.src b
    let old := w.vreg d.val
    let t := x.cursor.token
    let step (p : Work × Vector Word 32) (l : Nat) : Work × Vector Word 32 :=
      let (w, u) := drawFor rm t l p.1
      let (w, u') := drawFor rm t l w
      (w, p.2.setIfInBounds l (packWord ty h (old.get l) (convert .f32 (ptyLTy ty) sat rm u (va.get l))
        (convert .f32 (ptyLTy ty) sat rm u' (vb.get l))))
    let (w, r) := (lanesOf act).foldl step (w, Vector.replicate 32 0)
    laneResult x c act d (if ty = .bf16 then [va, vb] else [va, vb, old]) (fun l => r[l]) w

/-- Element i of a packed register, converted exactly (R196, R222). -/
def unpack (ty : PTy) (i : Nat) (a : Word) : Word :=
  let n := if ty = .bf16 then 16 else 8
  convert (ptyLTy ty) .f32 false .rne 0 (a >>> (n * i))

/-- VUNPK (R222). -/
def execVunpk (c : Ctl) (d : VReg) (a : Src) (ty : PTy) (i : BitVec 2) (s : State) : Host.Outcome State Fault Refusal :=
  laneInt1 (.vunpk c d a ty i) c d a (unpack ty i.toNat) s

/-- The halves of a group that cross-lane instructions act within: one of 32 lanes, or two of 16 (R311). -/
def LaneCx.halves (x : LaneCx) : List (List Nat) :=
  if x.paired then [upFrom 0 16, upFrom 16 16] else [upFrom 0 32]

/-- VSCLQ: both destinations in every active lane (R209, R223). -/
def execVsclq (c : Ctl) (d a : VReg) (ty : F8) (s : State) : Host.Outcome State Fault Refusal :=
  laneWork s (.vsclq c d a ty) c fun x act w =>
    let half (w : Work) (ls : List Nat) : Work :=
      let on := ls.filter act.getLsbD
      let elems := on.flatMap fun l => (upFrom a.val 4).map fun r => (x.g.work.vreg r).get l
      let mags := elems.map (· &&& 0x7FFFFFFF)
      let bad := mags.any fun m => decide (0x7F800000 ≤ m.toNat)
      let top := mags.foldl (fun m v => if m.toNat < v.toNat then v else m) 0
      let (sc, inv, _) := blockScale ty bad top
      let p := (upFrom a.val 4).any fun r => on.any fun l => (x.g.work.vreg r).poison.getLsbD l
      let m := bitsFrom fun l => on.contains l
      let pw : Word := (if p then m else 0) ||| x.guardPoison c
      let w := w.setV d.val ((w.vreg d.val).write ⟨Vector.replicate 32 sc, pw⟩ m)
      w.setV (d.val + 1) ((w.vreg (d.val + 1)).write ⟨Vector.replicate 32 inv, pw⟩ m)
    x.halves.foldl half w

end Sys2Proof.Machine
end

