-- ==== Sys2Proof/Machine/LaneCross.lean ====
section
/-!
DEFINITION. Cross-lane instructions: shuffles, scans, reductions, ballots, top-k insertion; LEND and VNOP (R206 to R208,
R224 to R229, R232, R311).
-/
namespace Sys2Proof.Machine

/-! ## Shuffles (R224) -/

/-- A shuffle: `from_` gives, for a lane's place in its half and the half's size, the place it reads from, or none for
its own b. `pb` says whether the lane reads b (R211). -/
def laneShuffle (i : Instr) (c : Ctl) (d : VReg) (a : Src) (b : Option Src) (pb : Bool)
    (from_ : Nat → Nat → Word → Option Nat) (s : State) : Host.Outcome State Fault Refusal :=
  laneWork s i c fun x act w =>
    let va := x.src a
    let vb := (b.map x.src).getD VVal.zero
    let size := if x.paired then 16 else 32
    let pick (l : Nat) : Word × Bool :=
      let base := l / size * size
      match from_ (l % size) size (vb.get l) with
      | some k => (va.get (base + k), va.poison.getLsbD (base + k) || (pb && vb.poison.getLsbD l))
      | none => (vb.get l, vb.poison.getLsbD l)
    w.setV d.val ((w.vreg d.val).write
      ⟨Vector.ofFn fun l : Fin 32 => (pick l.val).1, bitsFrom (fun l => (pick l).2) ||| x.guardPoison c⟩ act)

/-- VSHFL (R224). -/
def execVshfl (c : Ctl) (d : VReg) (a b : Src) (s : State) : Host.Outcome State Fault Refusal :=
  laneShuffle (.vshfl c d a b) c d a (some b) true (fun _ size v => some (v.toNat % size)) s

/-- VSHUP (R224). -/
def execVshup (c : Ctl) (d : VReg) (a b : Src) (n : BitVec 5) (s : State) : Host.Outcome State Fault Refusal :=
  laneShuffle (.vshup c d a b n) c d a (some b) false
    (fun l _ _ => if n.toNat ≤ l then some (l - n.toNat) else none) s

/-- VSHDN (R224). -/
def execVshdn (c : Ctl) (d : VReg) (a b : Src) (n : BitVec 5) (s : State) : Host.Outcome State Fault Refusal :=
  laneShuffle (.vshdn c d a b n) c d a (some b) false
    (fun l size _ => if l + n.toNat < size then some (l + n.toNat) else none) s

/-- VSHXR (R224). -/
def execVshxr (c : Ctl) (d : VReg) (a : Src) (m : BitVec 5) (s : State) : Host.Outcome State Fault Refusal :=
  laneShuffle (.vshxr c d a m) c d a none false (fun l size _ => some ((l ^^^ m.toNat) % size)) s

/-! ## Combine (R205, R206, R208, R225) -/

/-- Combine of R206: an operation on two values of a type, `a` from the lower lanes. -/
def combine (op : ScanOp) (ty : CmpTy) (rm : Rm) (u : Nat) (a b : Word) : Word :=
  match op, ty with
  | .add, .f32 => f32Round rm u ((f32Value a).add (rm == .rd) (f32Value b))
  | .min, .f32 => f32MinMax true a b
  | .max, .f32 => f32MinMax false a b
  | .add, _ => a + b
  | .min, .i32 => if a.toInt ≤ b.toInt then a else b
  | .max, .i32 => if a.toInt ≤ b.toInt then b else a
  | .min, .n32 => if a.toNat ≤ b.toNat then a else b
  | .max, .n32 => if a.toNat ≤ b.toNat then b else a
  | .and, _ => a &&& b
  | .or, _ => a ||| b
  | .xor, _ => a ^^^ b

/-- The result of a reduction with no active lane (R227). -/
def identity (op : ScanOp) (ty : CmpTy) : Word :=
  match op, ty with
  | .min, .f32 => f32Nan
  | .max, .f32 => f32Nan
  | .min, .i32 => 0x7FFFFFFF
  | .max, .i32 => 0x80000000
  | .min, .n32 => 0xFFFFFFFF
  | .and, _ => 0xFFFFFFFF
  | _, _ => 0

/-- Whether a Combine rounds, and so steps a generator under SR (R201, R225). -/
def combineRounds (op : ScanOp) (ty : CmpTy) : Bool := op == .add && ty == .f32

/-- One Combine with the generator of a lane. -/
def combineAt (op : ScanOp) (ty : CmpTy) (rm : Rm) (t : Token) (l : Nat) (a b : Word) (w : Work) : Work × Word :=
  let (w, u) := if combineRounds op ty then drawFor rm t l w else (w, 0)
  (w, combine op ty rm u a b)

/-! ## Reduction (R206, R226) -/

/-- A node of the tree: its lowest active lane and its value, or Absent. -/
abbrev Node := Option (Nat × Word)

/-- One level of the tree of R206. -/
def treeLevel (op : ScanOp) (ty : CmpTy) (rm : Rm) (t : Token) : List Node → Work → Work × List Node
  | a :: b :: rest, w =>
    let (w, n) : Work × Node := match a, b with
      | none, b => (w, b)
      | a, none => (w, a)
      | some (l, x), some (_, y) =>
        let (w, v) := combineAt op ty rm t l x y w
        (w, some (l, v))
    let (w, ns) := treeLevel op ty rm t rest w
    (w, n :: ns)
  | l, w => (w, l)

/-- The levels of the tree. -/
def treeReduce (op : ScanOp) (ty : CmpTy) (rm : Rm) (t : Token) : Nat → List Node → Work → Work × Node
  | 0, ns, w => (w, (ns.head?).getD none)
  | k + 1, ns, w =>
    let (w, ns) := treeLevel op ty rm t ns w
    treeReduce op ty rm t k ns w

/-- The reduction of one half: its value, or none with no active lane. -/
def reduceHalf (op : ScanOp) (ty : CmpTy) (rm : Rm) (t : Token) (a : VVal) (act : Word) (half : List Nat) (w : Work) :
    Work × Option Word :=
  let (w, n) := treeReduce op ty rm t 5 (half.map fun l => if act.getLsbD l then some (l, a.get l) else none) w
  (w, n.map (·.2))

/-- Active inputs of a half that are poisoned, by their register or by the guard (R211). -/
def poisonedIn (x : LaneCx) (c : Ctl) (a : VVal) (act : Word) (half : List Nat) : List Nat :=
  half.filter fun l => act.getLsbD l && (a.poison ||| x.guardPoison c).getLsbD l

/-- VRED (R206, R208, R226). -/
def execVred (c : Ctl) (d : VReg) (a : Src) (op : ScanOp) (ty : CmpTy) (rm : Rm) (s : State) :
    Host.Outcome State Fault Refusal :=
  laneWork s (.vred c d a op ty rm) c fun x act w =>
    let va := x.src a
    let old := w.vreg d.val
    let one (p : Work × VVal) (half : List Nat) : Work × VVal :=
      let (w, r) := reduceHalf op ty rm x.cursor.token va act half p.1
      let bad := half.any fun l => act.getLsbD l && va.poison.getLsbD l
      let m := bitsFrom fun l => half.contains l && act.getLsbD l
      (w, p.2.write ⟨Vector.replicate 32 (r.getD 0), (if bad then m else 0) ||| x.guardPoison c⟩ m)
    let (w, v) := x.halves.foldl one (w, old)
    w.setV d.val v

/-- A value goes to the return queue, which must have room (R69, R72, R134). -/
def pushRet (x : LaneCx) (v : Word) : M Unit := do
  need (decide (x.g.work.retq.length < Config.retqSize))
  let n ← fresh
  modWork x.gid x.g.level fun w => { w with retq := w.retq ++ [⟨n, x.cursor.token.seq, v⟩] }

/-- PAIR faults of lanes 0 to 15 that a test picks, with the two halves' values (R299, R311). -/
def pairFaults (bad : Nat → Bool) (lo hi : Nat → Word) : List (Nat × XFault) :=
  ((List.range 16).filter bad).map fun l => (l, ⟨Cls.pair, 0, 0, hi l ++ lo l⟩)

/-- VREDS (R72, R227, R311). -/
def execVreds (c : Ctl) (a : Src) (op : ScanOp) (ty : CmpTy) (rm : Rm) (s : State) : Host.Outcome State Fault Refusal :=
  laneM s (.vreds c a op ty rm) c fun x act => do
    need (decide (x.g.work.retq.length < Config.retqSize))
    let va := x.src a
    match poisonedIn x c va act (upFrom 0 32) with
    | l :: ls => throw (.faults ((l :: ls).map fun l => (l, ⟨Cls.poison, 0, 0, 0⟩)))
    | [] =>
      let t := x.cursor.token
      let (w, rs) := x.halves.foldl (fun (p : Work × List Word) half =>
        let (w, r) := reduceHalf op ty rm t va act half p.1
        (w, p.2 ++ [r.getD (identity op ty)])) (x.g.work, [])
      match rs with
      | [lo, hi] =>
        orFault (activePairs act)
        orFault (pairFaults (fun l => l == 0 && lo != hi) (fun _ => lo) fun _ => hi)
      | _ => pure ()
      modWork x.gid x.g.level fun _ => w
      pushRet x ((rs.head?).getD 0)

/-- VBAL (R72, R228, R311). -/
def execVbal (c : Ctl) (q : QReg) (s : State) : Host.Outcome State Fault Refusal :=
  laneM s (.vbal c q) c fun x act => do
    need (decide (x.g.work.retq.length < Config.retqSize))
    let k := x.g.work.qreg q
    match lanesOf (act &&& (k.poison ||| x.guardPoison c)) with
    | l :: ls => throw (.faults ((l :: ls).map fun l => (l, ⟨Cls.poison, 0, 0, 0⟩)))
    | [] =>
      let r := act &&& k.bits
      if x.paired then
        let bit (l : Nat) : Word := if r.getLsbD l then 1 else 0
        orFault (activePairs act)
        orFault (pairFaults (fun l => bit l != bit (l + 16)) bit fun l => bit (l + 16))
        pushRet x (r &&& 0xFFFF)
      else pushRet x r

/-! ## Scan (R207, R225) -/

/-- The lane whose generator a Combine at a position uses: the lowest active lane at or above it in its half. -/
def scanLane (act : Word) (half : List Nat) (l : Nat) : Option Nat := half.find? fun k => decide (l ≤ k) && act.getLsbD k

/-- One step of R207 at distance `d`, from the values before it, for the positions listed. -/
def scanStep (op : ScanOp) (ty : CmpTy) (rm : Rm) (t : Token) (act : Word) (half : List Nat) (base d : Nat)
    (y : Nat → Option Word) : List Nat → Work → Work × List (Nat × Option Word)
  | [], w => (w, [])
  | l :: ls, w =>
    let (w, v) : Work × Option Word :=
      if l < base + d then (w, y l)
      else match y (l - d), y l with
        | none, b => (w, b)
        | a, none => (w, a)
        | some a, some b => match scanLane act half l with
          | none => (w, some b)
          | some k =>
            let (w, r) := combineAt op ty rm t k a b w
            (w, some r)
    let (w, vs) := scanStep op ty rm t act half base d y ls w
    (w, (l, v) :: vs)

/-- The value of a position in a list of values. -/
def valueAt (vs : List (Nat × Option Word)) (l : Nat) : Option Word := ((vs.find? (·.1 == l)).map (·.2)).getD none

/-- The steps of a scan of one half. -/
def scanHalf (op : ScanOp) (ty : CmpTy) (rm : Rm) (t : Token) (a : VVal) (act : Word) (half : List Nat) (w : Work) :
    Work × List (Nat × Option Word) :=
  [1, 2, 4, 8, 16].foldl (fun (p : Work × List (Nat × Option Word)) d =>
      scanStep op ty rm t act half ((half.head?).getD 0) d (valueAt p.2) half p.1)
    (w, half.map fun l => (l, if act.getLsbD l then some (a.get l) else none))

/-- VSCAN (R207, R208, R225). -/
def execVscan (c : Ctl) (d : VReg) (a : Src) (op : ScanOp) (ty : CmpTy) (rm : Rm) (s : State) :
    Host.Outcome State Fault Refusal :=
  laneWork s (.vscan c d a op ty rm) c fun x act w =>
    let va := x.src a
    let (w, vs) := x.halves.foldl (fun (p : Work × List (Nat × Option Word)) half =>
      let (w, r) := scanHalf op ty rm x.cursor.token va act half p.1
      (w, p.2 ++ r)) (w, [])
    let bad := bitsFrom fun l => x.halves.any fun half => half.contains l && half.any fun k =>
      decide (k ≤ l) && act.getLsbD k && va.poison.getLsbD k
    w.setV d.val ((w.vreg d.val).write
      ⟨Vector.ofFn fun l : Fin 32 => (valueAt vs l.val).getD 0, bad ||| x.guardPoison c⟩ act)

/-! ## Top-k insertion (R229) -/

/-- An entry of a lane's list. -/
structure TopEntry where
  score : Word
  index : Word
  poison : Bool × Bool
deriving DecidableEq, Repr

/-- The index of an empty entry. -/
def topEmpty : Word := 0xFFFFFFFF

/-- Entry x ranks above entry y (R229). -/
def topAbove (x y : TopEntry) : Bool := f32Lt y.score x.score || (f32Eq x.score y.score && decide (x.index.toNat < y.index.toNat))

/-- The list after the duplicate is taken out: entries below it move up and an empty entry stands last. -/
def topRemove (e : List TopEntry) (j : Nat) : List TopEntry :=
  e.take j ++ e.drop (j + 1) ++ [⟨0xFF800000, topEmpty, (false, false)⟩]

/-- The list after an insertion at place `j`, the last entry dropped. -/
def topInsert (e : List TopEntry) (j : Nat) (x : TopEntry) : List TopEntry := (e.take j ++ x :: e.drop j).dropLast

/-- A lane's list after a candidate (R229). An entry that is written carries its own poison, the candidate's, and that of
the entries from the top to its place (log 31). -/
def topStep (e : List TopEntry) (x : TopEntry) : List TopEntry :=
  if isNan x.score || x.index == topEmpty then e
  else
    let dup := (List.range e.length).find? fun j => match e[j]? with
      | some y => y.index == x.index && y.index != topEmpty
      | none => false
    let base : Option (List TopEntry) := match dup with
      | none => some e
      | some j => match e[j]? with
        | some y => if f32Lt y.score x.score then some (topRemove e j) else none
        | none => none
    match base with
    | none => e
    | some b =>
      let at_ := ((List.range b.length).find? fun j => match b[j]? with
        | some y => topAbove x y
        | none => false).getD b.length
      let lo := min at_ (dup.getD at_)
      let hi := max at_ (dup.getD e.length)
      (topInsert b at_ x).mapIdx fun j y =>
        if j < lo ∨ hi < j then y
        else
          let p := (x :: y :: e.take (j + 1)).any fun y => y.poison.1 || y.poison.2
          { y with poison := (p, p) }

/-- VTOPK (R229). -/
def execVtopk (c : Ctl) (d : VReg) (a b : Src) (k : BitVec 4) (s : State) : Host.Outcome State Fault Refusal :=
  laneWork s (.vtopk c d a b k) c fun x act w =>
    let va := x.src a
    let vb := x.src b
    let n := k.toNat + 1
    let gp := x.guardPoison c
    let list (l : Nat) : List TopEntry := (List.range n).map fun j =>
      let sc := w.vreg (d.val + j)
      let ix := w.vreg (d.val + n + j)
      ⟨sc.get l, ix.get l, (sc.poison.getLsbD l, ix.poison.getLsbD l)⟩
    (lanesOf act).foldl (fun w l =>
      let old := list l
      let g := gp.getLsbD l
      let new := topStep old ⟨va.get l, vb.get l, (va.poison.getLsbD l || g, vb.poison.getLsbD l || g)⟩
      (List.range n).foldl (fun w j => match new[j]?, old[j]? with
        | some e, some o =>
          if e = o then w
          else
            let w := w.setV (d.val + j) ((w.vreg (d.val + j)).setLane l e.score e.poison.1)
            w.setV (d.val + n + j) ((w.vreg (d.val + n + j)).setLane l e.index e.poison.2)
        | _, _ => w) w) w

/-! ## LEND and VNOP (R129, R232) -/

/-- LEND: ends the trip; after the last the token retires. The next trip starts at the first instruction of the block
(R129), and with it the record of registers written since the block began (R292, log 30). -/
def execLend (s : State) : Host.Outcome State Fault Refusal :=
  match laneAt s with
  | none => .next s
  | some x => .next ((afterLane s x).updGroup x.gid fun g =>
      let c := x.cursor
      let next : Option Cursor := if c.trips = 1 then none else match c.start with
        | none => none
        | some p => some { c with trips := c.trips - 1, pc := p, wrote := [] }
      { g with work := g.work.setCursor x.cur next })

/-- VNOP: only its wait (R232). -/
def execVnop (wait : Option (Counter × BitVec 2)) (s : State) : Host.Outcome State Fault Refusal :=
  laneWork s (.vnop wait) ⟨none, wait⟩ fun _ _ w => w

end Sys2Proof.Machine
end

