-- ==== Sys2Proof/Machine/Access.lean ====
section
/-!
DEFINITION. Accesses between their ISSUE and the move that performs them: their order, the bytes they cover, making
entries, and delivering data (R63, R68, R73 to R75, R90, R233 to R237, R311).
-/
namespace Sys2Proof.Machine

/-! ## Order of accesses (R68, R92) -/

/-- One access of a group is older than another. In the lane stream a token's place comes first; between the streams a
lane access stands at the PUSH of its token (R68, R92). Work of an earlier level was issued first. -/
def Access.older (a b : Access) : Bool :=
  if a.level ≠ b.level then decide (a.seq < b.seq)
  else match a.stream, b.stream with
    | .arm, .arm => decide (a.seq < b.seq)
    | .lane, .lane => decide (a.key < b.key) || (a.key == b.key && decide (a.seq < b.seq))
    | .arm, .lane => decide (a.seq < b.key)
    | .lane, .arm => decide (a.key < b.seq)

/-- The oldest of a list of entries. -/
def oldest? {α : Type} (f : α → Access) : List α → Option α
  | [] => none
  | a :: l => match oldest? f l with
    | none => some a
    | some b => if (f b).older (f a) then some b else some a

/-- An entry of acquire order. -/
def Access.acquires (a : Access) : Bool := a.order == .acq || a.order == .ar

/-- An entry of release order. -/
def Access.releases (a : Access) : Bool := a.order == .rel || a.order == .ar

/-- No older access of the stream with acquire order is unperformed (R69). In the lane stream `key` is the place of the
token at issue. -/
def Group.acquireFree (g : Group) (st : Stream) (key : Nat) : Bool :=
  let holds (a : Access) : Bool := a.level == g.level && a.stream == st && decide (a.key ≤ key) && a.acquires
  g.loads.all (fun e => !holds e.acc) && g.stores.all fun e => !holds e.acc

/-! ## Bytes an entry covers -/

/-- The address spaces of entries: physical bytes and the team's scratchpad. -/
def LoadEntry.inScratch (e : LoadEntry) : Bool := e.kind == .scratch
def StoreEntry.inScratch (e : StoreEntry) : Bool := e.kind == .scratch

/-- Byte addresses that a load reads. -/
def LoadEntry.addrs (e : LoadEntry) : List Nat := e.elems.flatMap fun x => upFrom x.pa x.n

/-- Bytes of one element of a store-queue entry. -/
def StoreEntry.width (e : StoreEntry) (x : SElem) : Nat := match e.kind with
  | .atomic _ n _ => n
  | .unlock => 0
  | _ => x.data.length

/-- Byte addresses that an entry writes. -/
def StoreEntry.addrs (e : StoreEntry) : List Nat := e.elems.flatMap fun x => upFrom x.pa (e.width x)

/-- The byte an entry gives an address: that of its highest lane (R236). -/
def StoreEntry.byteAt? (e : StoreEntry) (a : Nat) : Option Byte :=
  e.elems.foldl (fun r x => if x.pa ≤ a ∧ a < x.pa + x.data.length then x.data[a - x.pa]? else r) none

/-- Two entries of the store queue overlap. -/
def StoreEntry.overlaps (e f : StoreEntry) : Bool := e.inScratch == f.inScratch && e.addrs.any f.addrs.contains

/-- The line of an entry, if it has bytes. -/
def LoadEntry.line? (e : LoadEntry) : Option Nat := e.elems.head?.map fun x => lineOf x.pa
def StoreEntry.line? (e : StoreEntry) : Option Nat := e.elems.head?.map fun x => lineOf x.pa

/-! ## Registers written by arriving data -/

/-- Changes a vector register when data arrives: the cached copy, or the image of an elastic group whose register is not
cached (R292). The block that runs counts it as written. -/
def Work.arrive (w : Work) (r : Nat) (f : VVal → VVal) : Work :=
  if !w.elastic then w.setV r (f (w.vreg r))
  else
    let note (c : Option Cursor) : Option Cursor := c.map fun c => { c with wrote := dedup (r :: c.wrote) }
    let w := { w with cur0 := note w.cur0, cur1 := note w.cur1 }
    if w.cached.contains r then w.setV r (f (w.vreg r))
    else { w with image := Tab.put w.image r (f (Tab.get w.image r VVal.zero)) }

/-- The lanes that data for lane `l` reaches (R311). -/
def Access.lanes (a : Access) (l : Nat) : List Nat := if a.pair then [l, l + 16] else [l]

/-- Placement of R235: an element's bytes in the registers from `d` on. -/
def placeElem (w : Work) (lanes : List Nat) (d : Nat) (signed : Bool) (bs : List Byte) (poison : Bool) : Work :=
  let n := bs.length
  let v := leVal bs
  let one (w : Work) (i : Nat) : Work :=
    let x : Word :=
      if n < 4 then
        let x := BitVec.ofNat 32 v
        if signed then (if n = 1 then (x.setWidth 8).signExtend 32 else (x.setWidth 16).signExtend 32) else x
      else BitVec.ofNat 32 (v / 2 ^ (32 * i))
    w.arrive (d + i) fun r => lanes.foldl (fun r l => r.setLane l x poison) r
  (List.range ((n + 3) / 4)).foldl one w

/-- Data reaches its destination. -/
def deliver (w : Work) (a : Access) (dest : Dest) (lane : Nat) (bs : List Byte) (poison : Bool) : Work :=
  match dest with
  | .sreg d signed =>
    let v := BitVec.ofNat (8 * bs.length) (leVal bs)
    w.setS d (if signed then v.signExtend 64 else v.setWidth 64)
  | .vreg d signed => placeElem w (a.lanes lane) d signed bs poison

/-! ## An entry performs -/

/-- The counter of an instruction falls when its last entry has performed (R90, R234). -/
def settle (gid : Nat) (a : Access) : M Unit := do
  let g ← theGroup gid
  if g.loads.any (·.acc.iseq == a.iseq) || g.stores.any (·.acc.iseq == a.iseq) then pure ()
  else match a.counter with
    | none => pure ()
    | some k => modWork gid a.level (·.lower k)

/-- A load-point entry has performed. -/
def loadDone (gid : Nat) (e : LoadEntry) : M Unit := do
  modGroup gid fun g => { g with loads := g.loads.filter (·.acc.seq != e.acc.seq) }
  settle gid e.acc

/-- A store-queue entry has performed. -/
def storeDone (gid : Nat) (e : StoreEntry) : M Unit := do
  modGroup gid fun g => { g with stores := g.stores.filter (·.acc.seq != e.acc.seq) }
  settle gid e.acc

/-- Records of faults found when an entry performs: one per lane in ascending order (R237). Those of one instruction come entry by
entry, by line (log 121). -/
def performRecs (a : Access) (l : List (Nat × XFault)) : List Rec :=
  recsOf a.pc (BitVec.ofNat 32 a.word) (if a.stream = .arm then 0 else if a.cur then 2 else 1) (a.stream == .lane) l

/-- The faults of elements whose line has no home to serve it (R14, R61). -/
def placeFaults (s : State) (l : List (Nat × DWord × Nat)) : List (Nat × XFault) :=
  l.filterMap fun (lane, va, pa) => (placeFault va pa (s.place pa)).map fun f => (lane, f)

/-! ## Making entries -/

/-- What an instruction gives every entry it makes. -/
structure Maker where
  iseq   : Nat
  stream : Stream
  key    : Nat
  level  : Nat
  scope  : Scope
  order  : Order
  pc     : DWord
  word   : Nat
  cur    : Bool
  counter : Option Counter
  pair   : Bool
deriving DecidableEq, Repr

/-- An access of an instruction. -/
def Maker.access (m : Maker) (seq : Nat) (cls : CClass) (pts : Time) : Access :=
  { seq, key := m.key, iseq := m.iseq, stream := m.stream, level := m.level, scope := m.scope, order := m.order, cls
    pts, pc := m.pc, word := m.word, cur := m.cur, counter := m.counter, pair := m.pair }

/-- What an instruction of the Armature stream gives its entry. -/
def armMaker (s : State) (g : Group) (iseq : Nat) (scope : Scope) (order : Order) : Maker :=
  { iseq, stream := .arm, key := 0, level := g.level, scope, order, pc := g.work.pc, word := s.focus.word, cur := false
    counter := none, pair := false }

/-- What a lane instruction gives its entries. -/
def laneMaker (s : State) (x : LaneCx) (iseq : Nat) (scope : Scope) (order : Order) (k : Counter) : Maker :=
  { iseq, stream := .lane, key := x.cursor.token.seq, level := x.g.level, scope, order, pc := x.cursor.pc
    word := s.focus.word / 2 ^ 64, cur := x.cur, counter := some k, pair := x.paired }

/-- Appends to the load point. -/
def pushLoad (gid : Nat) (m : Maker) (cls : CClass) (pts : Time) (kind : LoadKind) (elems : List Elem) (dest : Dest) :
    M Unit := do
  let n ← fresh
  modGroup gid fun g => { g with loads := g.loads ++ [⟨m.access n cls pts, kind, elems, dest⟩] }

/-- ENQUEUE (R74). -/
def pushStore (gid : Nat) (m : Maker) (cls : CClass) (pts : Time) (kind : StoreKind) (elems : List SElem) : M Unit := do
  let n ← fresh
  modGroup gid fun g => { g with stores := g.stores ++ [⟨m.access n cls pts, kind, elems⟩] }

/-- A lane's translated access. -/
structure LaneAcc where
  lane : Nat
  va   : DWord
  x    : Xlat
deriving DecidableEq, Repr

/-- The lines that lanes touch, in ascending order, each with its lanes (R90). -/
def byLine (l : List LaneAcc) : List (Nat × List LaneAcc) :=
  (sortNat (dedup (l.map fun a => lineOf a.x.pa))).map fun n => (n, l.filter fun a => lineOf a.x.pa == n)

/-- The translation pts of an entry: the earliest of its lanes'. -/
def entryPts : List LaneAcc → Time
  | [] => 0
  | a :: l => l.foldl (fun t b => serialMin t b.x.pts) a.x.pts

/-- The class of an entry: that of its first lane, where lanes reach the line through pages of different classes (log 115). -/
def entryCls (l : List LaneAcc) : CClass := (l.head?.map (·.x.cls)).getD .dev

/-! ## Checks of a lane memory instruction (R233) -/

/-- What R233 checks for one access. -/
structure Check where
  right : Right
  scope : Option Scope
  align : Nat
  ro    : Bool
  lock  : Bool
deriving DecidableEq, Repr

/-- Rows 2 to 7 of R233 for one lane. -/
def checkLane (core ctx : Nat) (k : Check) (poisoned : Bool) (va : DWord) : M (Except XFault Xlat) := do
  if poisoned then pure (.error ⟨Cls.poison, 0, va, 0⟩)
  else if va.toNat % k.align ≠ 0 then pure (.error ⟨Cls.align, 0, va, 0⟩)
  else accessAt core ctx va k.right k.scope k.ro k.lock

/-- Runs a check in each lane; if any lane fails, every failing lane's fault is raised (R233). -/
def eachLane {α : Type} (f : Nat → M (Except XFault α)) : List Nat → List α → List (Nat × XFault) → M (List α)
  | [], ok, [] => pure ok
  | [], _, bad => throw (.faults bad)
  | l :: ls, ok, bad => do
    match ← f l with
    | .ok a => eachLane f ls (ok ++ [a]) bad
    | .error x => eachLane f ls ok (bad ++ [(l, x)])

/-- The lanes that access, and in paired mode the compare point of R311: activity, then poison, then the words of the
address and of the data in turn (log 34). -/
def pairedFault (x : LaneCx) (act poison : Word) (words : Nat → List Word) (va : Nat → DWord) (l : Nat) : Option XFault :=
  if !x.paired then none
  else if act.getLsbD l != act.getLsbD (l + 16) then
    some ⟨Cls.pair, 0, va l, bitWord act (l + 16) ++ bitWord act l⟩
  else if poison.getLsbD l || poison.getLsbD (l + 16) then some ⟨Cls.poison, 0, va l, 0⟩
  else ((words l).zip (words (l + 16))).find? (fun (a, b) => a != b) |>.map fun (a, b) => ⟨Cls.pair, 0, va l, b ++ a⟩

/-- The lanes whose accesses are made: all active lanes, or in paired mode the lower lane of each active pair. -/
def LaneCx.accessLanes (x : LaneCx) (act : Word) : List Nat :=
  if x.paired then (List.range 16).filter fun l => act.getLsbD l || act.getLsbD (l + 16) else lanesOf act

/-- The low and high word of an address. -/
def addrWords (a : DWord) : List Word := [a.setWidth 32, a.extractLsb' 32 32]

/-- Every lane's access, checked; `data` gives the words of a lane's data, `poison` the lanes whose address or data is
poisoned, and `more` what an instruction checks besides. -/
def laneChecked (x : LaneCx) (act : Word) (k : Check) (poison : Word) (addr : Nat → DWord) (data : Nat → List Word)
    (more : State → LaneAcc → Option XFault) : M (List LaneAcc) :=
  eachLane (fun l => do
    match pairedFault x act poison (fun l => addrWords (addr l) ++ data l) addr l with
    | some f => pure (.error f)
    | none => match ← checkLane x.g.core x.g.ctx k (poison.getLsbD l) (addr l) with
      | .error f => pure (.error f)
      | .ok t => match more (← get) ⟨l, addr l, t⟩ with
        | some f => pure (.error f)
        | none => pure (.ok ⟨l, addr l, t⟩)) (x.accessLanes act) [] []

/-- The same, with nothing else to check. -/
def laneAccesses (x : LaneCx) (act : Word) (k : Check) (poison : Word) (addr : Nat → DWord) (data : Nat → List Word) :
    M (List LaneAcc) := laneChecked x act k poison addr data fun _ _ => none

end Sys2Proof.Machine
end

