-- ==== Sys2Proof/Machine/ArmMem.lean ====
section
/-!
DEFINITION. Issue of the Armature's own accesses: SLD, SST, SAMO, ROINV (R109, R233, R237 to R240).
-/
namespace Sys2Proof.Machine

/-- The checks of R233 for an Armature access. -/
def armAccess (g : Group) (k : Check) (va : DWord) : M Xlat := do
  need (g.acquireFree .arm 0)
  match ← checkLane g.core g.ctx k false va with
  | .ok x => pure x
  | .error f => throw (.faults [(0, f)])

/-- SLD: appends to the load point (R73, R238). -/
def execSld (d a : SReg) (sz : Size) (sc : Scope) (od : Order) (imm : BitVec 7) (s : State) :
    Host.Outcome State Fault Refusal :=
  armM s fun gid g => do
    let va := g.work.sreg a + imm.signExtend 64 * BitVec.ofNat 64 sz.bytes
    let x ← armAccess g ⟨.load, some sc, sz.bytes, false, false⟩ va
    let n ← fresh
    pushLoad gid (armMaker s g n sc od) x.cls x.pts .load [⟨0, va, x.pa, sz.bytes, false⟩] (.sreg d false)
    nextPc gid g.level

/-- SST: enqueues the low bytes of sb (R74, R238). -/
def execSst (b a : SReg) (sz : Size) (sc : Scope) (od : Order) (imm : BitVec 7) (s : State) :
    Host.Outcome State Fault Refusal :=
  armM s fun gid g => do
    let va := g.work.sreg a + imm.signExtend 64 * BitVec.ofNat 64 sz.bytes
    let x ← armAccess g ⟨.store, some sc, sz.bytes, false, false⟩ va
    let n ← fresh
    pushStore gid (armMaker s g n sc od) x.cls x.pts .store
      [⟨0, va, x.pa, leBytesOf sz.bytes (g.work.sreg b).toNat, 0, 0, false⟩]
    nextPc gid g.level

/-- The bytes a SAMO acts on (R109). -/
def samoBytes (op : AtomOp) : Nat := if op = .fadd ∨ op = .bfadd then 4 else 8

/-- SAMO: enqueues an atomic; sd supplies the compare value of CAS (R109, R239). -/
def execSamo (d a b : SReg) (op : AtomOp) (sc : Scope) (od : Order) (s : State) : Host.Outcome State Fault Refusal :=
  armM s fun gid g => do
    let va := g.work.sreg a
    let x ← armAccess g ⟨.store, some sc, samoBytes op, false, false⟩ va
    let n ← fresh
    pushStore gid (armMaker s g n sc od) x.cls x.pts (.atomic op (samoBytes op) (some (.sreg d false)))
      [⟨0, va, x.pa, [], g.work.sreg b, g.work.sreg d, false⟩]
    nextPc gid g.level

/-- ROINV: empties the core's read-only view (R240). -/
def execRoinv (s : State) : Host.Outcome State Fault Refusal :=
  armM s fun gid g => do
    modCore g.core ({ · with ro := [] })
    nextPc gid g.level

end Sys2Proof.Machine
end

