-- ==== Sys2Proof/Machine/LaneMem.lean ====
section
/-!
DEFINITION. Issue of the lane memory instructions other than locks, launches and MDST (R233 to R245).
-/
namespace Sys2Proof.Machine

/-- LaneAddress of R235 in each lane. -/
def LaneCx.memAddr (x : LaneCx) (m : MemOp) (l : Nat) : DWord :=
  x.address m.pair m.va (m.off.signExtend 64) (Fin.ofNat 32 l)

/-- The address of VATOM and VREDM, whose offset has 21 bits (R110). -/
def LaneCx.atomAddr (x : LaneCx) (m : AtomMem) (l : Nat) : DWord :=
  x.address m.pair m.va (m.off.signExtend 64) (Fin.ofNat 32 l)

/-- The registers that supply a store's data (R235). -/
def LaneCx.dataVals (x : LaneCx) (v : Src) (sz : Size) : List VVal :=
  if sz.regs = 1 then [x.src v] else (srcBlock v sz.regs).map x.g.work.vreg

/-- The bytes a lane stores (R235). -/
def laneBytes (vals : List VVal) (n l : Nat) : List Byte :=
  (vals.flatMap fun v => leBytesOf 4 (v.get l).toNat).take n

/-- Poison of any of several registers. -/
def poisonOf (vals : List VVal) : Word := vals.foldl (fun p v => p ||| v.poison) 0

/-- The preconditions of R69 on a lane access: room on its counter, and no older acquire of its stream. -/
def laneReady (x : LaneCx) (k : Counter) : M Unit :=
  need (counterRoom x.g.work k && x.g.acquireFree .lane x.cursor.token.seq)

/-- One load-point entry per line, or one with no bytes if no lane is active (R70, R90). -/
def makeLoads (x : LaneCx) (m : Maker) (kind : LoadKind) (n : Nat) (gp : Word) (d : VReg) (sx : Bool) (l : List LaneAcc) :
    M Unit := do
  let dest : Dest := .vreg d.val sx
  match byLine l with
  | [] => pushLoad x.gid m .dev ((← get).core x.g.core).pts kind [] dest
  | lines => each lines fun (_, as) =>
      pushLoad x.gid m (entryCls as) (entryPts as) kind (as.map fun a => ⟨a.lane, a.va, a.x.pa, n, gp.getLsbD a.lane⟩) dest

/-- One store-queue entry per line, or one with no bytes if no lane is active (R70, R90). -/
def makeStores (x : LaneCx) (m : Maker) (kind : StoreKind) (l : List LaneAcc) (elem : LaneAcc → SElem) : M Unit := do
  match byLine l with
  | [] => pushStore x.gid m .dev ((← get).core x.g.core).pts kind []
  | lines => each lines fun (_, as) => pushStore x.gid m (entryCls as) (entryPts as) kind (as.map elem)

/-! ## VLD, VST, VLDRO, VPF (R241 to R243) -/

/-- A lane load through translation. -/
def laneLoad (x : LaneCx) (c : Ctl) (act : Word) (d : VReg) (m : MemOp) (sz : Size) (sx : Bool) (kind : LoadKind)
    (scope : Scope) (k : Check) (order : Order) : M Unit := do
  laneReady x .ldc
  let l ← laneAccesses x act k (x.src m.va).poison (x.memAddr m) fun _ => []
  let n ← fresh
  modWork x.gid x.g.level (·.raise .ldc)
  makeLoads x (laneMaker (← get) x n scope order .ldc) kind sz.bytes (x.guardPoison c) d sx l

/-- VLD (R241). -/
def execVld (c : Ctl) (d : VReg) (m : MemOp) (sz : Size) (sx : Bool) (sc : Scope) (od : Order) (s : State) :
    Host.Outcome State Fault Refusal :=
  laneM s (.vld c d m sz sx sc od) c fun x act =>
    laneLoad x c act d m sz sx .load sc ⟨.load, some sc, sz.bytes, false, false⟩ od

/-- VLDRO (R54, R242). -/
def execVldro (c : Ctl) (d : VReg) (m : MemOp) (sz : Size) (sx : Bool) (s : State) : Host.Outcome State Fault Refusal :=
  laneM s (.vldro c d m sz sx) c fun x act =>
    laneLoad x c act d m sz sx .readOnly .core ⟨.load, none, sz.bytes, true, false⟩ .rlx

/-- VST (R236, R241). -/
def execVst (c : Ctl) (m : MemOp) (v : Src) (sz : Size) (sc : Scope) (od : Order) (s : State) :
    Host.Outcome State Fault Refusal :=
  laneM s (.vst c m v sz sc od) c fun x act => do
    laneReady x .stc
    let vals := x.dataVals v sz
    let l ← laneAccesses x act ⟨.store, some sc, sz.bytes, false, false⟩ ((x.src m.va).poison ||| poisonOf vals)
      (x.memAddr m) fun l => vals.map (·.get l)
    let n ← fresh
    modWork x.gid x.g.level (·.raise .stc)
    makeStores x (laneMaker (← get) x n sc od .stc) .store l fun a =>
      ⟨a.lane, a.va, a.x.pa, laneBytes vals sz.bytes a.lane, 0, 0, false⟩

/-- The line of one lane of a VPF, with its class; `none` where R243 drops it. -/
def prefetchLane (x : LaneCx) (sc : Scope) (poison : Word) (addr : Nat → DWord) (l : Nat) : M (Option (Nat × CClass)) := do
  if poison.getLsbD l then pure none
  else match ← accessAt x.g.core x.g.ctx (addr l) .load (some sc) with
    | .error _ => pure none
    | .ok t =>
      if t.cls = .sys ∨ (← get).place t.pa ≠ .here then pure none else pure (some (lineOf t.pa, t.cls))

/-- The distinct lines of a VPF. -/
def prefetchLines (x : LaneCx) (sc : Scope) (poison : Word) (addr : Nat → DWord) :
    List Nat → List (Nat × CClass) → M (List (Nat × CClass))
  | [], acc => pure acc
  | l :: ls, acc => do
    match ← prefetchLane x sc poison addr l with
    | none => prefetchLines x sc poison addr ls acc
    | some a => prefetchLines x sc poison addr ls (if acc.any (·.1 == a.1) then acc else acc ++ [a])

/-- VPF (R243). -/
def execVpf (c : Ctl) (m : MemOp) (sc : Scope) (s : State) : Host.Outcome State Fault Refusal :=
  laneM s (.vpf c m sc) c fun x act => do
    need (x.g.acquireFree .lane x.cursor.token.seq)
    let lines ← prefetchLines x sc (x.src m.va).poison (x.memAddr m) (lanesOf act) []
    each lines fun (line, cls) => do
      if sc = .dev ∧ cls = .dev then let _ ← renew x.g.core x.g.ctx line
      else let _ ← readL1 x.g.core x.g.ctx line sc cls

/-! ## Scratchpad (R15, R244) -/

/-- A scratchpad address: a 33-bit sum, exact (R15). -/
def LaneCx.scratchAddr (x : LaneCx) (m : ScrOp) (l : Nat) : Int := ((x.src m.va).get l).toNat + m.off.toInt

/-- The checks of a scratchpad access in one lane (R15, R233). -/
def scratchLane (x : LaneCx) (scope : Scope) (n : Nat) (poison : Word) (addr : Nat → Int) (l : Nat) :
    Except XFault LaneAcc :=
  let a := addr l
  if poison.getLsbD l then .error ⟨Cls.poison, 0, 0, 0⟩
  else if a % n ≠ 0 then .error ⟨Cls.align, 0, 0, 0⟩
  else if a < 0 ∨ (x.packet.scratch : Int) < a + n then .error ⟨Cls.permission, 1, 0, BitVec.ofInt 64 a⟩
  else if scope = .dev ∨ scope = .sys then .error ⟨Cls.scope, 0, 0, 0⟩
  else .ok ⟨l, 0, ⟨a.toNat, 0, .dev, 0⟩⟩

/-- Every lane's scratchpad access, checked. -/
def scratchAccesses (x : LaneCx) (act : Word) (scope : Scope) (n : Nat) (poison : Word) (addr : Nat → Int)
    (data : Nat → List Word) : M (List LaneAcc) :=
  eachLane (fun l =>
    pure (match pairedFault x act poison (fun l => BitVec.ofInt 32 (addr l) :: data l) (fun _ => 0) l with
      | some f => .error f
      | none => scratchLane x scope n poison addr l)) (x.accessLanes act) [] []

/-- VSLD (R244). -/
def execVsld (c : Ctl) (d : VReg) (m : ScrOp) (sz : Size) (sx : Bool) (sc : Scope) (od : Order) (s : State) :
    Host.Outcome State Fault Refusal :=
  laneM s (.vsld c d m sz sx sc od) c fun x act => do
    laneReady x .ldc
    let l ← scratchAccesses x act sc sz.bytes (x.src m.va).poison (x.scratchAddr m) fun _ => []
    let n ← fresh
    modWork x.gid x.g.level (·.raise .ldc)
    makeLoads x (laneMaker (← get) x n .core od .ldc) .scratch sz.bytes (x.guardPoison c) d sx l

/-- VSST (R244). -/
def execVsst (c : Ctl) (m : ScrOp) (v : Src) (sz : Size) (sc : Scope) (od : Order) (s : State) :
    Host.Outcome State Fault Refusal :=
  laneM s (.vsst c m v sz sc od) c fun x act => do
    laneReady x .stc
    let vals := x.dataVals v sz
    let l ← scratchAccesses x act sc sz.bytes ((x.src m.va).poison ||| poisonOf vals) (x.scratchAddr m)
      fun l => vals.map (·.get l)
    let n ← fresh
    modWork x.gid x.g.level (·.raise .stc)
    makeStores x (laneMaker (← get) x n .core od .stc) .scratch l fun a =>
      ⟨a.lane, 0, a.x.pa, laneBytes vals sz.bytes a.lane, 0, 0, false⟩

/-! ## VATOM, VREDM (R110, R111, R245) -/

/-- An atomic of each active lane; CAS compares with what vd holds (R110), and a poisoned compare value raises POISON as its data do
(R245, log 120). -/
def laneAtomic (x : LaneCx) (c : Ctl) (act : Word) (d : Option VReg) (m : AtomMem) (v : Src) (op : AtomOp) (sc : Scope)
    (od : Order) (k : Counter) : M Unit := do
  laneReady x k
  let b := x.src v
  let cmp : VVal := match d with
    | some r => if op = .cas then x.g.work.vreg r.val else VVal.zero
    | none => VVal.zero
  let l ← laneAccesses x act ⟨.store, some sc, 4, false, false⟩ ((x.src m.va).poison ||| b.poison ||| cmp.poison)
    (x.atomAddr m) fun l => [b.get l, cmp.get l]
  let n ← fresh
  modWork x.gid x.g.level (·.raise k)
  makeStores x (laneMaker (← get) x n sc od k) (.atomic op 4 (d.map fun r => .vreg r.val false)) l fun a =>
    ⟨a.lane, a.va, a.x.pa, [], (b.get a.lane).setWidth 64, (cmp.get a.lane).setWidth 64, (x.guardPoison c).getLsbD a.lane⟩

/-- VATOM (R110, R245). -/
def execVatom (c : Ctl) (d : VReg) (m : AtomMem) (v : Src) (op : AtomOp) (sc : Scope) (od : Order) (s : State) :
    Host.Outcome State Fault Refusal :=
  laneM s (.vatom c d m v op sc od) c fun x act => laneAtomic x c act (some d) m v op sc od .ldc

/-- VREDM (R110, R245). -/
def execVredm (c : Ctl) (m : AtomMem) (v : Src) (op : AtomOp) (sc : Scope) (od : Order) (s : State) :
    Host.Outcome State Fault Refusal :=
  laneM s (.vredm c m v op sc od) c fun x act => laneAtomic x c act none m v op sc od .stc

end Sys2Proof.Machine
end

