-- ==== Sys2Proof/Machine/Locks.lean ====
section
/-!
DEFINITION. The line-lock queue: LKL, ULK, GRANT, RELEASE-LOCK, timeouts and the deadlock probe (R83, R112 to R123,
R246, R313, R334).
-/
namespace Sys2Proof.Machine

/-! ## Statuses (R114) -/

def Status.grant : Nat := 0
def Status.self : Nat := 1
def Status.quota : Nat := 2
def Status.timeout : Nat := 3
def Status.deadlock : Nat := 4
def Status.orphan : Nat := 5

/-! ## Requests -/

/-- The line a request waits on. -/
def LockReq.waitsOn (q : LockReq) : Option Nat := if q.joined && q.failed.isNone then q.lines[q.taken]? else none

/-- A request whose time has run out (R118). -/
def LockReq.expired (q : LockReq) : Bool :=
  match q.limit with
  | none => false
  | some t => q.failed.isNone && decide (0 < t) && decide (t ≤ q.ticks)

/-- Replaces a request of a group. -/
def setReq (gid : Nat) (q : LockReq) : M Unit :=
  modGroup gid fun g => { g with requests := g.requests.map fun r => if r.iseq = q.iseq then q else r }

/-- A request of a group, if it is still there. -/
def reqOf (gid iseq : Nat) : M (Option LockReq) := do
  pure (((← get).group? gid).bind fun g => g.requests.find? (·.iseq == iseq))

/-- Takes a request off the group: its load-point entry performs and LKC falls (R112, R303). -/
def closeReq (gid : Nat) (q : LockReq) : M Unit := do
  modGroup gid fun g =>
    { g with requests := g.requests.filter (·.iseq != q.iseq), loads := g.loads.filter (·.acc.iseq != q.iseq) }
  modWork gid q.level (·.lower .lkc)

/-- The status reaches every active lane of the request (R112, R114). -/
def writeStatus (gid : Nat) (q : LockReq) (v : Nat) : M Unit := do
  modWork gid q.level fun w => w.arrive q.dest fun r =>
    q.lanes.foldl (fun r l => r.setLane l.lane (BitVec.ofNat 32 v) l.gp) r
  closeReq gid q

/-- Lines taken by a request that fails pass on with no mark, its place in the queue goes, and USED falls (R116). -/
def unwindReq (gid : Nat) (q : LockReq) : M Unit := do
  let g ← theGroup gid
  if q.joined then
    each (q.lines.take q.taken) (freeLine g · false)
    each (q.lines.drop q.taken) fun l => modHome l fun h => { h with queue := h.queue.filter (· != gid) }
    modCtx g.ctx fun x => { x with used := x.used - q.lines.length }
    modGroup gid fun g => { g with locks := g.locks.filter fun h => !(q.lines.take q.taken).contains h.line }
  else pure ()

/-- A request fails: its status is written now, or when its group is present again (R116, R118). -/
def failReq (gid : Nat) (q : LockReq) (v : Nat) : M Unit := do
  unwindReq gid q
  if (← theGroup gid).queued then writeStatus gid q v
  else setReq gid { q with joined := true, taken := 0, lines := [], failed := some v }

/-- A request whose line has no home to serve it faults with no status (R14, R61, R313). -/
def faultReq (gid : Nat) (q : LockReq) (line : Nat) (p : Place) : M Unit := do
  unwindReq gid q
  closeReq gid q
  let l := (q.lanes.filter (·.line == line)).filterMap fun k => (placeFault k.va (line * 128) p).map fun f => (k.lane, f)
  raise gid q.level (recsOf q.pc (BitVec.ofNat 32 q.word) (if q.cur then 2 else 1) true l)

/-- No holder, and no present waiter in the queue (R118). -/
def State.lineFree (s : State) (line : Nat) : Bool :=
  let h := s.home line
  h.holder.isNone && !h.queue.any fun g => match s.group? g with
    | some x => x.queued
    | none => false

/-- Joins the queue of the line a request has come to (R116 step 3). With T = 0 it fails at once unless the line is free
(R118). -/
def joinLine (gid : Nat) (q : LockReq) : M Unit := do
  match q.waitsOn with
  | none => pure ()
  | some line =>
    let s ← get
    match s.place (line * 128) with
    | .here =>
      need (s.homeRoom line)
      let free := s.lineFree line
      modHome line fun h => { h with queue := h.queue ++ [gid] }
      if q.limit = some 0 ∧ !free then failReq gid q Status.timeout else pure ()
    | p => faultReq gid q line p

/-- Steps 1 to 3 of R116. A request whose time has run out before it joins fails with TIMEOUT (R118). -/
def joinReq (gid : Nat) (q : LockReq) : M Unit := do
  let g ← theGroup gid
  let x := (← get).ctx g.ctx
  if q.expired then failReq gid q Status.timeout
  else if q.lines.any fun l => g.locks.any (·.line == l) then writeStatus gid q Status.self
  else if x.quota < x.used + q.lines.length then writeStatus gid q Status.quota
  else
    modCtx g.ctx fun x => { x with used := x.used + q.lines.length }
    let q := { q with joined := true }
    setReq gid q
    joinLine gid q

/-- While no request of the group is in progress, the oldest one joins (R83, R117). One call serves a group whose oldest
requests end at once. -/
def joinNext : Nat → Nat → M Unit
  | 0, _ => pure ()
  | n + 1, gid => do
    match (← get).group? gid with
    | none => pure ()
    | some g =>
      if !g.queued || g.requests.any (·.joined) then pure ()
      else match g.requests with
        | [] => pure ()
        | q :: _ => do
          joinReq gid q
          joinNext n gid

/-- The same, as often as the group has requests. -/
def joinMore (gid : Nat) : M Unit := do joinNext ((((← get).group? gid).map (·.requests.length)).getD 0) gid

/-! ## LKL and ULK at issue (R112, R113, R246) -/

/-- The time limit that wT gives: 0xFFFF_FFFF is no limit (R112, R118). -/
def lockLimit (x : LaneCx) (t : Option WReg) : Option Nat :=
  match t with
  | none => none
  | some r =>
    let v := x.cursor.token.w[r.toNat]'(r.isLt)
    if v = 0xFFFFFFFF then none else some v.toNat

/-- LKL (R112, R114, R116, R117). -/
def execLkl (c : Ctl) (d : VReg) (m : MemOp) (t : Option WReg) (s : State) : Host.Outcome State Fault Refusal :=
  laneM s (.lkl c d m t) c fun x act => do
    laneReady x .lkc
    let l ← laneAccesses x act ⟨.store, some .dev, 1, false, true⟩ (x.src m.va).poison (x.memAddr m) fun _ => []
    let n ← fresh
    modWork x.gid x.g.level (·.raise .lkc)
    let mk := laneMaker (← get) x n .dev .rlx .lkc
    if l.isEmpty then pushLoad x.gid mk .dev ((← get).core x.g.core).pts .load [] (.vreg d.val false)
    else
      pushLoad x.gid mk .dev (entryPts l) .lock [] (.vreg d.val false)
      let lanes : List LockLane := l.flatMap fun a => (mk.access 0 .dev 0).lanes a.lane |>.map fun k =>
        ⟨k, a.va, lineOf a.x.pa, (x.guardPoison c).getLsbD k⟩
      let q : LockReq :=
        { iseq := n, seq := n, level := x.g.level, dest := d.val, lanes, lines := (byLine l).map (·.1), taken := 0
          joined := false, orphan := false, limit := lockLimit x t, failed := none, ticks := 0, partCycles := 0
          pc := mk.pc, word := mk.word, cur := mk.cur }
      modGroup x.gid fun g => { g with requests := g.requests ++ [q] }
      joinMore x.gid

/-- ULK (R113). -/
def execUlk (c : Ctl) (m : MemOp) (s : State) : Host.Outcome State Fault Refusal :=
  laneM s (.ulk c m) c fun x act => do
    laneReady x .stc
    need x.g.requests.isEmpty
    let l ← laneChecked x act ⟨.store, some .dev, 1, false, false⟩ (x.src m.va).poison (x.memAddr m) (fun _ => [])
      fun _ a => if x.g.locks.any (·.line == lineOf a.x.pa) then none else some ⟨Cls.permission, 3, a.va, 0⟩
    let n ← fresh
    modWork x.gid x.g.level (·.raise .stc)
    makeStores x (laneMaker (← get) x n .dev .rel .stc) .unlock l fun a => ⟨a.lane, a.va, a.x.pa, [], 0, 0, false⟩

/-! ## GRANT (R83, R116, R119, R121) -/

/-- The line stands owned, clean and pinned in core `c`'s L1, with the home data (R83, R120). It waits where every way of
the set holds another line (R45, R53). The answer is the line's wts. -/
def pinLine (c line : Nat) : M Time := do
  unblocked line
  leaveNoncoh c line
  clearOther c line
  match Tab.find? ((← get).core c).l1 line with
  | some ⟨.owned .., _⟩ => writebackRelease c line
  | _ => need (!((← get).core c).setFull line)
  let s ← get
  let h := s.home line
  need (h.owner.isNone || h.owner == some c)
  modHome line ({ · with owner := some c })
  modCore c fun k => { k with l1 := Tab.put k.l1 line ⟨.owned h.wts 0 true, s.homeData line⟩ }
  pure h.wts

/-- The first present waiter of a line (R119). -/
def State.firstWaiter (s : State) (line : Nat) : Option Nat :=
  (s.home line).queue.find? fun g => match s.group? g with
    | some x => x.queued
    | none => false

/-- GRANT of a line to the first present waiter (R83). A request whose time has run out is not granted; it fails (R118). -/
def execGrant (line : Nat) (s : State) : Host.Outcome State Fault Refusal :=
  moveStep s do
    let s ← get
    need (s.home line).holder.isNone
    match s.firstWaiter line with
    | none => waitM
    | some gid =>
      let g ← theGroup gid
      match g.requests.find? (·.waitsOn == some line) with
      | none => waitM
      | some q =>
        need (!q.expired)
        let w ← pinLine g.core line
        jump g.core w
        modify (·.event g.core g.ctx 0x08)
        let marked := ((← get).home line).orphan
        modHome line fun h => { h with holder := some gid, queue := h.queue.filter (· != gid), orphan := false }
        modGroup gid fun g => { g with locks := g.locks ++ [⟨line, true⟩] }
        let q := { q with taken := q.taken + 1, orphan := q.orphan || marked }
        if q.taken = q.lines.length then
          writeStatus gid q (if q.orphan then Status.orphan else Status.grant)
        else
          setReq gid q
          joinLine gid q
        joinMore gid

/-! ## Timeouts and the probe (R118, R122) -/

/-- LOCK_TIMEOUT: the oldest request of a group that has run out fails; a status that waited for the group to be present
is written (R118). -/
def execLockTimeout (gid : Nat) (s : State) : Host.Outcome State Fault Refusal :=
  moveStep s do
    let g ← theGroup gid
    match g.requests.find? (fun q => q.expired || (q.failed.isSome && g.queued)) with
    | none => waitM
    | some q =>
      match q.failed with
      | some v => writeStatus gid q v
      | none => failReq gid q Status.timeout
      joinMore gid

/-- The request a group waits with, and its line. One whose time has run out waits no longer (R118). -/
def State.waiting (s : State) (gid : Nat) : Option (LockReq × Nat) :=
  (s.group? gid).bind fun g => g.requests.findSome? fun q => if q.expired then none else q.waitsOn.map fun l => (q, l)

/-- The chain of R122 from a group: the requests met, if it returns to that group within eight groups. -/
def State.chain (s : State) (start : Nat) : Nat → Nat → List (Nat × LockReq) → Option (List (Nat × LockReq))
  | 0, _, _ => none
  | n + 1, gid, acc =>
    match s.waiting gid with
    | none => none
    | some (q, line) =>
      match (s.home line).holder with
      | none => none
      | some h => if h = start then some ((gid, q) :: acc) else s.chain start n h ((gid, q) :: acc)

/-- The record of a request that the probe takes out of its queue (R122, R299). It counts in no entry but one that its group has
begun, or a handler's next one (R295, R303). -/
def deadlockRec (g : Group) (q : LockReq) (line : Nat) : Rec :=
  let l := (q.lanes.find? (·.line == line)).getD ⟨0, 0, line, false⟩
  { va := l.va, aux := BitVec.ofNat 64 (line * 128), pc := q.pc, word := BitVec.ofNat 32 q.word, src := 4
    lane := BitVec.ofNat 5 l.lane, nest := q.level != 0, cls := Cls.deadlock, sub := 0, byLane := false, seq := q.seq
    alone := g.handler.isNone && g.hold != .vectoring }

/-- The probe of one waiting request. The record of the request that fails is written as soon as the loads before it have
performed (R302); the core that writes it is the one the group is on or, where it is absent, last ran on (log 98). While a
handler runs, it belongs to the group's next entry (R303). -/
def probe (gid : Nat) : M Unit := do
  let s ← get
  match s.chain gid 8 gid [] with
  | none => pure ()
  | some cycle =>
    match minOf? (fun (_, q) => s.nextSeq - q.seq) cycle with
    | none => pure ()
    | some (v, q) =>
      match q.waitsOn with
      | none => pure ()
      | some line =>
        failReq v q Status.deadlock
        modGroup v fun g => { g with faults := g.faults ++ [deadlockRec g q line] }
        modify (vectorNow 1 v)
        joinMore v

/-- DEADLOCK_PROBE: every 4,096 cycles, each waiting request (R122). The group of a request that fails is not vectored
(R295). -/
def execDeadlockProbe (s : State) : Host.Outcome State Fault Refusal :=
  moveStep s do
    let s ← get
    need (decide (s.probedAt + 4096 ≤ s.now))
    each (Tab.keys s.groups) fun gid => if (s.waiting gid).isSome then probe gid else pure ()
    modify fun s => { s with probedAt := s.now }

end Sys2Proof.Machine
end

