-- ==== Sys2Proof/Machine/Queues.lean ====
section
/-!
DEFINITION. Launch queues as LAUNCH, VLAUNCH, the doorbell and the scheduler see them (R135, R183, R230, R282, R327).
-/
namespace Sys2Proof.Machine

/-- A launch queue; one that is not listed is as after reset. -/
def State.queue (s : State) (q : Nat) : Queue := Tab.get s.queues q Queue.init

/-- Changes a queue. -/
def State.updQueue (s : State) (q : Nat) (f : Queue → Queue) : State := { s with queues := Tab.put s.queues q (f (s.queue q)) }

/-- An entry as it is appended. -/
def QEntry.new (image : List Byte) (device : Bool) : QEntry :=
  { image, device, checked := false, depMet := false, depTime := none, eligibleAt := 0, grid := none, unread := none }

/-- Appends entries to a queue in order (R282). -/
def Queue.append (x : Queue) (images : List (List Byte)) (device : Bool) : Queue :=
  { x with entries := x.entries ++ images.map (QEntry.new · device), tail := x.tail + images.length }

/-- The host's entries up to a TAIL become visible; the scheduler reads each in the ring when it reaches the head (R282, R326). -/
def Queue.reveal (x : Queue) (n : Nat) : Queue :=
  { x with entries := x.entries ++ (upFrom x.tail n).map fun i => { QEntry.new [] false with unread := some (i % 2 ^ x.c) }
           tail := x.tail + n }

/-- The queue takes `n` more entries: it holds at most 2^c that have not started, and its context is not closing (R282,
R327). -/
def State.queueRoom (s : State) (q n : Nat) : Bool :=
  let x := s.queue q
  decide (x.entries.length + n ≤ 2 ^ x.c) && match x.ctx with
    | some c => (s.ctx c).state == .open
    | none => false

/-- A queue is bound to a context (R282). -/
def State.bound (s : State) (q ctx : Nat) : Bool := (s.queue q).ctx == some ctx

/-- PERMISSION of a launch into a queue that is not bound to the group's context (R184, R231). Its record has VA 0 and AUX 0
(log 76). -/
def unboundFault : XFault := ⟨Cls.permission, 4, 0, 0⟩

/-- Appends device-side entries of a context if there is room for all; the answer is the status (R183, R230). In a queue that has come
to be bound otherwise there is none (log 119). -/
def launchInto (q ctx : Nat) (images : List (List Byte)) : M Word := do
  let s ← get
  if s.bound q ctx && s.queueRoom q images.length then
    modify (·.updQueue q (·.append images true))
    pure 0
  else pure 1

end Sys2Proof.Machine
end

