-- ==== Sys2Proof/Machine/Moves.lean ====
section
/-!
DEFINITION. The moves that perform accesses: LOAD, DRAIN, ATOMIC, RELEASE-LOCK, and RENEW, RECALL, WRITEBACK, TLB-RENEW
(R73 to R84, R108, R137, R237, R239).
-/
namespace Sys2Proof.Machine

/-! ## Which entry a move performs -/

/-- Lock requests do not hold up the entries behind them while a group is being vectored or saved (R86, R303). -/
def passLocks (g : Group) : M Bool := do pure (g.hold == .vectoring || (← theTeam g.team).saving)

/-- The oldest entry of a stream: of the work that runs now, else of any. -/
def headOf {α : Type} (f : α → Access) (g : Group) (st : Stream) (l : List α) : Option α :=
  match oldest? f (l.filter fun e => (f e).stream == st && (f e).level == g.level) with
  | some e => some e
  | none => oldest? f (l.filter fun e => (f e).stream == st)

/-- The oldest load-point entry of a stream (R73). -/
def headLoad (g : Group) (st : Stream) : M LoadEntry := do
  let pass ← passLocks g
  match headOf (·.acc) g st (g.loads.filter fun e => !(pass && e.kind == .lock)) with
  | some e => pure e
  | none => waitM

/-- The oldest store-queue entry of a stream (R75). -/
def headStore (g : Group) (st : Stream) : M StoreEntry := do
  match headOf (·.acc) g st g.stores with
  | some e => pure e
  | none => waitM

/-- The release conditions of R75: older loads of the stream have performed, and at device or system scope the core's
dirty owned lines have been written back (R52). -/
def releaseM (g : Group) (a : Access) : M Unit := do
  if a.releases then
    let pass ← passLocks g
    need (g.loads.all fun e => !(e.acc.stream == a.stream && e.acc.level == a.level && e.acc.older a) ||
      (pass && e.kind == .lock))
    if a.scope = .dev ∨ a.scope = .sys then releaseCore g.core else pure ()
  else pure ()

/-- No older entry of the other stream overlaps (R75). -/
def notCrossed (g : Group) (e : StoreEntry) : Bool :=
  g.stores.all fun x => x.acc.stream == e.acc.stream || !(x.acc.older e.acc && x.overlaps e)

/-- The Armature goes back to an access that has faulted precisely, unless it has gone back to an older one already (R166, R296): what
has issued after it keeps its effects and issues again, and a BARR or BARW that waits does not go on waiting (log 36). -/
def Work.goBack (w : Work) (a : Access) : Work :=
  if w.back.any (decide <| · ≤ a.seq) then w else { w with pc := a.pc, bar := none, back := some a.seq }

/-- Raises the faults that an access found when it performed. A precise Armature access resumes at itself (R166, R237). -/
def performFault (gid : Nat) (a : Access) (precise : Bool) (l : List (Nat × XFault)) : M Unit := do
  if precise && a.stream == .arm then modWork gid a.level (·.goBack a) else pure ()
  raise gid a.level (performRecs a l)

/-- HOMELOST of an Armature access is precise (R166); an error response is raised at the next boundary (R237). -/
def preciseFaults (l : List (Nat × XFault)) : Bool := l.all fun (_, f) => f.cls != Cls.errresp

/-! ## LOAD (R73) -/

/-- A store-queue entry that can forward. -/
def StoreEntry.forwards (e : StoreEntry) : Bool := e.kind == .store || e.kind == .scratch

/-- Whether an entry is an atomic. -/
def StoreEntry.isAtomic (e : StoreEntry) : Bool := match e.kind with
  | .atomic .. => true
  | _ => false

/-- The youngest of a list of entries. -/
def youngest? : List StoreEntry → Option StoreEntry
  | [] => none
  | a :: l => match youngest? l with
    | none => some a
    | some b => if a.acc.older b.acc then some b else some a

/-- A load's bytes arrive, element by element: in registers, or as an image of a VLAUNCH (R230, R235). -/
def arriveLoad (gid : Nat) (e : LoadEntry) (bytes : Elem → List Byte) (poison : Elem → Bool) : M Unit :=
  if e.kind = .launch then
    modGroup gid fun g => { g with launches := g.launches.map fun p =>
      if p.iseq = e.acc.iseq then { p with images := p.images ++ e.elems.map fun x => (x.lane, bytes x) } else p }
  else modWork gid e.acc.level fun w => e.elems.foldl (fun w x => deliver w e.acc e.dest x.lane (bytes x) (poison x)) w

/-- A VLAUNCH whose last load has performed appends its entries in ascending lane order and writes its statuses (R135, R230). -/
def finishLaunch (gid : Nat) (e : LoadEntry) : M Unit := do
  let g ← theGroup gid
  match g.launches.find? (·.iseq == e.acc.iseq) with
  | none => pure ()
  | some p =>
    if g.loads.any (·.acc.iseq == e.acc.iseq) then pure ()
    else
      modGroup gid fun g => { g with launches := g.launches.filter (·.iseq != p.iseq) }
      if p.act = 0 then pure ()
      else
        let lanes := sortNat (p.images.map (·.1))
        let status ← launchInto p.queue g.ctx (lanes.filterMap fun l => (p.images.find? (·.1 == l)).map (·.2))
        modWork gid e.acc.level fun w => w.arrive p.dest fun r => r.write ⟨Vector.replicate 32 status, p.gp⟩ p.act

/-- A VLAUNCH that meets a fault in a load queues nothing and writes nothing: its other loads go as well (R231). -/
def dropLaunch (gid : Nat) (e : LoadEntry) : M Unit :=
  if e.kind = .launch then
    modGroup gid fun g => { g with loads := g.loads.filter fun x => x.acc.iseq != e.acc.iseq || x.acc.seq == e.acc.seq
                                   launches := g.launches.filter (·.iseq != e.acc.iseq) }
  else pure ()

/-- A load-point entry has performed with its bytes. -/
def loadEnds (gid : Nat) (e : LoadEntry) : M Unit := do
  loadDone gid e
  finishLaunch gid e

/-- A load's data arrives from a line. An SLD that meets poison faults precisely and writes nothing (R237), and so does a
VLAUNCH (R60, log 61). -/
def finishLine (gid : Nat) (e : LoadEntry) (line : Nat) (d : LineData) : M Unit := do
  let bad (x : Elem) : Bool := d.poisoned (x.pa - line * 128) x.n
  match e.elems.filter fun x => (e.acc.stream == .arm || e.kind == .launch) && bad x with
  | [] =>
    arriveLoad gid e (fun x => d.slice (x.pa - line * 128) x.n) fun x => bad x || x.gp
    loadEnds gid e
  | l =>
    dropLaunch gid e
    loadDone gid e
    performFault gid e.acc true (l.map fun x => (x.lane, ⟨Cls.poison, 0, x.va, BitVec.ofNat 64 (x.pa / 32 * 32)⟩))

/-- A load that no older store covers, by its case of R73. -/
def loadLine (gid : Nat) (g : Group) (e : LoadEntry) (line : Nat) : M Unit := do
  match placeFaults (← get) (e.elems.map fun x => (x.lane, x.va, x.pa)) with
  | f :: fs =>
    dropLaunch gid e
    loadDone gid e
    performFault gid e.acc (preciseFaults (f :: fs)) (f :: fs)
  | [] =>
    if e.kind = .readOnly then
      let d ← readRo g.core g.ctx line
      finishLine gid e line d
    else if e.acc.cls = .sys then
      sysLine line
      finishLine gid e line ((← get).homeData line)
    else
      let (d, w) ← readL1 g.core g.ctx line e.acc.scope e.acc.cls
      match w with
      | none => pure ()
      | some t => jump g.core t
      finishLine gid e line d

/-- Step 1 of R230: every older access of the lane stream has performed, and the core's dirty owned lines are written back. -/
def launchReady (g : Group) (a : Access) : M Unit := do
  let before (b : Access) : Bool := b.stream == .lane && b.level == a.level && b.iseq != a.iseq && b.older a
  let pass ← passLocks g
  need (g.loads.all fun e => !before e.acc || (pass && e.kind == .lock))
  need (g.stores.all fun e => !before e.acc)
  releaseCore g.core

/-- Performs a load-point entry that is not a lock request (R73). It waits for an older atomic of the other stream on its bytes,
for which the forwarding row gives no value (log 102). -/
def performLoad (gid : Nat) (g : Group) (e : LoadEntry) : M Unit := do
  need (e.kind != .lock)
  need (g.stores.all fun x => !(x.isAtomic && x.acc.stream == e.acc.stream && x.acc.older e.acc))
  if e.kind = .launch then launchReady g e.acc else pure ()
  match e.line? with
  | none => loadEnds gid e
  | some line =>
    let bytes := e.addrs
    let across := g.stores.filter fun x => x.inScratch == e.inScratch && x.acc.older e.acc && x.addrs.any bytes.contains
    need (across.all fun x => x.forwards && bytes.all x.addrs.contains)
    match youngest? across with
    | some f =>
      arriveLoad gid e (fun x => (upFrom x.pa x.n).map fun a => (f.byteAt? a).getD 0) (·.gp)
      loadEnds gid e
    | none =>
      if e.kind = .scratch then
        let t ← theTeam g.team
        arriveLoad gid e (fun x => t.scratchBytes x.pa x.n) fun x => t.scratchBad x.pa x.n || x.gp
        loadDone gid e
      else loadLine gid g e line

/-- LOAD (R73). -/
def execLoad (gid : Nat) (st : Stream) (s : State) : Host.Outcome State Fault Refusal :=
  moveStep s do
    let g ← theGroup gid
    need g.present
    performLoad gid g (← headLoad g st)

/-! ## DRAIN (R75) -/

/-- The masked line image of an entry's bytes in a line. -/
def StoreEntry.lineImage (e : StoreEntry) (line : Nat) : LineData × BitVec 128 :=
  (⟨Vector.ofFn fun i : Fin 128 => (e.byteAt? (line * 128 + i.val)).getD 0, 0⟩,
   BitVec.ofNat 128 ((List.range 128).foldl (fun m i => if (e.byteAt? (line * 128 + i)).isSome then m + 2 ^ i else m) 0))

/-- A VSST writes its bytes; a sector that it writes whole is poisoned no longer (R60). In a listed barrier word PH stays, and EXP
written as all ones abandons the word (R137). -/
def Team.drainScratch (t : Team) (p : LaunchPacket) (e : StoreEntry) : Team :=
  let wrote := t
  let whole (k : Nat) : Bool := (upFrom (32 * k) 32).all e.addrs.contains
  let t := e.elems.foldl (fun t x => t.putScratch x.pa x.data) { t with bad := t.bad.filter (!whole ·) }
  if !listsBars p then t
  else
    let addrs := e.addrs
    (List.range 16).foldl (fun t i =>
      let a := barAddr p i
      if (upFrom a 8).any addrs.contains then
        let b := t.bar p i
        let b := { b with ph := (wrote.bar p i).ph }
        let b := if (upFrom a 4).any addrs.contains && b.exp == abandonedExp then { b with arr := 0 } else b
        t.putBar p i b
      else t) t

/-- Writes the bytes of a store at the place its class and scope give (R75). -/
def writeLine (g : Group) (a : Access) (line : Nat) (d : LineData) (mask : BitVec 128) : M Unit := do
  match a.cls with
  | .sys =>
    sysLine line
    modify (·.putHome line d mask)
  | .non =>
    gainNoncoh g.core g.ctx line
    writeOwned g.core line d mask
  | .dev =>
    if a.scope = .grp ∨ a.scope = .core then
      gainOwned g.core g.ctx line
      writeOwned g.core line d mask
    else let _ ← storeDevice g.core line d mask

/-- Performs a store (R75). -/
def performStore (gid : Nat) (g : Group) (e : StoreEntry) : M Unit := do
  need e.forwards
  need (notCrossed g e)
  releaseM g e.acc
  match e.line? with
  | none => storeDone gid e
  | some line =>
    if e.kind = .scratch then
      let t ← theTeam g.team
      let d ← theGrid t.grid
      modTeam g.team (·.drainScratch d.packet e)
      storeDone gid e
    else match placeFaults (← get) (e.elems.map fun x => (x.lane, x.va, x.pa)) with
      | f :: fs =>
        storeDone gid e
        performFault gid e.acc (preciseFaults (f :: fs)) (f :: fs)
      | [] =>
        let (d, mask) := e.lineImage line
        writeLine g e.acc line d ((← get).open_ line mask)
        storeDone gid e

/-- DRAIN (R75). -/
def execDrain (gid : Nat) (st : Stream) (s : State) : Host.Outcome State Fault Refusal :=
  moveStep s do
    let g ← theGroup gid
    need g.present
    performStore gid g (← headStore g st)

/-! ## ATOMIC (R84, R108) -/

/-- A value as a signed number of n bytes. -/
def signedOf (n v : Nat) : Int := if v < 2 ^ (8 * n - 1) then v else (v : Int) - 2 ^ (8 * n)

/-- BF16 addition of one half (R108). -/
def bfAdd (a b : Nat) : Nat := Fmt.bf16.round .rne 0 false ((Fmt.bf16.value a).add false (Fmt.bf16.value b))

/-- `new` of R108 on n bytes. -/
def atomNew (op : AtomOp) (n old b c : Nat) : Nat :=
  match op with
  | .add => (old + b) % 2 ^ (8 * n)
  | .min => if signedOf n old ≤ signedOf n b then old else b
  | .minN => min old b
  | .max => if signedOf n old ≤ signedOf n b then b else old
  | .maxN => max old b
  | .and => old &&& b
  | .or => old ||| b
  | .xor => old ^^^ b
  | .xchg => b
  | .cas => if old = c then b else old
  | .fadd => Fmt.f32.round .rne 0 false ((Fmt.f32.value (old % 2 ^ 32)).add false (Fmt.f32.value (b % 2 ^ 32)))
  | .bfadd => bfAdd (old % 2 ^ 16) (b % 2 ^ 16) + 2 ^ 16 * bfAdd (old / 2 ^ 16 % 2 ^ 16) (b / 2 ^ 16 % 2 ^ 16)

/-- One lane's update of a line, and its old bytes and their poison (R110, R245). -/
def atomElem (op : AtomOp) (n line : Nat) (d : LineData) (x : SElem) : LineData × (Nat × List Byte × Bool) :=
  let off := x.pa - line * 128
  let old := d.slice off n
  let m := 2 ^ (8 * n)
  let new := leBytesOf n (atomNew op n (leVal old) (x.b.toNat % m) (x.c.toNat % m))
  (⟨(mixData d (lineWith off new) (maskOf off n)).bytes, d.poison⟩, (x.lane, old, d.poisoned off n || x.gp))

/-- The updates of every lane, in ascending order. -/
def atomElems (op : AtomOp) (n line : Nat) : List SElem → LineData → LineData × List (Nat × List Byte × Bool)
  | [], d => (d, [])
  | x :: xs, d =>
    let (d, r) := atomElem op n line d x
    let (d, rs) := atomElems op n line xs d
    (d, r :: rs)

/-- The bytes an atomic entry writes, as a mask of its line. -/
def atomMask (n line : Nat) (l : List SElem) : BitVec 128 := l.foldl (fun m x => m ||| maskOf (x.pa - line * 128) n) 0

/-- The copy in a core's L1. -/
def l1Data (c line : Nat) : M LineData := do
  match Tab.find? ((← get).core c).l1 line with
  | some l => pure l.data
  | none => waitM

/-- The data an atomic works on at its place, with the effects of getting it there (R22, R84). A non-coherent line is owned for
its atomics as well; of a line of a peer, the record here says which core of this package owns it (log 99). -/
def atomSource (g : Group) (a : Access) (line : Nat) : M LineData := do
  match a.cls with
  | .sys =>
    sysLine line
    pure ((← get).homeData line)
  | .non =>
    gainOwned g.core g.ctx line
    l1Data g.core line
  | .dev =>
    if a.scope = .grp ∨ a.scope = .core then
      gainOwned g.core g.ctx line
      l1Data g.core line
    else
      unblocked line
      clearOwner line
      pure ((← get).homeData line)

/-- Writes an atomic's result at its place (R84). -/
def atomWrite (g : Group) (a : Access) (line : Nat) (d : LineData) (mask : BitVec 128) : M Unit := do
  match a.cls with
  | .sys => modify (·.putHome line d mask)
  | .non => writeOwned g.core line d mask
  | .dev =>
    if a.scope = .grp ∨ a.scope = .core then writeOwned g.core line d mask
    else let _ ← storeDevice g.core line d mask

/-- Performs an atomic (R84). -/
def performAtomic (gid : Nat) (g : Group) (e : StoreEntry) : M Unit := do
  match e.kind with
  | .atomic op n ret =>
    releaseM g e.acc
    match e.line? with
    | none => storeDone gid e
    | some line => match placeFaults (← get) (e.elems.map fun x => (x.lane, x.va, x.pa)) with
      | f :: fs =>
        storeDone gid e
        performFault gid e.acc (preciseFaults (f :: fs)) (f :: fs)
      | [] =>
        let d ← atomSource g e.acc line
        let (new, olds) := atomElems op n line e.elems d
        if e.acc.stream == .arm && olds.any (·.2.2) then
          let x := (e.elems.head?).getD ⟨0, 0, 0, [], 0, 0, false⟩
          storeDone gid e
          performFault gid e.acc true [(0, ⟨Cls.poison, 0, x.va, BitVec.ofNat 64 (x.pa / 32 * 32)⟩)]
        else
          atomWrite g e.acc line ⟨new.bytes, 0⟩ ((← get).open_ line (atomMask n line e.elems))
          match ret with
          | none => pure ()
          | some dest =>
            modWork gid e.acc.level fun w => olds.foldl (fun w r => deliver w e.acc dest r.1 r.2.1 r.2.2) w
          storeDone gid e
  | _ => waitM

/-- ATOMIC (R84). -/
def execAtomic (gid : Nat) (st : Stream) (s : State) : Host.Outcome State Fault Refusal :=
  moveStep s do
    let g ← theGroup gid
    need g.present
    performAtomic gid g (← headStore g st)

/-! ## RELEASE-LOCK (R83, R113, R116) -/

/-- Performs an unlock entry (R83). A line that an earlier unlock of the group has freed since the ULK issued is left alone, and
so is USED (log 103); a held line of a lost pair raises HOMELOST (R61). -/
def performUnlock (gid : Nat) (g : Group) (e : StoreEntry) : M Unit := do
  need (e.kind == .unlock)
  releaseM g e.acc
  let lost := placeFaults (← get) (e.elems.map fun x => (x.lane, x.va, x.pa))
  match e.line? with
  | none => pure ()
  | some line =>
    if g.locks.any (·.line == line) then
      if lost.isEmpty then freeLine g line false else pure ()
      modCtx g.ctx fun x => { x with used := x.used - 1 }
      modGroup gid fun g => { g with locks := g.locks.filter (·.line != line) }
    else pure ()
  storeDone gid e
  if lost.isEmpty then pure () else performFault gid e.acc false lost

/-- RELEASE-LOCK (R83). -/
def execReleaseLock (gid : Nat) (st : Stream) (s : State) : Host.Outcome State Fault Refusal :=
  moveStep s do
    let g ← theGroup gid
    need g.present
    performUnlock gid g (← headStore g st)

/-! ## RENEW, RECALL, WRITEBACK, TLB-RENEW as moves of their own (R76, R78, R79, R82) -/

/-- A group whose load of a line waits at a core. -/
def State.loader (s : State) (core line : Nat) : Option Group :=
  (Tab.vals s.groups).find? fun g => g.present && g.core == core &&
    g.loads.any fun e => (e.kind == .load || e.kind == .launch) && e.acc.cls == .dev && e.line? == some line

/-- RENEW for a load that waits (R76). -/
def execRenew (core line : Nat) (s : State) : Host.Outcome State Fault Refusal :=
  moveStep s do
    let s ← get
    need (isLocal line && s.place (line * 128) == .here)
    match s.loader core line with
    | none => waitM
    | some g => let _ ← renew core g.ctx line

/-- The lines on the paths that tables give addresses now. -/
def State.pathLines (s : State) (ctx : Nat) (l : List DWord) : List Nat :=
  dedup (l.flatMap fun va => (s.peek ctx va).map fun (_, pa, _) => lineOf pa)

/-- The first address of each page of a range, as far as the first `n` pages. -/
def pagesFrom (a : DWord) (n : Nat) : List DWord := (List.range n).map fun i => a + BitVec.ofNat 64 (i * 0x10000)

/-- The lines that a pending recast takes at their homes: those of its pages' entries, and of its list (R33, R39). -/
def State.recastLines (s : State) (ctx : Nat) (r : Recast) : List Nat :=
  let n := min r.n.toNat 65536
  let entries (a : DWord) : List Nat := (pagesFrom a n).flatMap fun va => ((s.peek ctx va).filter (·.1 == 0)).map fun (_, pa, _) => lineOf pa
  let down (a : DWord) : DWord := a - BitVec.ofNat 64 (a.toNat % 0x10000)
  match r.instr with
  | .rprm .. => entries r.x ++ (lineRuns (2 * n / 128 + 2) r.y.toNat (2 * n)).filterMap fun (a, _, _) =>
      (s.peekPa ctx (BitVec.ofNat 64 a)).map lineOf
  | .runm .. | .rpin .. | .rupn .. => entries r.x
  | _ => entries (down r.x) ++ entries (down r.y)

/-- A request that R51 and R78 list is pending for an owned line: a range record; a lock request to be granted to a group on
another core; a load or a walk of another core; a group- or core-scope store or an atomic of another core; a device-scope
atomic; or the oldest pending recast of a group that takes the line. -/
def State.recallWanted (s : State) (owner line : Nat) : Bool :=
  let h := s.home line
  !h.records.isEmpty ||
  (h.holder.isNone && ((s.firstWaiter line).bind s.group?).any fun g => g.core != owner) ||
  s.walks.any (fun w => w.core != owner && (s.pathLines w.ctx [w.va]).contains line) ||
  (Tab.vals s.groups).any fun g =>
    g.present && (
    (g.core != owner && g.loads.any fun e => (e.kind == .load || e.kind == .launch) && e.line? == some line) ||
    (g.core != owner && g.stores.any fun e => e.kind != .scratch && e.line? == some line &&
      (e.acc.scope == .grp || e.acc.scope == .core || e.isAtomic)) ||
    (g.stores.any fun e => e.line? == some line && e.isAtomic && e.acc.scope == .dev) ||
    (g.work.recasts.head?.any fun r => (s.recastLines g.ctx r).contains line))

/-- RECALL (R78). -/
def execRecall (line : Nat) (s : State) : Host.Outcome State Fault Refusal :=
  moveStep s do
    let s ← get
    match (s.home line).owner with
    | none => waitM
    | some o =>
      need (s.recallWanted o line)
      recallLine line

/-- The next Armature word of a group as its core would fetch it now, with no effect (R55). -/
def State.armWord (s : State) (g : Group) : Option Nat := (s.peekPa g.ctx g.work.pc).map fun pa =>
  leVal (((Tab.find? (s.core g.core).icache (lineOf pa)).getD (s.homeData (lineOf pa))).slice (pa % 128) 4)

/-- An instruction of the Armature that takes the write-backs of a device-scope release (R36, R52, R93, R183). -/
def Instr.writesBack : Instr → Bool
  | .fence sc _ => sc == .dev || sc == .sys
  | .launch .. | .rmap .. => true
  | _ => false

/-- The Armature of a group stands at such an instruction (R69). -/
def State.atFence (s : State) (g : Group) : Bool := match (s.armWord g).map decodeArm with
  | some (.ok i) => Instr.writesBack i
  | _ => false

/-- A release, an unlock or a fence of a core is waiting for its write-backs (R79): an entry of release order, a VLAUNCH, a pending
recast, an unwritten fault record, or an Armature instruction to issue. -/
def State.releaseWaits (s : State) (core : Nat) : Bool :=
  (Tab.vals s.groups).any fun g => g.present && g.core == core && (
    (g.stores.any fun e => e.acc.releases && (e.acc.scope == .dev || e.acc.scope == .sys)) ||
    g.loads.any (·.kind == .launch) || !g.work.recasts.isEmpty || !g.faults.isEmpty || s.atFence g)

/-- WRITEBACK (R79). The write-backs of a release or a fence can be taken one by one while it waits; those that are left are taken
with it, one move after another (R67). -/
def execWriteback (core line : Nat) (why : WbWhy) (s : State) : Host.Outcome State Fault Refusal :=
  moveStep s do
    match why with
    | .buffer => writebackBuffer core line
    | .replace => writebackReplace core line
    | .release =>
      need ((← get).releaseWaits core)
      writebackRelease core line

/-- TLB-RENEW for a context with a group on the core or with a walk under way there (R24, R82). A walk that fails installs
nothing; the access that needs it faults (R20). -/
def execTlbRenew (core ctx : Nat) (va : DWord) (s : State) : Host.Outcome State Fault Refusal :=
  moveStep s do
    let s ← get
    let posted := !(s.merged core ctx va).isEmpty
    need (posted || (Tab.vals s.groups).any fun g => g.present && g.core == core && g.ctx == ctx)
    need (!nonCanonical va)
    match ← tlbRenew core ctx va with
    | .ok () => pure ()
    | .error _ => need posted

end Sys2Proof.Machine
end

