-- ==== Sys2Proof/Machine/Engine.lean ====
section
/-!
DEFINITION. The copy engine: what a command moves, and the moves that read, write and reduce (R66, R80, R81, R269 to R281).
-/
namespace Sys2Proof.Machine

/-! ## Command blocks (R271, R272) -/

/-- The block in 64 bytes of memory. -/
def Block.ofBytes (bs : List Byte) : Block :=
  let f (i : Nat) : DWord := BitVec.ofNat 64 (leVal ((bs.drop (8 * i)).take 8))
  ⟨f 0, f 1, f 2, f 3, f 4, f 5, f 6, f 7⟩

def Block.flt (b : Block) : Bool := b.flags.getLsbD 0
def Block.qnt (b : Block) : Bool := b.flags.getLsbD 1
def Block.shd (b : Block) : Bool := b.flags.getLsbD 2

/-- Byte `i` of FILL repeated little-endian (R271, R275, R276). -/
def Block.fillByte (b : Block) (i : Nat) : Byte := b.flags.extractLsb' (32 + 8 * (i % 4)) 8

/-- A 32-bit field as a signed byte count (R272). -/
def strideOf (v : DWord) (lo : Nat) : Int := (v.extractLsb' lo 32).toInt

/-- An address at a signed distance. -/
def farFrom (a : DWord) (d : Int) : DWord := a + BitVec.ofInt 64 d

/-! ## Pieces (R273 to R276) -/

/-- Bytes a command writes at consecutive addresses: copied from consecutive addresses, or padding. A side that is sharded
names the package its address is used in (R274). -/
structure Piece where
  dst  : DWord
  dpkg : Option Nat
  n    : Nat
  src  : DWord
  spkg : Option Nat
  pad  : Bool
deriving DecidableEq, Repr

/-- CPYS in the order of its loops (R273, R274). -/
def Block.strided (b : Block) : List Piece :=
  let dim := bitsOf b.ext0 17 16
  let e := bitsOf b.ext0 47 32
  let pkg (i : Nat × Nat × Nat) : Option Nat :=
    let at_ (k : Nat) : Option Nat := some ((bitsOf b.ext0 55 48 + k / e) % 256)
    match dim with
    | 0 => none | 1 => at_ i.1 | 2 => at_ i.2.1 | _ => at_ i.2.2
  let here (i : Nat × Nat × Nat) : Nat × Nat × Nat :=
    match dim with
    | 0 => i | 1 => (i.1 % e, i.2) | 2 => (i.1, i.2.1 % e, i.2.2) | _ => (i.1, i.2.1, i.2.2 % e)
  let go (a : DWord) (s1 s2 s3 : Int) (i : Nat × Nat × Nat) : DWord := farFrom a (i.1 * s1 + i.2.1 * s2 + i.2.2 * s3)
  let src := go b.src (strideOf b.ext1 0) (strideOf b.ext1 32) (strideOf b.ext2 0)
  let dst := go b.dst (strideOf b.ext2 32) (strideOf b.ext3 0) (strideOf b.ext3 32)
  (List.range (bitsOf b.ext0 15 0)).flatMap fun i3 => (List.range (bitsOf b.arg 63 48)).flatMap fun i2 =>
    (List.range (bitsOf b.arg 47 32)).map fun i1 =>
      let i := (i1, i2, i3)
      if b.shd then ⟨dst (here i), pkg i, bitsOf b.arg 31 0, src i, none, false⟩
      else ⟨dst i, none, bitsOf b.arg 31 0, src (here i), pkg i, false⟩

/-- The rows or columns of a CPYW's output: ⌊(n + 2P − k) / S⌋ + 1 (R275). -/
def windowCount (n k s p : Nat) : Nat := (n + 2 * p - k) / s + 1

/-- CPYW: one piece for each element of each output row (R275). -/
def Block.window (b : Block) : List Piece :=
  let w := bitsOf b.arg 15 0
  let h := bitsOf b.arg 31 16
  let kh := bitsOf b.arg 39 32
  let kw := bitsOf b.arg 47 40
  let s := bitsOf b.arg 51 48
  let p := bitsOf b.arg 55 52
  let n : Nat := 2 ^ bitsOf b.arg 57 56
  let ow : Nat := windowCount w kw s p
  (List.range (windowCount h kh s p)).flatMap fun (oy : Nat) => (List.range ow).flatMap fun (ox : Nat) =>
    (List.range kh).flatMap fun (ky : Nat) => (List.range kw).map fun (kx : Nat) =>
      let y : Int := oy * s + ky - p
      let x : Int := ox * s + kx - p
      let out : Nat := ((oy * ow + ox) * kh * kw + ky * kw + kx) * n
      let inside := decide (0 ≤ y ∧ y < h ∧ 0 ≤ x ∧ x < w)
      ⟨b.dst + BitVec.ofNat 64 out, none, n, farFrom b.src (y * strideOf b.ext0 0 + x * n), none, !inside⟩

/-- An index in range: not negative and below M (R276). -/
def Block.inRange (b : Block) (i : Word) : Bool := !i.getLsbD 31 && decide (i.toNat < bitsOf b.ext1 31 0)

/-- GATH and SCAT: one piece for each row (R276). -/
def Block.rows (b : Block) (scat : Bool) (index : List Word) : List Piece :=
  let r := bitsOf b.arg 31 0
  let line (a : DWord) (n : Nat) : DWord := a + BitVec.ofNat 64 (n * r)
  let at_ (a : DWord) (i : Word) : DWord := farFrom a (i.toNat * strideOf b.ext2 0)
  (List.zip (List.range index.length) index).filterMap fun (n, i) =>
    if scat then (if b.inRange i then some ⟨at_ b.dst i, none, r, line b.src n, none, false⟩ else none)
    else some ⟨line b.dst n, none, r, at_ b.src i, none, !b.inRange i⟩

/-- Bytes of an element of a reduction: F32 and I32 have 4, BF16 has 2 (R272, R278). -/
def Block.fredBytes (b : Block) : Nat := if bitsOf b.arg 35 32 = 1 then 2 else 4

/-- All pieces a command writes in memory. The root of a reduction writes its results as padding. -/
def Cmd.pieces (k : Cmd) : List Piece :=
  let b := k.block
  match k.kind with
  | .cpy => if b.arg = 0 then [] else [⟨b.dst, none, b.arg.toNat, b.src, none, false⟩]
  | .cpys => b.strided.filter (0 < ·.n)
  | .cpyw => b.window
  | .gath => b.rows false k.index
  | .scat => b.rows true k.index
  | .cpyob => []
  | .fred => [⟨b.dst, none, bitsOf b.arg 31 0 * b.fredBytes, 0, none, true⟩]
  | .dup => [⟨b.dst, none, 0x10000, b.src, none, false⟩]

/-! ## Sources -/

/-- Source bytes a CPYOB reads in a row of a tile (R277). -/
def Block.rowBytes (b : Block) (fmt : SlotFmt) : Nat := if fmt = .bf16 then 256 else if b.qnt then 512 else 128

/-- Rows of a tile (R250). -/
def tileRows (fmt : SlotFmt) : Nat := if fmt = .bf16 then 64 else 128

/-- The format of the slot a CPYOB fills. -/
def State.obSlot (s : State) (k : Cmd) : Option SlotRec :=
  (Tab.find? s.teams k.team).bind fun t => Tab.find? t.slots (k.block.dst.toNat % 64)

/-- The runs of source bytes a command reads: address, package, count. The format is that of a CPYOB's slot. -/
def Cmd.sources (k : Cmd) (fmt : SlotFmt) : List (DWord × Option Nat × Nat) :=
  match k.kind with
  | .cpyob => (List.range (tileRows fmt)).map fun (r : Nat) =>
      (farFrom k.block.src (r * strideOf k.block.arg 0), none, k.block.rowBytes fmt)
  | .fred => [(k.block.src, none, bitsOf k.block.arg 31 0 * k.block.fredBytes)]
  | _ => (k.pieces.filter fun p => !p.pad).map fun p => (p.src, p.spkg, p.n)

/-- The number a source line goes by: its address, and the package it is sharded to. -/
def sourceKey (va : Nat) (pkg : Option Nat) : Nat := va / 128 * 128 + 2 ^ 64 * (match pkg with
  | none => 0
  | some p => p + 1)

/-- The source lines of a run, each with the first byte needed from it. -/
def sourceLines (r : DWord × Option Nat × Nat) : List (Nat × Nat) :=
  (lineRuns (r.2.2 / 128 + 2) r.1.toNat r.2.2).map fun (a, _, _) => (sourceKey a r.2.1, a)

/-- The slot format that a command's sources depend on. -/
def State.cmdFmt (s : State) (k : Cmd) : SlotFmt := ((s.obSlot k).map (·.fmt)).getD .e4m3

/-- The source lines not yet read. -/
def State.unread (s : State) (k : Cmd) : List (Nat × Nat) :=
  ((k.sources (s.cmdFmt k)).flatMap sourceLines).filter fun (key, _) => !k.read.any (·.va == key)

/-- A source byte that has been read: its value, its poison, and whether it was answered with an error. -/
def Cmd.byte? (k : Cmd) (va : DWord) (pkg : Option Nat) : Option (Byte × Bool × Bool) :=
  let key := sourceKey va.toNat pkg
  (k.read.find? (·.va == key)).map fun r =>
    let o := va.toNat % 128
    ((r.data.bytes[o]?).getD 0, r.data.poison.getLsbD (o / 32), r.bad)

/-! ## Destination lines -/

/-- A local address as package `p` is reached (R13, R274). -/
def packageAddr (own : Nat) (pa : Nat) : Option Nat → Nat
  | none => pa
  | some p => if p = own then pa % 2 ^ 41 else 2 ^ 49 + p * 2 ^ 41 + pa % 2 ^ 41

/-- Part of a piece that lies in one destination line. `at_` counts its bytes from the start of the piece. -/
structure Run where
  line  : Nat
  off   : Nat
  n     : Nat
  piece : Piece
  at_   : Nat
deriving DecidableEq, Repr

/-- The physical address of a destination byte. -/
def Cmd.dstPa (k : Cmd) (own va : Nat) (pkg : Option Nat) : Option Nat :=
  if k.kind = .dup then some va
  else (k.pages.find? (·.page == va / 0x10000)).map fun p => packageAddr own (p.pa + va % 0x10000) pkg

/-- The runs of every piece. -/
def Cmd.runs (k : Cmd) (own : Nat) : List Run :=
  k.pieces.flatMap fun p => (lineRuns (p.n / 128 + 2) p.dst.toNat p.n).filterMap fun (a, _, n) =>
    (k.dstPa own a p.dpkg).map fun pa => ⟨lineOf pa, pa % 128, n, p, a - p.dst.toNat⟩

/-- The run that gives a byte of a line its value: the last one with data, else the last with padding (R276, R279). -/
def winner (runs : List Run) (i : Nat) : Option Run :=
  let covering := runs.filter fun r => decide (r.off ≤ i ∧ i < r.off + r.n)
  match (covering.filter fun r => !r.piece.pad).getLast? with
  | some r => some r
  | none => covering.getLast?

/-- The value, poison and error of a destination byte; `none` where the command does not write it. -/
def Cmd.outByte (k : Cmd) (runs : List Run) (i : Nat) : Option (Byte × Bool × Bool) :=
  (winner runs i).bind fun r =>
    let j := r.at_ + (i - r.off)
    if r.piece.pad then some (k.block.fillByte j, false, false)
    else k.byte? (r.piece.src + BitVec.ofNat 64 j) r.piece.spkg

/-- The image of a destination line and the mask of the bytes written; bytes answered with an error are left (R280). -/
def Cmd.outLine (k : Cmd) (runs : List Run) : LineData × BitVec 128 :=
  let out (i : Nat) : Option (Byte × Bool × Bool) := (k.outByte runs i).filter fun b => !b.2.2
  (⟨Vector.ofFn fun i : Fin 128 => ((out i.val).map (·.1)).getD 0,
    BitVec.ofNat 4 ((List.range 128).foldl (fun m i => match out i with
      | some (_, true, _) => m ||| 2 ^ (i / 32)
      | _ => m) 0)⟩,
   BitVec.ofNat 128 ((List.range 128).foldl (fun m i => if (out i).isSome then m + 2 ^ i else m) 0))

/-- The bytes of a line that a command writes. -/
def runMask (runs : List Run) : BitVec 128 := runs.foldl (fun m r => m ||| maskOf r.off r.n) 0

/-! ## Placing and ending a command (R80, R81, R280) -/

/-- The next identifier of an engine (R270). -/
def nextIdent (core : Nat) : M (BitVec 16) := do
  let id := ((← get).core core).nextId
  modCore core fun c => { c with nextId := if id = 0xFFFF then 1 else id + 1 }
  pure id

/-- Appends a command to its engine and a range record at the home of each destination line, whose owner is recalled
(R51, R80). -/
def placeCmd (core : Nat) (k : Cmd) : M Unit := do
  if k.kind = .cpyob then pure ()
  else each (k.todo.filter isLocal) fun line => do
    modHome line fun h => { h with records := h.records ++ [(core, k.id)] }
    recallLine line
  modCore core fun c => { c with engine := c.engine ++ [k] }

/-- Changes a command of an engine. -/
def modCmd (core : Nat) (id : BitVec 16) (f : Cmd → Cmd) : M Unit :=
  modCore core fun c => { c with engine := c.engine.map fun k => if k.id = id then f k else k }

/-- A command that has written its last line: it leaves, its counter falls and the core JUMPs (R81). -/
def finishCmd (core : Nat) (id : BitVec 16) : M Unit := do
  match (← get).cmd? core id with
  | none => pure ()
  | some k =>
    endCmd core k false

/-- The record of a fault of a copy (R297 to R299). -/
def copyRec (k : Cmd) (cls sub : BitVec 4) (va : DWord) : Rec :=
  { va, aux := k.id.setWidth 64, pc := k.at_, word := 0, src := 3, lane := 0, nest := false, cls, sub, byLane := false
    seq := 0, alone := false }

/-- Raises a fault of a copy in its group, if the group is still there. -/
def copyRaise (k : Cmd) (r : Rec) : M Unit := do
  match (← get).group? k.group with
  | none => pure ()
  | some _ => raise k.group k.level [r]

/-- An error response: ERR is set and ERRRESP raised (R280, R312). -/
def copyError (core : Nat) (k : Cmd) (va : DWord) (pa : Nat) : M Unit := do
  logError k.ctx 4 pa
  modCmd core k.id ({ · with err := true })
  copyRaise k (copyRec k Cls.errresp 0 va)

/-- A source read faults: the command stalls until its group returns from the handler, or stops if the group is gone
(R280, R310). -/
def stallCmd (core : Nat) (k : Cmd) (f : XFault) : M Unit := do
  match (← get).group? k.group with
  | none => endCmd core k true
  | some g =>
    let nested := g.work.priv && k.level == g.level && k.level != 0
    modCmd core k.id ({ · with stalled := true, until_ := if nested then g.level else g.nextEntry })
    raise k.group k.level [copyRec k f.cls f.sub f.va]

/-! ## FRED at the switches (R278) -/

/-- The element type of a reduction. -/
def fredTy (ty : Nat) : LTy := if ty = 1 then .bf16 else if ty = 6 then .i32 else .f32

/-- An element as a contribution: a whole number of steps of 2^(X − 64), or `none` for a NaN or an infinity. -/
def contribution (ty : Nat) (x : BitVec 8) (bits : Nat) : Option Int :=
  let q : Int := x.toInt - 64
  let v : FVal := match floatFmt (fredTy ty) with
    | some f => f.value bits
    | none => .fin (exactInt (intElem .i32 (BitVec.ofNat 32 bits)))
  match v with
  | .fin y => some (let n : Int := roundGrid .rne 0 y q
      if y.neg then -n else n)
  | _ => none

/-- The root's result for one element: saturated to 128 bits, then rounded once. -/
def fredResult (ty : Nat) (x : BitVec 8) (sum : Int) (bad : Bool) : Nat :=
  let t := max (-(2 ^ 127 : Int)) (min (2 ^ 127 - 1) sum)
  let y : Exact := ⟨decide (t < 0), t.natAbs, x.toInt - 64, false⟩
  match floatFmt (fredTy ty) with
  | some f => if bad then f.nan else f.round .rne 0 false (.fin y)
  | none => (BitVec.ofInt 32 (clampInt .i32 (roundInt .rne 0 y))).toNat

/-- A reduction that no contribution has reached. -/
def Fred.opened (count : Nat) (ty : BitVec 4) (x : BitVec 8) (contribs : Nat) (root : BitVec 8) : Fred :=
  ⟨count, ty, x, contribs, root, 0, List.replicate count 0, List.replicate count false, none⟩

/-- The switch takes a package's contributions under a tag; `none` when they do not match the reduction that is open. -/
def Pkg.contribute (p : Pkg) (tag : Nat) (f : Fred) (vals : List (Option Int)) (dest : Option (Nat × BitVec 16)) :
    Option Pkg :=
  let open_ := Tab.get p.freds tag f
  if open_.count = f.count ∧ open_.ty = f.ty ∧ open_.x = f.x ∧ open_.contribs = f.contribs ∧ open_.root = f.root then
    let next : Fred := { open_ with
      got := open_.got + 1
      sum := (open_.sum.zip vals).map fun (a, v) => a + v.getD 0
      bad := (open_.bad.zip vals).map fun (b, v) => b || v.isNone
      dest := dest.or open_.dest }
    some { p with freds := Tab.put p.freds tag next }
  else none

/-- A reduction under a tag still takes contributions: one that has them all is first reduced (R278, log 57). -/
def Pkg.taking (p : Pkg) (tag : Nat) : Bool := match Tab.find? p.freds tag with
  | none => true
  | some f => decide (f.got < f.contribs)

/-- The elements of a FRED's source, once it has all been read. Bytes answered with an error contribute nothing. -/
def Cmd.elements (k : Cmd) : List (Option Int) :=
  let n := k.block.fredBytes
  (List.range (bitsOf k.block.arg 31 0)).map fun e =>
    let bs := (List.range n).map fun i => (k.byte? (k.block.src + BitVec.ofNat 64 (e * n + i)) none).getD (0, false, true)
    if bs.any (·.2.2) then some 0
    else contribution (bitsOf k.block.arg 35 32) (k.block.arg.extractLsb' 40 8) (leVal (bs.map (·.1)))

/-- The contributions of a FRED reach the switch: a contributor that is not the root completes (R278). -/
def fredSend (core : Nat) (id : BitVec 16) : M Unit := do
  let s ← get
  match s.cmd? core id with
  | none => pure ()
  | some k =>
    let b := k.block
    need (s.pkg.taking (bitsOf b.ext0 15 0))
    let root := b.ext0.extractLsb' 24 8
    let isRoot := root == s.pkg.fabricNo
    let f := Fred.opened (bitsOf b.arg 31 0) (b.arg.extractLsb' 32 4) (b.arg.extractLsb' 40 8) (bitsOf b.ext0 23 16 + 1) root
    match s.pkg.contribute (bitsOf b.ext0 15 0) f k.elements (if isRoot then some (core, id) else none) with
    | none =>
      modCmd core id ({ · with err := true })
      match (← get).cmd? core id with
      | some k => endCmd core k false
      | none => pure ()
    | some p =>
      modify fun s => { s with pkg := p }
      if isRoot then modCmd core id ({ · with sent := true }) else finishCmd core id

/-! ## ENGINE-READ (R80) -/

/-- The physical address a source line is read at. -/
def sourcePa (core : Nat) (k : Cmd) (key : Nat) (va : DWord) : M (Except XFault Nat) := do
  if k.kind = .dup then pure (.ok va.toNat)
  else match ← accessAt core k.ctx va .load none with
    | .error f => pure (.error f)
    | .ok x =>
      if x.cls = .sys then pure (.error ⟨Cls.scope, 0, va, x.leaf⟩)
      else pure (.ok (packageAddr (← get).pkg.fabricNo.toNat x.pa (if key / 2 ^ 64 = 0 then none else some (key / 2 ^ 64 - 1))))

/-- A range record of a line is older than a command's own (R80). -/
def State.olderRecord (s : State) (k : Cmd) (line : Nat) : Bool :=
  (s.home line).records.any fun (c, i) => match s.cmd? c i with
    | some o => decide (o.iseq < k.iseq)
    | none => false

/-- A line with the bytes under a mask, and the poison of the sectors that hold them, as they once were. -/
def LineData.restore (now old : LineData) (mask : BitVec 128) : LineData :=
  ⟨(mixData now old mask).bytes, BitVec.ofNat 4 ((List.range 4).foldl (fun a j =>
    if (if mask &&& sectorMask j = 0 then now else old).poison.getLsbD j then a + 2 ^ j else a) 0)⟩

/-- A source line as it stood before the command's first write (R279). -/
def State.sourceData (s : State) (k : Cmd) (line : Nat) : LineData :=
  let d := s.homeData line
  match k.done.find? (·.line == line) with
  | none => d
  | some o => d.restore o.data (runMask ((k.runs s.pkg.fabricNo.toNat).filter (·.line == line)))

/-- A command keeps a source line; `bad` marks one that no data came for. -/
def keepRead (core : Nat) (k : Cmd) (key : Nat) (d : LineData) (bad : Bool) : M Unit := do
  modCmd core k.id fun k => { k with read := k.read ++ [⟨key, d, bad⟩], running := true }
  let s ← get
  match s.cmd? core k.id with
  | some k => if k.kind = .fred ∧ (s.unread k).isEmpty then fredSend core k.id else pure ()
  | none => pure ()

/-- A source read that gets an error response (R14, R280). -/
def readRefused (core : Nat) (k : Cmd) (key : Nat) (va : DWord) (pa : Nat) : M Unit := do
  copyError core k (if k.kind = .dup then 0 else va) pa
  keepRead core k key ⟨Vector.replicate 128 0, 0⟩ true

/-- A reduction adds up bytes of a line that stand in a poisoned sector (R60, R278). -/
def Cmd.sumsPoison (k : Cmd) (va : DWord) (d : LineData) : Bool :=
  k.kind == .fred && ((k.sources .e4m3).flatMap fun r => lineRuns (r.2.2 / 128 + 2) r.1.toNat r.2.2).any fun (a, _, n) =>
    a / 128 == va.toNat / 128 && d.poisoned (a % 128) n

/-- Reads one source line. A reduction that would consume poison faults there (R60, R280, log 92). -/
def engineRead (core : Nat) (k : Cmd) (key : Nat) (va : DWord) : M Unit := do
  match ← sourcePa core k key va with
  | .error f => stallCmd core k f
  | .ok pa =>
    let s ← get
    match s.place pa with
    | .lost n => stallCmd core k ⟨Cls.homelost, 0, va, BitVec.ofNat 64 n⟩
    | .error => readRefused core k key va pa
    | .here => do
      let line := lineOf pa
      need (!(isLocal line && (s.home line).held) && !s.olderRecord k line)
      let d := s.sourceData k line
      if k.sumsPoison va d then stallCmd core k ⟨Cls.poison, 0, va, 0⟩ else keepRead core k key d false

/-- ENGINE-READ of the line at an address (R80). -/
def execEngineRead (core : Nat) (id : BitVec 16) (va : DWord) (s : State) : Host.Outcome State Fault Refusal :=
  moveStep s do
    let s ← get
    match s.cmd? core id with
    | none => waitM
    | some k =>
      need (!k.stalled)
      match (s.unread k).find? fun (key, _) => key % 2 ^ 64 == va.toNat / 128 * 128 with
      | none => waitM
      | some (key, a) => engineRead core k key (BitVec.ofNat 64 a)

/-! ## ENGINE-WRITE (R80, R81) -/

/-- A destination line is done with; the last one ends the command. -/
def lineDone (core : Nat) (id : BitVec 16) (line : Nat) (old : Option LineData) (t : Option Time) : M Unit := do
  modCmd core id fun k =>
    { k with
      todo := k.todo.filter (· != line)
      done := (old.map fun d => (⟨line, d⟩ : OldLine)).toList ++ k.done
      lastWts := match t, k.lastWts with
        | some a, some b => some (serialMax a b)
        | some a, none => some a
        | none, b => b
      running := true }
  if isLocal line then modHome line fun h => { h with records := h.records.filter (· != (core, id)) } else pure ()
  match (← get).cmd? core id with
  | some k => if k.todo.isEmpty then finishCmd core id else pure ()
  | none => pure ()

/-- The first destination address of a line. -/
def firstVa (runs : List Run) : DWord := match runs.head? with
  | some r => r.piece.dst + BitVec.ofNat 64 r.at_
  | none => 0

/-- The command's record is the oldest on a line (R80). A line of a peer has no records (R274), and those of a lost pair are
gone (R61). -/
def State.recordOldest (s : State) (core : Nat) (id : BitVec 16) (line : Nat) : Bool :=
  !isLocal line || s.place (line * 128) != .here || ((s.home line).records.head? == some (core, id) && !(s.home line).held)

/-- A write that gets an error response (R14, R280). -/
def writeRefused (core : Nat) (k : Cmd) (line : Nat) (va : DWord) : M Unit := do
  copyError core k va (line * 128)
  lineDone core k.id line none none

/-- Writes an image at a destination line, at home. -/
def writeOut (core : Nat) (k : Cmd) (line : Nat) (va : DWord) (d : LineData) (mask : BitVec 128) : M Unit := do
  let s ← get
  match s.place (line * 128) with
  | .lost _ =>
    copyRaise k (copyRec k Cls.homelost 0 va)
    lineDone core k.id line none none
  | .error => writeRefused core k line va
  | .here =>
    if isLocal line then clearOwner line else pure ()
    let old := (← get).homeData line
    let mask := (← get).open_ line mask
    if mask = 0 then lineDone core k.id line none none
    else
      let t ← storeHome core line d mask
      lineDone core k.id line (some old) (if isLocal line then some t else none)

/-- A slot is named by a matrix instruction. -/
def MatOp.names : MatOp → List Slot
  | .mma d b .. => [d, b]
  | .mzero d => [d]
  | .mdrn _ s .. => [s]
  | .mdst s .. => [s]
  | .mpois _ s _ => [s]

/-- A matrix instruction that issued before a CPYOB into a slot it names has yet to perform (R253). -/
def State.slotBusy (s : State) (k : Cmd) : Bool :=
  (Tab.vals s.cores).any fun c => c.matrix.any fun m =>
    m.team == k.team && decide (m.iseq < k.iseq) && m.op.names.any fun n => n.toNat == k.block.dst.toNat % 64

/-- The FP32 or narrower element `j` of row `r` of a CPYOB's source. -/
def Cmd.obElem (k : Cmd) (rowBytes n r j : Nat) : Nat × Bool :=
  let bs := (List.range n).map fun i =>
    (k.byte? (farFrom k.block.src (r * strideOf k.block.arg 0) + BitVec.ofNat 64 (j * n + i)) none).getD (0, false, true)
  if rowBytes < j * n + n then (0, true) else (leVal (bs.map (·.1)), bs.any (·.2.2))

/-- Some source byte came from a poisoned sector (R277). -/
def Cmd.sourcePoison (k : Cmd) (fmt : SlotFmt) : Bool := (k.sources fmt).any fun (a, pkg, n) =>
  (lineRuns (n / 128 + 2) a.toNat n).any fun (at_, _, m) => match k.read.find? (·.va == sourceKey at_ pkg) with
    | some r => r.data.poisoned (at_ % 128) m
    | none => false

/-- The tile that a CPYOB writes (R209, R277). Elements answered with an error keep their values (R280). The elements of a QNT block
that holds a NaN or an infinity are canonical NaNs (log 118). -/
def Cmd.tile (k : Cmd) (old : SlotRec) : SlotRec :=
  let rb := k.block.rowBytes old.fmt
  let n := rb / 128
  let keys := List.range (tileRows old.fmt * 128)
  let elem (e : Nat) : Nat × Bool := k.obElem rb n (e / 128) (e % 128)
  let pack (f : Nat → Nat) (scale : Word) : SlotRec :=
    { old with
      data := keys.filterMap fun e =>
        let (v, bad) := elem e
        let x : Word := if bad then Tab.get old.data e 0 else BitVec.ofNat 32 (f v)
        if x = 0 then none else some (e, x)
      scale
      tpois := k.sourcePoison old.fmt }
  if k.block.qnt then
    let ty : F8 := if old.fmt = .e5m2 then .e5m2 else .e4m3
    let mags := (keys.map elem).filterMap fun (v, bad) => if bad then none else some (BitVec.ofNat 32 v &&& 0x7FFFFFFF : Word)
    let top := mags.foldl (fun m v => if m.toNat < v.toNat then v else m) 0
    let (scale, inv, _) := blockScale ty (mags.any fun m => decide (0x7F800000 ≤ m.toNat)) top
    let g := if ty = .e5m2 then Fmt.e5m2 else Fmt.e4m3
    pack (fun v => g.round .rne 0 true ((Fmt.f32.value v).mul (f32Value inv))) scale
  else pack (fun v => v) (k.block.arg.extractLsb' 32 32)

/-- The write of a CPYOB into its slot (R253, R277). A team that has retired has no slot to write. -/
def writeSlot (core : Nat) (k : Cmd) : M Unit := do
  let s ← get
  need (!s.slotBusy k)
  match s.obSlot k with
  | none => pure ()
  | some r => modTeam k.team fun t => { t with slots := Tab.put t.slots (k.block.dst.toNat % 64) (k.tile r) }
  finishCmd core k.id

/-- ENGINE-WRITE of a line; for a CPYOB, `line` names the slot (R80, R277). -/
def execEngineWrite (core : Nat) (id : BitVec 16) (line : Nat) (s : State) : Host.Outcome State Fault Refusal :=
  moveStep s do
    let s ← get
    match s.cmd? core id with
    | none => waitM
    | some k =>
      need (!k.stalled && k.todo.contains line && k.kind != .fred)
      if k.kind = .cpyob then
        need (s.unread k).isEmpty
        writeSlot core k
      else
        let runs := (k.runs s.pkg.fabricNo.toNat).filter (·.line == line)
        need (runs.all fun r => r.piece.pad ||
          (sourceLines (r.piece.src + BitVec.ofNat 64 r.at_, r.piece.spkg, r.n)).all fun (key, _) => k.read.any (·.va == key))
        need (s.recordOldest core id line)
        let (d, mask) := k.outLine runs
        writeOut core k line (firstVa runs) d mask

/-! ## FRED_REDUCE (R278) -/

/-- The bytes of a reduction's results. -/
def Fred.bytes (f : Fred) : List Byte :=
  (f.sum.zip f.bad).flatMap fun (v, b) => leBytesOf (if f.ty = 1 then 2 else 4) (fredResult f.ty.toNat f.x v b)

/-- The root writes its lines. -/
def fredWrite (core : Nat) (k : Cmd) (bytes : List Byte) : M Unit := do
  let s ← get
  let runs := k.runs s.pkg.fabricNo.toNat
  need (k.todo.all (s.recordOldest core k.id))
  each k.todo fun line => do
    let mine := runs.filter (·.line == line)
    let mask := runMask mine
    let d : LineData := ⟨Vector.ofFn fun i : Fin 128 => ((winner mine i.val).bind fun r =>
      bytes[r.at_ + (i.val - r.off)]?).getD 0, 0⟩
    writeOut core k line (firstVa mine) d mask

/-- FRED_REDUCE: every contribution is in, and the root sums, rounds once and writes (R278). -/
def execFredReduce (tag : BitVec 16) (s : State) : Host.Outcome State Fault Refusal :=
  moveStep s do
    let s ← get
    match Tab.find? s.pkg.freds tag.toNat with
    | none => waitM
    | some f =>
      need (f.got == f.contribs)
      if f.root = s.pkg.fabricNo then
        match f.dest with
        | none => waitM
        | some (core, id) => match s.cmd? core id with
          | none => pure ()
          | some k => fredWrite core k f.bytes
      else pure ()
      modPkg fun p => { p with freds := Tab.erase p.freds tag.toNat }

end Sys2Proof.Machine
end

