-- ==== Sys2Proof/Machine/Copy.lean ====
section
/-!
DEFINITION. Issue of copy commands, and CPYQ (R80, R269 to R281).
-/
namespace Sys2Proof.Machine

/-! ## Loads of the group that a command makes at issue (R73, R270) -/

/-- Bytes of one line as device-scope relaxed loads of `unit` bytes each that perform now, with forwarding (R73). They may find
no home, an error response or poison (R14, R60, R61). -/
def loadNow (g : Group) (a : Access) (va : DWord) (x : Xlat) (n unit : Nat) : M (Except XFault (List Byte)) := do
  let addrs := upFrom x.pa n
  need (g.stores.all fun y => !(y.isAtomic && y.acc.stream == a.stream && y.acc.older a))
  let across := g.stores.filter fun y => !y.inScratch && y.acc.older a && y.addrs.any addrs.contains
  need (across.all fun y => y.forwards && addrs.all y.addrs.contains)
  match youngest? across with
  | some f => pure (.ok (addrs.map fun a => (f.byteAt? a).getD 0))
  | none =>
    match placeFault va x.pa ((← get).place x.pa) with
    | some f => pure (.error f)
    | none =>
      let line := lineOf x.pa
      let d ← if x.cls = .sys then do
          sysLine line
          pure ((← get).homeData line)
        else do
          let (d, w) ← readL1 g.core g.ctx line .dev x.cls
          match w with
          | none => pure ()
          | some t => jump g.core t
          pure d
      let off := x.pa % 128
      match (upFrom off n).find? fun i => d.poison.getLsbD (i / 32) with
      | some i => pure (.error ⟨Cls.poison, 0, va + BitVec.ofNat 64 ((i - off) / unit * unit), BitVec.ofNat 64 (line * 128 + i / 32 * 32)⟩)
      | none => pure (.ok (d.slice off n))

/-- A load of the Armature stream that performs now, or loads of `unit` bytes side by side. It faults as an SLD would (R237). -/
def groupLoad (g : Group) (va : DWord) (n unit : Nat) : M (List Byte) := do
  let x ← armAccess g ⟨.load, some .dev, 1, false, false⟩ va
  let seq ← fresh
  match ← loadNow g ((armMaker (← get) g seq .dev .rlx).access seq x.cls x.pts) va x n unit with
  | .ok bs => pure bs
  | .error f => throw (.faults [(0, f)])

/-- The parts of the index list of GATH or SCAT, line by line, after the bytes that have been read (R272, R276). -/
def Block.listRuns (b : Block) (got : List Byte) : List (Nat × Nat × Nat) :=
  let n := 4 * bitsOf b.arg 63 32
  (lineRuns (n / 128 + 2) b.ext0.toNat n).filter fun (a, _, _) => decide (b.ext0.toNat + got.length ≤ a)

/-- The indices of a list. -/
def Block.indices (b : Block) (bs : List Byte) : List Word := (List.range (bitsOf b.arg 63 32)).map fun i => field32 bs (4 * i)

/-- The next line of an index list, if there is one. -/
def readRun (g : Group) : List (Nat × Nat × Nat) → M (List Byte)
  | [] => pure []
  | (a, _, n) :: _ => groupLoad g (BitVec.ofNat 64 a) n 4

/-! ## Limits (R272 to R278) -/

/-- Every one of some values is a multiple of 16. -/
def by16 (l : List DWord) : Bool := l.all fun v => v.extractLsb' 0 4 == 0

/-- The fields of a block are inside their limits (R270 step 2). -/
def Block.legal (k : CmdKind) (b : Block) (slot : Option SlotRec) : Bool :=
  match k with
  | .cpy => decide (b.arg.toNat ≤ 2 ^ 32)
  | .cpys => by16 [b.src, b.dst, b.arg &&& 0xFFFFFFFF, b.ext1, b.ext1 >>> 32, b.ext2, b.ext2 >>> 32, b.ext3, b.ext3 >>> 32] &&
      (bitsOf b.ext0 17 16 == 0 || bitsOf b.ext0 47 32 != 0)
  | .cpyw =>
    let p := bitsOf b.arg 55 52
    decide (bitsOf b.arg 57 56 ≤ 2 ∧ bitsOf b.arg 51 48 ≠ 0 ∧ bitsOf b.arg 39 32 ≠ 0 ∧ bitsOf b.arg 47 40 ≠ 0 ∧
      bitsOf b.arg 39 32 ≤ bitsOf b.arg 31 16 + 2 * p ∧ bitsOf b.arg 47 40 ≤ bitsOf b.arg 15 0 + 2 * p)
  | .gath | .scat =>
    decide (1 ≤ bitsOf b.arg 31 0 ∧ bitsOf b.arg 31 0 ≤ 65536 ∧ bitsOf b.arg 63 32 ≤ 65536 ∧ b.ext0.toNat % 4 = 0)
  | .cpyob =>
    b.dst.extractLsb' 6 58 == 0 && by16 [b.src, b.arg &&& 0xFFFFFFFF] && match slot with
      | none => false
      | some r => r.fmt != .acc && !(b.qnt && r.fmt == .bf16)
  | .fred =>
    decide (1 ≤ bitsOf b.arg 31 0 ∧ bitsOf b.arg 31 0 ≤ 2 ^ 20 ∧ bitsOf b.ext0 23 16 ≠ 0) &&
      [0, 1, 6].contains (bitsOf b.arg 35 32)
  | .dup => true

/-! ## Pages (R270 step 3) -/

/-- The first of each group of addresses that share a 64 KiB page, in order. -/
def firstInPage : List Nat → List (Nat × DWord) → List (Nat × DWord)
  | [], acc => acc.reverse
  | a :: l, acc =>
    firstInPage l (if acc.any (·.1 == a / 0x10000) then acc else (a / 0x10000, BitVec.ofNat 64 a) :: acc)

/-- Addresses of a run, one at its start and one at the start of each further page. -/
def pageStarts (va n : Nat) : List Nat :=
  if n = 0 then [] else va :: (upFrom (va / 0x10000 + 1) ((va + n - 1) / 0x10000 - va / 0x10000)).map (· * 0x10000)

/-- Translates a command's destination pages. -/
def dstPages (g : Group) (sharded : Bool) : List (Nat × DWord) → M (List DstPage)
  | [] => pure []
  | (page, va) :: rest => do
    let x ← accessM g.core g.ctx va .store none
    if x.cls = .sys ∨ (!sharded ∧ region x.pa ≠ .local_) then faultM Cls.scope 0 va x.leaf
    let s ← get
    let base := x.pa / 0x10000 * 0x10000
    match if sharded then Place.here else s.place x.pa with
    | .lost k => faultM Cls.homelost 0 va (BitVec.ofNat 64 k)
    | _ => pure ()
    let more ← dstPages g sharded rest
    pure (⟨page, base, x.cls, x.pts⟩ :: more)

/-- A source page that is now system-coherent raises SCOPE; nothing else of it is checked before it is read. -/
def checkSources (g : Group) : List (Nat × DWord) → M Unit
  | [] => pure ()
  | (_, va) :: rest => do
    if !nonCanonical va then
      match ((← get).peek g.ctx va).getLast? with
      | some (level, _, e) =>
        if entryValid e && (level == 0 || (level == 1 && e.getLsbD 7)) && leafClass e == some .sys then
          faultM Cls.scope 0 va e
      | none => pure ()
    checkSources g rest

/-! ## The instructions -/

/-- The command names its rows by an index list. -/
def CmdKind.lists (k : CmdKind) : Bool := k == .gath || k == .scat

/-- A copy command at issue: the steps of R270, then ENGINE-ISSUE. Where there is an index list, the load of the block is a step of
its own, and so is that of each line of the list, before ENGINE-ISSUE (R67). The destination of a GATH does not depend on its
list. -/
def issueCopy (kind : CmdKind) (d a : SReg) (s : State) : Host.Outcome State Fault Refusal :=
  armSteps s fun gid g => do
    need (decide (((← get).core g.core).engine.length < Config.engineQueue) && counterRoom g.work .cpc)
    let va := g.work.sreg a
    if va.toNat % 64 ≠ 0 then faultM Cls.align 0 va 0
    let b ← match g.work.list with
      | some p => pure p.block
      | none => do pure (Block.ofBytes (← groupLoad g va 64 64))
    let t ← theTeam g.team
    let slot := Tab.find? t.slots (b.dst.toNat % 64)
    if !b.legal kind slot then illegalM
    let seq ← fresh
    let k0 : Cmd :=
      { id := 0, ctx := g.ctx, group := gid, level := g.level, kind, block := b, at_ := va, iseq := seq
        index := List.replicate (if kind = .gath then bitsOf b.arg 63 32 else 0) 0
        oor := 0, pages := [], todo := [], done := [], read := [], lastWts := none, running := false, stalled := false
        err := false, until_ := 0, sent := false, team := g.team, grid := t.grid }
    let dst (k : Cmd) : M (List DstPage) := dstPages g (b.shd && kind == .cpys && bitsOf b.ext0 17 16 != 0)
      (firstInPage (k.pieces.flatMap fun p => pageStarts p.dst.toNat p.n) [])
    let isRoot := b.ext0.extractLsb' 24 8 == (← get).pkg.fabricNo
    let k ← match kind with
      | .cpyob => pure { k0 with todo := [b.dst.toNat % 64] }
      | .fred => if isRoot then do pure { k0 with pages := ← dst k0 } else pure k0
      | .scat => pure k0
      | _ => do pure { k0 with pages := ← dst k0 }
    let got := (g.work.list.map (·.got)).getD []
    let runs := if kind.lists then b.listRuns got else []
    if !runs.isEmpty then
      let bs ← if g.work.list.isNone then pure [] else readRun g runs
      modWork gid g.level ({ · with list := some ⟨b, got ++ bs⟩ })
      return false
    let k := if kind.lists then { k with index := b.indices got } else k
    let k ← if kind = .scat then do pure { k with pages := ← dst k } else pure k
    checkSources g (firstInPage ((k.sources ((slot.map (·.fmt)).getD .e4m3)).flatMap fun r => pageStarts r.1.toNat r.2.2) [])
    let oor := (k.index.filter fun i => !b.inRange i).length
    if b.flt && 0 < oor then faultM Cls.permission 5 0 0
    let id ← nextIdent g.core
    let own := (← get).pkg.fabricNo.toNat
    let lines := if kind = .cpyob then k.todo else sortNat (dedup ((k.runs own).map (·.line)))
    let k := { k with id, oor, todo := lines }
    placeCmd g.core k
    modify (·.event g.core g.ctx 0x09)
    modWork gid g.level fun w => { (w.raise .cpc).result d (id.setWidth 64) with list := none }
    if lines.isEmpty && kind != .fred then finishCmd g.core id
    return true

/-- CPY (R273). -/
def execCpy (d a : SReg) (s : State) : Host.Outcome State Fault Refusal := issueCopy .cpy d a s
/-- CPYS (R273, R274). -/
def execCpys (d a : SReg) (s : State) : Host.Outcome State Fault Refusal := issueCopy .cpys d a s
/-- CPYW (R275). -/
def execCpyw (d a : SReg) (s : State) : Host.Outcome State Fault Refusal := issueCopy .cpyw d a s
/-- GATH (R276). -/
def execGath (d a : SReg) (s : State) : Host.Outcome State Fault Refusal := issueCopy .gath d a s
/-- SCAT (R276). -/
def execScat (d a : SReg) (s : State) : Host.Outcome State Fault Refusal := issueCopy .scat d a s
/-- CPYOB (R277). -/
def execCpyob (d a : SReg) (s : State) : Host.Outcome State Fault Refusal := issueCopy .cpyob d a s
/-- FRED (R278). -/
def execFred (d a : SReg) (s : State) : Host.Outcome State Fault Refusal := issueCopy .fred d a s

/-- A status of R281. -/
def cmdStatus (id : BitVec 16) (oor state : Nat) (flt err : Bool) : DWord :=
  BitVec.ofNat 64 (id.toNat * 2 ^ 48 + min oor 0xFFFF * 2 ^ 32 + state * 2 ^ 30 + (if flt then 2 ^ 29 else 0) +
    (if err then 2 ^ 28 else 0))

/-- The status of one of the 64 most recent commands of a context at an engine (R281). One that has neither kept a source line nor
finished a destination line is still queued (log 124). -/
def Core.copyStatus (c : Core) (ctx : Nat) (id : BitVec 16) : DWord :=
  match c.engine.find? (fun k => k.id == id && k.ctx == ctx && c.recent ctx k.iseq) with
  | some k => cmdStatus id k.oor (if k.running then 2 else 1) k.stalled k.err
  | none => match c.status.find? (fun k => k.id == id && k.ctx == ctx) with
    | some k => cmdStatus id k.oor 3 k.flt k.err
    | none => cmdStatus id 0 0 false false

/-- CPYQ (R281). -/
def execCpyq (d a : SReg) (s : State) : Host.Outcome State Fault Refusal :=
  armM s fun gid g => do
    let c := (← get).core g.core
    modWork gid g.level (·.result d (c.copyStatus g.ctx ((g.work.sreg a).setWidth 16)))

end Sys2Proof.Machine
end

