-- ==== Sys2Proof/Machine/Launch.lean ====
section
/-!
DEFINITION. The two device-side launches at issue (R135, R183, R184, R230, R231, R282).
-/
namespace Sys2Proof.Machine

/-- LAUNCH (R135, R183, R184). Its checks come before the load (R166). -/
def execLaunch (d a b : SReg) (s : State) : Host.Outcome State Fault Refusal :=
  armM s fun gid g => do
    let va := g.work.sreg a
    let q := bitsOf (g.work.sreg b) 5 0
    if va.extractLsb' 0 7 ≠ 0 then faultM Cls.align 0 va 0
    need (g.work.tokensRetired && g.accessesDone)
    let _ ← armAccess g ⟨.load, some .dev, 128, false, false⟩ va
    if !(← get).bound q g.ctx then throw (.faults [(0, unboundFault)])
    releaseCore g.core
    let image ← groupLoad g va 128 128
    let status ← launchInto q g.ctx [image]
    modWork gid g.level (·.result d (status.setWidth 64))

/-- VLAUNCH at issue: its checks in every active lane, the queue's binding among them, then one load of 128 bytes a lane, each
an entry of the load point. The moves that perform them do the rest (R135, R230, R231, log 61). -/
def execVlaunch (c : Ctl) (d : VReg) (m : MemOp) (wq : WReg) (s : State) : Host.Outcome State Fault Refusal :=
  laneM s (.vlaunch c d m wq) c fun x act => do
    laneReady x .ldc
    let q := (x.cursor.token.w[wq.toNat]'(wq.isLt)).toNat % 64
    let l ← laneChecked x act ⟨.load, some .dev, 128, false, false⟩ (x.src m.va).poison (x.memAddr m) (fun _ => [])
      fun s _ => if s.bound q x.g.ctx then none else some unboundFault
    let n ← fresh
    modWork x.gid x.g.level (·.raise .ldc)
    modGroup x.gid fun g => { g with launches := g.launches ++
      [{ iseq := n, queue := q, images := [], dest := d.val, act, gp := x.guardPoison c }] }
    makeLoads x (laneMaker (← get) x n .dev .rlx .ldc) .launch 128 (x.guardPoison c) d false l

end Sys2Proof.Machine
end

