-- ==== Sys2Proof/Machine/Grids.lean ====
section
/-!
DEFINITION. Launch-queue entries up to the start of a grid, and completion words (R8, R125, R249, R282 to R286, R310).
-/
namespace Sys2Proof.Machine

/-! ## Entries and packets (R283, R284) -/

/-- A little-endian field of an entry image. -/
def imageNat (b : List Byte) (off n : Nat) : Nat := leVal ((b.drop off).take n)

/-- The packet of an entry (R284). -/
def packetOf (b : List Byte) : LaunchPacket :=
  let at_ (off n : Nat) : Nat := imageNat b (0x40 + off) n
  { entry := BitVec.ofNat 64 (at_ 0 8), table := BitVec.ofNat 64 (at_ 8 8), gx := at_ 0x10 4, gy := at_ 0x14 2, gz := at_ 0x16 2
    groups := at_ 0x18 1, flags := BitVec.ofNat 8 (at_ 0x19 1), curve := BitVec.ofNat 8 (at_ 0x1A 1)
    tile := BitVec.ofNat 8 (at_ 0x1B 1), scratch := at_ 0x1C 4
    counts := [at_ 0x20 1, at_ 0x21 1, at_ 0x22 1, at_ 0x23 1], budgets := [at_ 0x24 1, at_ 0x25 1, at_ 0x26 1, at_ 0x27 1]
    obuf := at_ 0x28 4, bar := at_ 0x2C 4, arg := BitVec.ofNat 64 (at_ 0x30 8), done := BitVec.ofNat 64 (at_ 0x38 8) }

/-- DADDR, DVAL, COND, PRIO and FLAGS of an entry (R283). -/
def QEntry.daddr (e : QEntry) : DWord := BitVec.ofNat 64 (imageNat e.image 0 8)
def QEntry.dval (e : QEntry) : Nat := imageNat e.image 8 8
def QEntry.cond (e : QEntry) : Nat := imageNat e.image 0x10 1
def QEntry.prioByte (e : QEntry) : Nat := imageNat e.image 0x11 1
def QEntry.flags (e : QEntry) : Nat := imageNat e.image 0x12 2
def QEntry.packet (e : QEntry) : LaunchPacket := packetOf e.image

/-- The launch priority (R283). -/
def QEntry.prio (e : QEntry) : Nat :=
  if e.prioByte.testBit 3 then e.prioByte % 8 else e.packet.flags.toNat % 8

/-- The entry's groups are in the elastic register class (R135, R283). -/
def QEntry.elastic (e : QEntry) : Bool := e.prio == 0 || e.packet.flags.getLsbD 3 || e.device

/-- The entry has no dependence (R283). -/
def QEntry.free (e : QEntry) : Bool := e.daddr == 0 || e.cond == 0

/-- Vector registers of a team (R125). -/
def LaunchPacket.teamRegs (p : LaunchPacket) : Nat := ((p.counts.zip p.budgets).map fun (c, b) => c * b).sum

/-- Teams of a grid (R124). -/
def LaunchPacket.teams (p : LaunchPacket) : Nat := p.gx * p.gy * p.gz

/-- A reserved field that is not zero, or a reserved COND (code 0x07). -/
def QEntry.reserved (e : QEntry) : Bool :=
  decide (2 < e.cond) || decide (16 ≤ e.prioByte) || decide (4 ≤ e.flags) || imageNat e.image 0x14 12 != 0 ||
    imageNat e.image 0x20 32 != 0 || decide (32 ≤ e.packet.flags.toNat)

/-- The check of R286: the lowest code of those that hold (log 62). -/
def QEntry.check (e : QEntry) : Option Nat :=
  let p := e.packet
  let cb := p.counts.zip p.budgets
  if p.groups < 1 ∨ 16 < p.groups ∨ p.counts.sum ≠ p.groups then some 0x01
  else if cb.any (fun (c, b) => c != 0 && (decide (b < 8) || decide (224 < b))) then some 0x02
  else if 4096 < p.teamRegs then some 0x03
  else if p.scratch % 1024 ≠ 0 ∨ 524288 < p.scratch then some 0x04
  else if p.obuf % 16384 ≠ 0 ∨ 1048576 < p.obuf then some 0x05
  else if 3 < p.curve.toNat ∨ 15 < p.tile.toNat then some 0x06
  else if e.reserved then some 0x07
  else if p.bar % 8 ≠ 0 ∨ p.entry.toNat % 4 ≠ 0 ∨ p.table.toNat % 8 ≠ 0 ∨ p.done.toNat % 8 ≠ 0 ∨ e.daddr.toNat % 8 ≠ 0 then some 0x08
  else if 2 ^ 32 < p.teams then some 0x0A
  else none

/-! ## Completion words (R8, R286, R310, R322, R327) -/

/-- A core's die is not lost. -/
def State.alive (s : State) (core : Nat) : Bool := !s.pkg.lost.contains (dieOf core)

/-- The core that performs a write of the part for a queue: one of those named, else core 0 of die q mod 8, else of a die that
remains (log 63). -/
def State.partCore (s : State) (prefs : List Nat) (q : Nat) : Nat :=
  ((prefs ++ [q % 8 * Config.coresPerDie] ++ (List.range 8).map (· * Config.coresPerDie)).find? s.alive).getD 0

/-- Writes a completion word at device scope, with release order. If the write faults, by its alignment too (R90), nothing is
written, and ERRLOG keeps kind 2 with the rejection code and the queue (R8, R286, R312). -/
def writeCompletion (core ctx q code value : Nat) (va : DWord) : M Unit := do
  releaseCore core
  if va.toNat % 8 ≠ 0 then logError ctx 2 (code + q % 64 * 256)
  else match ← partStore core ctx va (leBytesOf 8 value) with
    | .ok _ => pure ()
    | .error _ => logError ctx 2 (code + q % 64 * 256)

/-! ## Eligibility (R285) -/

/-- The SERIAL condition of the head of a queue (R283). -/
def State.serialMet (s : State) (x : Queue) (e : QEntry) : Bool :=
  !e.flags.testBit 0 || match x.lastGrid with
    | none => true
    | some g => (Tab.find? s.grids g).isNone

/-- The head entry has passed its checks, its dependence is met and SERIAL holds. -/
def State.headReady (s : State) (x : Queue) (e : QEntry) : Bool :=
  e.checked && e.depMet && e.grid.isNone && s.serialMet x e

/-- Notes the entries that have become eligible. -/
def noteEligible : M Unit := do
  let s ← get
  each s.queues fun (q, x) => match x.entries with
    | e :: rest =>
      if s.headReady x e && e.eligibleAt == 0 then do
        let n ← fresh
        modify (·.updQueue q fun x => { x with entries := { e with eligibleAt := n } :: rest })
      else pure ()
    | [] => pure ()

/-- Changes the head entry of a queue. -/
def modHead (q : Nat) (f : QEntry → QEntry) : M Unit :=
  modify (·.updQueue q fun x => match x.entries with
    | e :: rest => { x with entries := f e :: rest }
    | [] => x)

/-- The head entry leaves its queue. -/
def popHead (q : Nat) (grid : Option Nat) : M Unit :=
  modify (·.updQueue q fun x => { x with entries := x.entries.drop 1, head := x.head + 1, lastGrid := grid })

/-- The scheduler runs: the part computes, and it is not draining for HOLD (R319, R320). -/
def headOfQueue (q : Nat) : M (Nat × Queue × QEntry) := do
  let s ← get
  need s.computes
  let x := s.queue q
  match x.ctx, x.entries with
  | some c, e :: _ => do
    need ((s.ctx c).state == .open)
    pure (c, x, e)
  | _, _ => waitM

/-- ENTRY_REJECT: the rejection code goes to the completion word and the queue moves on (R286). -/
def reject (q ctx : Nat) (e : QEntry) (code : Nat) : M Unit := do
  writeCompletion ((← get).partCore [] q) ctx q code (2 ^ 63 + code) e.packet.done
  popHead q none
  noteEligible

/-- The head entry as it stands in the ring: read there, once, behind everything that the host has written (R282, R326). An entry
that cannot be read holds its queue up (log 60). -/
def readHead (q ctx : Nat) (x : Queue) (e : QEntry) : M QEntry := do
  match e.unread with
  | none => pure e
  | some k => do
    let core := (← get).partCore [] q
    jump core ((← get).core Config.hostAgent).pts
    match ← partLoad core ctx (x.base + BitVec.ofNat 64 (128 * k)) 128 with
    | .error _ => waitM
    | .ok (image, _) => do
      let e := { e with image, unread := none }
      modHead q fun _ => e
      pure e

/-- QUEUE_HEAD_CHECK (R286). -/
def execQueueHeadCheck (q : Nat) (s : State) : Host.Outcome State Fault Refusal :=
  moveStep s do
    let (c, x, e) ← headOfQueue q
    need (!e.checked)
    let e ← readHead q c x e
    match e.check with
    | some code => reject q c e code
    | none =>
      modHead q fun e => { e with checked := true, depMet := e.free }
      noteEligible

/-- The condition of an entry holds on a value of its dependence word (R283). -/
def QEntry.holds (e : QEntry) (v : Nat) : Bool := if e.cond = 1 then v == e.dval else decide (e.dval ≤ v)

/-- DEPENDENCE_READ: an 8-byte device-scope acquire load in the queue's context (R285, R286, log 63). -/
def execDependenceRead (q : Nat) (s : State) : Host.Outcome State Fault Refusal :=
  moveStep s do
    let (c, _, e) ← headOfQueue q
    need (e.checked && !e.depMet)
    match ← partLoad ((← get).partCore [] q) c e.daddr 8 with
    | .error _ => reject q c e 0x09
    | .ok (bs, w) =>
      if e.holds (leVal bs) then
        modHead q fun e => { e with depMet := true, depTime := w }
        noteEligible
      else pure ()

/-! ## GRID_START (R285) -/

/-- The order of R285 among launches: higher launch priority, then earlier to be eligible, then lower queue. -/
def ahead (prio order q : Nat) : Nat := ((7 - prio) * 2 ^ 64 + order) * 64 + q

/-- The eligible entries. -/
def State.eligible (s : State) : List (Nat × Nat × QEntry) :=
  s.queues.filterMap fun (q, x) => match x.ctx, x.entries with
    | some c, e :: _ => if (s.ctx c).state == .open && s.headReady x e then some (q, c, e) else none
    | _, _ => none

/-- The grid of an entry. -/
def QEntry.makeGrid (e : QEntry) (q ctx : Nat) : Grid :=
  { ctx, queue := q, packet := e.packet, prio := e.prio, elastic := e.elastic, notify := e.flags.testBit 1
    order := e.eligibleAt, cursor := q % 8 * Config.coresPerDie, placed := 0, depTime := e.depTime, firstKill := none
    killed := false, cores := [] }

/-- GRID_START: the scheduler takes the eligible entry that comes first. A grid with a zero dimension places no team (R125,
R285, R287). -/
def execGridStart (s : State) : Host.Outcome State Fault Refusal :=
  moveStep s do
    let s ← get
    need s.computes
    match minOf? (fun (q, _, e) => ahead e.prio e.eligibleAt q) s.eligible with
    | none => waitM
    | some (q, c, e) =>
      let id := s.nextGrid
      let grid : Grid := e.makeGrid q c
      modify fun s => { s with grids := Tab.put s.grids id grid, nextGrid := id + 1 }
      modHead q ({ · with grid := some id })
      if grid.packet.teams = 0 then popHead q (some id) else pure ()

/-! ## COMPLETION_WORD_WRITE (R8, R136, R310) -/

/-- Dirty bytes of a core's non-coherent lines go home, through the RDC of its die for lines homed elsewhere (R8). -/
def flushNoncoh (core : Nat) : M Unit := do
  let s ← get
  each ((s.core core).l1.filter fun (_, l) => match l.kind with
    | .noncoh d => d != 0
    | _ => false) fun (line, _) => noncohBack core line

/-- The RDC of a die writes its dirty non-coherent lines home (R8, R319). -/
def flushRdc (die : Nat) : M Unit := do
  let s ← get
  each ((s.rdc.filter fun (k, r) => k / 2 ^ 45 == die && r.dirty != 0).map (·.1 % 2 ^ 45)) (rdcClean die)

/-- Every team of the grid has been placed and has retired, and its copies have completed (R8, R136). -/
def State.gridOver (s : State) (id : Nat) (d : Grid) : Bool :=
  decide (d.placed = d.packet.teams) && (Tab.vals s.teams).all (·.grid != id) &&
    (Tab.vals s.cores).all fun c => c.engine.all (·.grid != id)

/-- What a finished grid's completion word receives (R8, R310). -/
def Grid.completion (d : Grid) : Nat :=
  if d.killed then 2 ^ 63 + 0x100 + (d.firstKill.map (·.toNat)).getD 0 else 1

/-- The end of a grid that is over, with the write of its completion word at a core (R8, R310). The core JUMPs to LEAD first, which
no time of a store of the grid's cores passes, so that the word is in release order behind them all (R8, R285, log 109). While no
clock runs it waits (R107). -/
def finishGrid (id : Nat) (write : Grid → Nat → M Unit) : M Unit := do
  let d ← theGrid id
  let s ← get
  need (s.clocked && s.gridOver id d && ((Tab.vals s.queues).all fun x => x.entries.all (·.grid != some id)))
  let cores := d.cores.filter s.alive
  each cores fun c => do
    releaseCore c
    flushNoncoh c
  each (dedup (cores.map dieOf)) flushRdc
  jump (s.partCore cores d.queue) (← get).lead
  write d (s.partCore cores d.queue)
  modify fun s => { s with grids := Tab.erase s.grids id }
  if d.notify then signal d.queue else pure ()
  noteEligible

/-- COMPLETION_WORD_WRITE (R8, R310). -/
def execCompletionWordWrite (id : Nat) (s : State) : Host.Outcome State Fault Refusal :=
  moveStep s (finishGrid id fun d core => writeCompletion core d.ctx d.queue 0 d.completion d.packet.done)

end Sys2Proof.Machine
end

