-- ==== Sys2Proof/Machine/Matrix.lean ====
section
/-!
DEFINITION. Operand-buffer slots, the matrix unit and the tensor monitors (R249 to R268, R311).
-/
namespace Sys2Proof.Machine

/-! ## Slots (R250 to R252) -/

/-- A new reservation (R250). -/
def SlotRec.new (fmt : SlotFmt) : SlotRec := ⟨fmt, [], 0x3F800000, false, 0⟩

/-- OBRES (R251). -/
def execObres (d a : SReg) (n : Slot) (fmt : SlotFmt) (s : State) : Host.Outcome State Fault Refusal :=
  armM s fun gid g => do
    let t ← theTeam g.team
    let p := (← theGrid t.grid).packet
    let status : DWord :=
      if g.work.sreg a ≠ 16384 then 3
      else if (Tab.find? t.slots n.toNat).isSome then 2
      else if p.obuf / 16384 ≤ t.slots.length then 1
      else 0
    if status = 0 then modTeam g.team fun t => { t with slots := Tab.put t.slots n.toNat (.new fmt) }
    modWork gid g.level (·.result d status)

/-- A matrix instruction of a team that names a slot has yet to perform. -/
def State.matrixNames (s : State) (team n : Nat) : Bool :=
  (Tab.vals s.cores).any fun c => c.matrix.any fun m => m.team == team && m.op.names.any fun x => x.toNat == n

/-- The CPYOBs of a team into a slot that have yet to complete, at whichever core they were issued: core and identifier. -/
def State.fills (s : State) (team n : Nat) : List (Nat × BitVec 16) :=
  s.cores.flatMap fun (c, k) =>
    (k.engine.filter fun k => k.kind == .cpyob && k.team == team && k.block.dst.toNat % 64 == n).map fun k => (c, k.id)

/-- OBREL (R252). -/
def execObrel (n : Slot) (s : State) : Host.Outcome State Fault Refusal :=
  armM s fun gid g => do
    need g.work.tokensRetired
    let s ← get
    need (!s.matrixNames g.team n.toNat && (s.fills g.team n.toNat).isEmpty)
    modTeam g.team fun t => { t with slots := Tab.erase t.slots n.toNat }
    nextPc gid g.level

/-! ## Monitors (R265 to R267) -/

/-- A count that saturates. -/
def satInc (w : Word) : Word := if w = 0xFFFFFFFF then w else w + 1

/-- A monitor as a context finds it: another context's use resets it first (R267). -/
def Monitor.forCtx (m : Monitor) (ctx : Nat) : Monitor := if m.ctx = some ctx then m else { Monitor.init with ctx := some ctx }

/-- A write to CLEAR (R265). -/
def Monitor.clear (m : Monitor) : Monitor := { m with nan := 0, flag := 0, bins := Vector.replicate 32 0 }

/-- Monitor of R266: what it becomes, the value passed on, and whether it traps. -/
def Monitor.pass (m : Monitor) (x : Word) : Monitor × Word × Bool :=
  if isNan x then ({ m with nan := satInc m.nan }, f32Nan, m.act == 2)
  else
    let e := x.extractLsb' 23 8
    let b := min (e.toNat - 111) 31
    let m := { m with bins := m.bins.setIfInBounds b (satInc ((m.bins[b]?).getD 0)) }
    if f32Lt x m.lo || f32Lt m.hi x then
      ({ m with flag := satInc m.flag }, if m.act = 1 then (if f32Lt x m.lo then m.lo else m.hi) else x, m.act == 2)
    else (m, x, false)

/-- Values passed through a monitor in order, and the first that trapped. -/
def Monitor.passAll (m : Monitor) : List Word → Monitor × List Word × Option Word
  | [] => (m, [], none)
  | x :: xs =>
    let (m, y, trap) := m.pass x
    let (m, ys, t) := Monitor.passAll m xs
    (m, y :: ys, if trap then some x else t)

/-- A core's monitor. -/
def Core.monitor (c : Core) (n : Nat) : Monitor := (c.mons[n]?).getD Monitor.init

def Core.setMonitor (c : Core) (n : Nat) (m : Monitor) : Core := { c with mons := c.mons.setIfInBounds n m }

/-- Writes an item (R265, R267). -/
def Monitor.setItem (m : Monitor) (item : TmItem) (v : Word) : Monitor :=
  match item with
  | .cfg => { m with act := v.extractLsb' 0 2 }
  | .lo => { m with lo := v }
  | .hi => { m with hi := v }
  | .nancnt => { m with nan := v }
  | .flagcnt => { m with flag := v }
  | .clear => m.clear
  | .bin b => { m with bins := m.bins.setIfInBounds b.toNat v }

/-- Reads an item (R265). -/
def Monitor.item (m : Monitor) (item : TmItem) : Word :=
  match item with
  | .cfg => m.act.setWidth 32
  | .lo => m.lo
  | .hi => m.hi
  | .nancnt => m.nan
  | .flagcnt => m.flag
  | .clear => 0
  | .bin b => (m.bins[b.toNat]?).getD 0

/-- TMSET (R265, R267). -/
def execTmset (n : BitVec 4) (item : TmItem) (a : SReg) (s : State) : Host.Outcome State Fault Refusal :=
  armM s fun gid g => do
    let v : Word := (g.work.sreg a).setWidth 32
    if item = .cfg ∧ v.extractLsb' 0 2 = 3 then illegalM
    modCore g.core fun c => c.setMonitor n.toNat (((c.monitor n.toNat).forCtx g.ctx).setItem item v)
    nextPc gid g.level

/-- TM_CLEAR: the write to CLEAR by itself (R265). -/
def execTmClear (core ctx : Nat) (n : BitVec 4) (s : State) : Host.Outcome State Fault Refusal :=
  .next (if core < Config.cores then
    s.updCore core fun c => c.setMonitor n.toNat ((c.monitor n.toNat).forCtx ctx).clear else s)

/-- TMGET (R265, R267). -/
def execTmget (d : SReg) (n : BitVec 4) (item : TmItem) (s : State) : Host.Outcome State Fault Refusal :=
  armM s fun gid g => do
    modCore g.core fun c => c.setMonitor n.toNat ((c.monitor n.toNat).forCtx g.ctx)
    let m := ((← get).core g.core).monitor n.toNat
    modWork gid g.level (·.result d ((m.item item).setWidth 64))

/-! ## Issue (R253, R255, R260, R263) -/

/-- A slot that must be reserved with a format the instruction accepts; else ILLEGAL (R253). -/
def slotM (x : LaneCx) (n : Slot) (ok : SlotFmt → Bool) : M SlotRec := do
  match Tab.find? (← theTeam x.g.team).slots n.toNat with
  | some r => if ok r.fmt then pure r else illegalM
  | none => illegalM

def isAcc (f : SlotFmt) : Bool := f == .acc
def isFp8 (f : SlotFmt) : Bool := f == .e4m3 || f == .e5m2

/-- Sends a matrix instruction to the unit. It waits there for the CPYOBs into its slots that came before it (R253). -/
def sendMatrix (x : LaneCx) (c : Ctl) (act : Word) (iseq word : Nat) (op : MatOp) : M Unit := do
  let seq ← fresh
  let s ← get
  let after := op.names.flatMap fun n => s.fills x.g.team n.toNat
  modCore x.g.core fun k => { k with matrix := k.matrix ++
    [{ seq, iseq, group := x.gid, level := x.g.level, team := x.g.team, mask := act, gp := x.guardPoison c
       pair := x.paired, op, pc := x.cursor.pc, word := word / 2 ^ 64, cur := x.cur, after }] }

/-- The five matrix instructions that use MXC at issue (R255). -/
def laneMatrix (s : State) (i : Instr) (c : Ctl) (op : LaneCx → Word → M MatOp) : Host.Outcome State Fault Refusal :=
  laneM s i c fun x act => do
    need (counterRoom x.g.work .mxc)
    let op ← op x act
    let n ← fresh
    modWork x.gid x.g.level (·.raise .mxc)
    sendMatrix x c act n s.focus.word op

/-- The A registers and row scales of an MMA or MMAB, by way of the reuse latch (R260). With no active lane only a filling
with RU changes the latch (R255). -/
def latchM (x : LaneCx) (act : Word) (a : VReg) (v : Src) (kind : Option F8) (ru : Bool) : M (List VVal × VVal) := do
  match x.g.work.latch with
  | none =>
    let regs := (upFrom a.val 32).map x.g.work.vreg
    let scale := x.src v
    if ru then modWork x.gid x.g.level fun w => { w with latch := some ⟨a, v, kind, regs, scale⟩ }
    pure (regs, scale)
  | some l =>
    if l.va ≠ a ∨ l.vb ≠ v ∨ l.kind ≠ kind then illegalM
    if !ru && act != 0 then modWork x.gid x.g.level fun w => { w with latch := none }
    pure (l.a, l.scale)

/-- MMA (R257, R260). -/
def execMma (c : Ctl) (d : Slot) (a : VReg) (v : Src) (b : Slot) (ty : F8) (ru : Bool) (s : State) :
    Host.Outcome State Fault Refusal :=
  laneMatrix s (.mma c d a v b ty ru) c fun x act => do
    let _ ← slotM x d isAcc
    let _ ← slotM x b isFp8
    let (regs, scale) ← latchM x act a v (some ty) ru
    pure (.mma d b (some ty) regs scale)

/-- MMAB (R257, R260). -/
def execMmab (c : Ctl) (d : Slot) (a : VReg) (v : Src) (b : Slot) (ru : Bool) (s : State) :
    Host.Outcome State Fault Refusal :=
  laneMatrix s (.mmab c d a v b ru) c fun x act => do
    let _ ← slotM x d isAcc
    let _ ← slotM x b (· == .bf16)
    let (regs, scale) ← latchM x act a v none ru
    pure (.mma d b none regs scale)

/-- MZERO (R261). -/
def execMzero (c : Ctl) (d : Slot) (s : State) : Host.Outcome State Fault Refusal :=
  laneMatrix s (.mzero c d) c fun x _ => do
    let _ ← slotM x d isAcc
    pure (.mzero d)

/-- MDRN (R262). -/
def execMdrn (c : Ctl) (a : VReg) (v : Slot) (g : BitVec 2) (n : BitVec 4) (s : State) :
    Host.Outcome State Fault Refusal :=
  laneMatrix s (.mdrn c a v g n) c fun x _ => do
    let _ ← slotM x v isAcc
    pure (.mdrn a v g n)

/-- MPOIS (R264). -/
def execMpois (c : Ctl) (q : QReg) (v : Slot) (clr : Bool) (s : State) : Host.Outcome State Fault Refusal :=
  laneMatrix s (.mpois c q v clr) c fun x _ => do
    let _ ← slotM x v fun _ => true
    pure (.mpois q v clr)

/-- The lines of one lane's row, checked (R233, R263). -/
def rowLines (x : LaneCx) (k : Check) (l : Nat) : List DWord → M (Except XFault (List LaneAcc))
  | [] => pure (.ok [])
  | va :: rest => do
    match ← checkLane x.g.core x.g.ctx k false va with
    | .error f => pure (.error f)
    | .ok t => match ← rowLines x k l rest with
      | .error f => pure (.error f)
      | .ok more => pure (.ok (⟨l, va, t⟩ :: more))

/-- The checks of one lane of an MDST (R233, R263, R311). -/
def mdstLane (x : LaneCx) (act poison : Word) (addr : Nat → DWord) (sc : Scope) (lines l : Nat) :
    M (Except XFault (List LaneAcc)) :=
  match pairedFault x act poison (fun l => addrWords (addr l)) addr l with
  | some f => pure (.error f)
  | none =>
    if poison.getLsbD l then pure (.error ⟨Cls.poison, 0, addr l, 0⟩)
    else rowLines x ⟨.store, some sc, 128, false, false⟩ l
      ((List.range lines).map fun i => addr l + BitVec.ofNat 64 (128 * i))

/-- MDST: its checks and its entries, which have no bytes yet (R263). It waits for older instructions on its slot, whose
poison it checks. -/
def execMdst (c : Ctl) (m : MemOp) (v : Slot) (n : BitVec 4) (bf16 : Bool) (sc : Scope) (od : Order) (s : State) :
    Host.Outcome State Fault Refusal :=
  laneM s (.mdst c m v n bf16 sc od) c fun x act => do
    laneReady x .stc
    let r ← slotM x v isAcc
    need (!(← get).matrixNames x.g.team v.toNat)
    let addr := x.memAddr m
    let poison := (x.src m.va).poison ||| r.rpois
    let l ← eachLane (mdstLane x act poison addr sc (if bf16 then 2 else 4)) (x.accessLanes act) [] []
    let seq ← fresh
    modWork x.gid x.g.level (·.raise .stc)
    let mk := laneMaker (← get) x seq sc od .stc
    if l.isEmpty then makeStores x mk .store [] fun a => ⟨a.lane, a.va, a.x.pa, [], 0, 0, false⟩
    else
      makeStores x mk .mdst l.flatten fun a =>
        ⟨a.lane, a.va, a.x.pa, List.replicate 128 0, (a.va - addr a.lane) / 128, 0, false⟩
      sendMatrix x c act seq s.focus.word (.mdst v n bf16)

/-! ## The unit (R253, R257 to R264) -/

/-- `n` elements of a slot from key `lo` on; unlisted ones are zero. -/
def denseFrom : Tab Word → Nat → Nat → List Word
  | _, _, 0 => []
  | [], lo, n + 1 => 0 :: denseFrom [] (lo + 1) n
  | (k, a) :: t, lo, n + 1 => if k = lo then a :: denseFrom t (lo + 1) n else 0 :: denseFrom ((k, a) :: t) (lo + 1) n

/-- The rows of a slot, each of 128 elements. -/
def SlotRec.rows (r : SlotRec) (n : Nat) : List (List Word) :=
  let l := denseFrom r.data 0 (n * 128)
  (List.range n).map fun i => (l.drop (128 * i)).take 128

/-- Rows as a slot's data. -/
def ofRows (rows : List (List Word)) : Tab Word :=
  (List.zip (List.range (rows.length * 128)) rows.flatten).filter fun (_, x) => x != 0

/-- A row added element by element. -/
def addRow (sums : List FVal) (a : FVal) (b : List FVal) : List FVal :=
  (sums.zip b).map fun (s, b) => s.add false (a.mul b)

/-- The exact sums S of one row (R257, R258). -/
def blockSums : List FVal → List (List FVal) → List FVal → List FVal
  | a :: as, b :: bs, sums => blockSums as bs (addRow sums a b)
  | _, _, sums => sums

/-- A(i, k) of R257. -/
def aElems (kind : Option F8) (a : List VVal) (i : Nat) : List FVal :=
  a.flatMap fun v =>
    let w := (v.get i).toNat
    match kind with
    | some ty =>
      let f := if ty = .e5m2 then Fmt.e5m2 else Fmt.e4m3
      (List.range 4).map fun k => f.value (w / 2 ^ (8 * k) % 256)
    | none => (List.range 2).map fun k => Fmt.bf16.value (w / 2 ^ (16 * k) % 65536)

/-- The format of a tile's elements. -/
def tileFmt (f : SlotFmt) : Fmt := match f with
  | .e4m3 => Fmt.e4m3
  | .e5m2 => Fmt.e5m2
  | _ => Fmt.bf16

/-- The new accumulator row of an active lane (R257, R258). -/
def mmaRow (a : List FVal) (b : List (List FVal)) (scale tile : FVal) (acc : List Word) : List Word :=
  let sums := blockSums a b (List.replicate 128 (.fin (.zero false)))
  (acc.zip sums).map fun (x, sum) =>
    let v := f32Round .rne 0 ((sum.mul scale).mul tile)
    f32Round .rne 0 ((f32Value x).add false (f32Value v))

/-- The MMA or MMAB on its slots (R257 to R259). -/
def SlotRec.mma (d b : SlotRec) (kind : Option F8) (a : List VVal) (scale : VVal) (mask : Word) : SlotRec :=
  let tile := (b.rows (tileRows b.fmt)).map fun r => r.map fun w => (tileFmt b.fmt).value w.toNat
  let poison := a.foldl (fun p v => p ||| v.poison) scale.poison ||| (if b.tpois then BitVec.allOnes 32 else 0)
  { d with
    data := ofRows ((List.range 32).zip (d.rows 32) |>.map fun (i, row) =>
      if mask.getLsbD i then mmaRow (aElems kind a i) tile (f32Value (scale.get i)) (f32Value b.scale) row else row)
    rpois := d.rpois ||| (poison &&& mask) }

/-- MZERO on its slot (R261). -/
def SlotRec.zeroRows (d : SlotRec) (mask : Word) : SlotRec :=
  { d with data := d.data.filter (fun (k, _) => !mask.getLsbD (k / 128)), rpois := d.rpois &&& ~~~mask }

/-- Rows passed through a monitor, lane by lane, and the first trap: its lane and value (log 122). -/
def drainRows : Monitor → List (Nat × List Word) → Monitor × List (Nat × List Word) × Option (Nat × Word)
  | m, [] => (m, [], none)
  | m, (i, row) :: rest =>
    let (m, ys, trap) := m.passAll row
    let (m, more, t) := drainRows m rest
    (m, (i, ys) :: more, match trap with
      | some x => some (i, x)
      | none => t)

/-- A record of a fault found at the unit. -/
def unitRecs (m : MatInstr) (l : List (Nat × XFault)) : List Rec :=
  recsOf m.pc (BitVec.ofNat 32 m.word) (if m.cur then 2 else 1) true l

/-- Raises a fault found at the unit in its group, if the group is still there. -/
def unitRaise (m : MatInstr) (l : List (Nat × XFault)) : M Unit := do
  match (← get).group? m.group with
  | none => pure ()
  | some _ => raise m.group m.level (unitRecs m l)

/-- BOUND (R262, R263, R299). -/
def boundFault (n : BitVec 4) (va : DWord) (lane : Nat) (x : Word) : Nat × XFault :=
  (lane, ⟨Cls.bound, 0, va, x ++ n.setWidth 32⟩)

/-- The chosen columns of the active lanes' rows. -/
def activeRows (r : SlotRec) (mask : Word) (lo n : Nat) : List (Nat × List Word) :=
  ((List.range 32).zip (r.rows 32)).filterMap fun (i, row) =>
    if mask.getLsbD i then some (i, (row.drop lo).take n) else none

/-- MDRN at the unit (R262). One BOUND record names the first lane that traps (log 122). -/
def performDrain (core ctx : Nat) (m : MatInstr) (va : VReg) (r : SlotRec) (g : BitVec 2) (n : BitVec 4) : M Unit := do
  if m.mask = 0 then pure ()
  else
    let mon := (((← get).core core).monitor n.toNat).forCtx ctx
    let (mon, rows, trap) := drainRows mon (activeRows r m.mask (32 * g.toNat) 32)
    modCore core (·.setMonitor n.toNat mon)
    match trap with
    | some (i, x) => unitRaise m [boundFault n 0 i x]
    | none =>
      modWork m.group m.level fun w => (List.range 32).foldl (fun w c => w.arrive (va.val + c) fun old =>
        rows.foldl (fun v (i, ys) => v.setLane i ((ys[c]?).getD 0) (r.rpois.getLsbD i || m.gp.getLsbD i)) old) w

/-- The bytes of a row in memory (R263). -/
def rowBytes (bf16 : Bool) (row : List Word) : List Byte :=
  row.flatMap fun x =>
    if bf16 then leBytesOf 2 (Fmt.bf16.round .rne 0 false (f32Value x)) else leBytesOf 4 x.toNat

/-- The address of a lane's row: where its MDST stores it (R263, R297). -/
def State.rowVa (s : State) (m : MatInstr) (lane : Nat) : DWord := match s.group? m.group with
  | none => 0
  | some g =>
    let mine := (g.stores.filter fun e => e.acc.iseq == m.iseq).flatMap (·.elems)
    ((mine.find? fun x => x.lane == (if m.pair then lane % 16 else lane) && x.b == 0).map (·.va)).getD 0

/-- PAIR where rows i and i + 16 differ after the monitor (R299, R311). -/
def rowPairs (va : Nat → DWord) (rows : List (Nat × List Word)) : List (Nat × XFault) :=
  rows.filterMap fun (i, a) =>
    match rows.find? (·.1 == i + 16) with
    | none => none
    | some (_, b) => ((a.zip b).find? fun (x, y) => x != y).map fun (x, y) => (i, ⟨Cls.pair, 0, va i, y ++ x⟩)

/-- Removes an MDST's entries; STC falls (R263). -/
def dropMdst (m : MatInstr) : M Unit := do
  modify fun s => s.updGroup m.group fun g => { g with stores := g.stores.filter (·.acc.iseq != m.iseq) }
  modWork m.group m.level (·.lower .stc)

/-- Gives an MDST's entries their bytes; they drain from now on (R263). -/
def placeMdst (m : MatInstr) (rows : List (Nat × List Byte)) : M Unit :=
  modify fun s => s.updGroup m.group fun g => { g with stores := g.stores.map fun e =>
    if e.acc.iseq = m.iseq ∧ e.kind = .mdst then
      { e with kind := .store, elems := e.elems.map fun x =>
          { x with data := ((((rows.find? (·.1 == x.lane)).map (·.2)).getD []).drop (128 * x.b.toNat)).take 128, b := 0 } }
    else e }

/-- MDST at the unit (R263, R311). One BOUND record names the first lane that traps (log 122). -/
def performMdst (core ctx : Nat) (m : MatInstr) (r : SlotRec) (n : BitVec 4) (bf16 : Bool) : M Unit := do
  let mon := (((← get).core core).monitor n.toNat).forCtx ctx
  let (mon, rows, trap) := drainRows mon (activeRows r m.mask 0 128)
  modCore core (·.setMonitor n.toNat mon)
  let va := (← get).rowVa m
  let diff := if m.pair then rowPairs va rows else []
  match trap with
  | some (i, x) =>
    dropMdst m
    unitRaise m [boundFault n (va i) i x]
  | none =>
    if diff.isEmpty then placeMdst m (rows.map fun (i, row) => (i, rowBytes bf16 row))
    else
      dropMdst m
      unitRaise m diff

/-- The poison bits that MPOIS reports (R264). -/
def SlotRec.poisonBits (r : SlotRec) : Word := if r.fmt = .acc then r.rpois else if r.tpois then BitVec.allOnes 32 else 0

/-- MPOIS.CLR (R264). -/
def SlotRec.clearPoison (r : SlotRec) (mask : Word) : SlotRec :=
  if r.fmt = .acc then { r with rpois := r.rpois &&& ~~~mask } else if mask = 0 then r else { r with tpois := false }

/-- What a matrix instruction does when it performs. A slot of a team that has gone is not there to act on. -/
def performOp (core : Nat) (m : MatInstr) : M Unit := do
  match Tab.find? (← get).teams m.team with
  | none => pure ()
  | some t =>
    let slot (n : Slot) : Option SlotRec := Tab.find? t.slots n.toNat
    let write (n : Slot) (r : SlotRec) : M Unit := modTeam m.team fun t => { t with slots := Tab.put t.slots n.toNat r }
    match m.op with
    | .mma d b kind a scale =>
      modify (·.event core t.ctx 0x03)
      match slot d, slot b with
      | some x, some y => write d (x.mma y kind a scale m.mask)
      | _, _ => pure ()
    | .mzero d => match slot d with
      | some x => write d (x.zeroRows m.mask)
      | none => pure ()
    | .mdrn va s g n => match slot s with
      | some x => performDrain core t.ctx m va x g n
      | none => pure ()
    | .mdst s n bf16 => match slot s with
      | some x => performMdst core t.ctx m x n bf16
      | none => pure ()
    | .mpois q s clr => match slot s with
      | some x =>
        modWork m.group m.level fun w => w.setQ q ((w.qreg q).write x.poisonBits 0 m.mask)
        if clr then write s (x.clearPoison m.mask) else pure ()
      | none => pure ()

/-- An instruction waits for a CPYOB that came before it (R253). -/
def State.awaitsFill (s : State) (m : MatInstr) : Bool := m.after.any fun (c, id) => (s.cmd? c id).isSome

/-- An earlier instruction of its group stands at another core, where the group was before (R253, R268). One of another group there
holds nothing back (log 123). -/
def State.leftBehind (s : State) (core : Nat) (m : MatInstr) : Bool :=
  s.cores.any fun (c, k) => c != core && k.matrix.any fun x => x.group == m.group && decide (x.seq < m.seq)

/-- The instruction the unit performs next: the first that waits neither for a CPYOB, nor behind an instruction that does,
of its group or on a slot it names (R253, R268, log 123). -/
def State.nextMatrix (s : State) (core : Nat) : List MatInstr → List Nat → List (Nat × Slot) → Option MatInstr
  | [], _, _ => none
  | m :: rest, groups, slots =>
    if s.awaitsFill m || s.leftBehind core m || groups.contains m.group || m.op.names.any (fun n => slots.contains (m.team, n)) then
      s.nextMatrix core rest (m.group :: groups) (m.op.names.map (fun n => (m.team, n)) ++ slots)
    else some m

/-- MATRIX_PERFORM (R253, R255). -/
def execMatrixPerform (core : Nat) (s : State) : Host.Outcome State Fault Refusal :=
  moveStep s do
    let s ← get
    match s.nextMatrix core (s.core core).matrix [] [] with
    | none => waitM
    | some m =>
      modCore core fun c => { c with matrix := c.matrix.filter (·.seq != m.seq) }
      performOp core m
      match m.op with
      | .mdst .. => pure ()
      | _ => modWork m.group m.level (·.lower .mxc)

end Sys2Proof.Machine
end

