-- ==== Sys2Proof/Machine/Place.lean ====
section
/-!
DEFINITION. The work distributor: visit orders, room, placing a team, saving and placing it again (R86, R119, R120, R126,
R164, R287, R288, R292 to R294, R305).
-/
namespace Sys2Proof.Machine

/-! ## Visit order (R287) -/

/-- The part of a rectangle of one axis that lies in a half of a square of side 2·s, measured from that half. -/
def clipHalf (s half : Nat) (r : Nat × Nat) : Nat × Nat := (r.1 - half * s, min s (r.2 - half * s))

/-- Points of a rectangle, given by its two half-open ranges. -/
def rectCount (u v : Nat × Nat) : Nat := (u.2 - u.1) * (v.2 - v.1)

/-- The map of a Hilbert quarter, its own inverse: reflection where rx is 1, then exchange of u and v, where ry is 0. -/
def hilbertMap (rx ry s : Nat) (p : Nat × Nat) : Nat × Nat :=
  if ry = 1 then p else if rx = 1 then (s - 1 - p.2, s - 1 - p.1) else (p.2, p.1)

/-- A half-open range seen from the other end of a side. -/
def flipRange (s : Nat) (r : Nat × Nat) : Nat × Nat := (s - r.2, s - r.1)

/-- The same map on a rectangle. -/
def hilbertRect (rx ry s : Nat) (u v : Nat × Nat) : (Nat × Nat) × (Nat × Nat) :=
  if ry = 1 then (u, v) else if rx = 1 then (flipRange s v, flipRange s u) else (v, u)

/-- Quarter `d` of a curve: its place along u and along v. -/
def quarter (hilbert : Bool) (d : Nat) : Nat × Nat :=
  if hilbert then (d / 2 % 2, (d ^^^ (d / 2)) % 2) else (d % 2, d / 2 % 2)

/-- Point `k` of those that a Hilbert or Morton curve of side 2^t visits inside a rectangle. -/
def curveNth (hilbert : Bool) : Nat → (Nat × Nat) → (Nat × Nat) → Nat → Nat × Nat
  | 0, _, _, _ => (0, 0)
  | t + 1, u, v, k =>
    let s := 2 ^ t
    let part (d : Nat) : (Nat × Nat) × (Nat × Nat) :=
      let (a, b) := quarter hilbert d
      (clipHalf s a u, clipHalf s b v)
    let n (d : Nat) : Nat := rectCount (part d).1 (part d).2
    let d := if k < n 0 then 0 else if k < n 0 + n 1 then 1 else if k < n 0 + n 1 + n 2 then 2 else 3
    let k := k - ((List.range d).map n).sum
    let (a, b) := quarter hilbert d
    let (cu, cv) := part d
    let (p, q) := if hilbert then
        let (ru, rv) := hilbertRect a b s cu cv
        hilbertMap a b s (curveNth hilbert t ru rv k)
      else curveNth hilbert t cu cv k
    (a * s + p, b * s + q)

/-- Point `k` of a tile of w by h valid places (R287). -/
def tileNth (c t w h k : Nat) : Nat × Nat :=
  if c = 0 then (0, 0)
  else if c = 3 then (if k / w % 2 = 1 then w - 1 - k % w else k % w, k / w)
  else curveNth (c == 2) t (0, w) (0, h) k

/-- The linear index of the team that comes `k`-th in the visit order (R287). -/
def teamIndex (p : LaunchPacket) (k : Nat) : Nat :=
  let c := p.curve.toNat
  let t := if c = 0 then 0 else p.tile.toNat
  let n := 2 ^ t
  let z := k / (p.gx * p.gy)
  let r := k % (p.gx * p.gy)
  let ty := r / (n * p.gx)
  let h := min n (p.gy - ty * n)
  let r := r - ty * n * p.gx
  let tx := r / (n * h)
  let w := min n (p.gx - tx * n)
  let (u, v) := tileNth c t w h (r - tx * n * h)
  tx * n + u + p.gx * (ty * n + v + p.gy * z)

/-! ## The context save area (R305) -/

/-- 64 KiB units of a save area. -/
def Ctx.saveUnits (x : Ctx) : Nat := bitsOf x.savebase 15 0 * 32

/-- The first free run of `n` units at or after a unit. -/
def runFrom (used : List (Nat × Nat)) (total n : Nat) : Nat → Nat → Option Nat
  | 0, _ => none
  | fuel + 1, u =>
    if total < u + n then none
    else match used.find? fun (a, k) => decide (a < u + n ∧ u < a + k) with
      | none => some u
      | some (a, k) => runFrom used total n fuel (a + k)

/-- A free run of units, the first one from a unit that the part chooses (R305, log 4). -/
def Ctx.freeRun (x : Ctx) (n pick : Nat) : Option Nat :=
  let total := x.saveUnits
  match runFrom x.units total n (x.units.length + 1) (pick % max total 1) with
  | some u => some u
  | none => runFrom x.units total n (x.units.length + 1) 0

/-- The virtual address of a unit. -/
def Ctx.unitAddr (x : Ctx) (u : Nat) : DWord := BitVec.ofNat 64 (bitsOf x.savebase 56 21 * 2 ^ 21 + u * 2 ^ 16)

/-- Takes a record of `n` units; the answer is its virtual address. -/
def takeRecord (ctx n : Nat) : M DWord := do
  let k ← draw
  let x := (← get).ctx ctx
  match x.freeRun n (Config.saveUnit k) with
  | none => waitM
  | some u =>
    modCtx ctx fun x => { x with units := (u, n) :: x.units }
    pure (x.unitAddr u)

/-- The area has room for `n` single units. -/
def Ctx.hasUnits (x : Ctx) (n : Nat) : Bool := decide ((x.units.map (·.2)).sum + n ≤ x.saveUnits)

/-- Units of a team save record (R305). -/
def recordUnits (p : LaunchPacket) : Nat := (p.scratch + p.obuf + 4096 + 0xFFFF) / 0x10000

/-! ## Room (R288) -/

/-- What teams take of a core: groups, operand-buffer bytes, scratch bytes, pinned registers, elastic groups. -/
structure Room where
  groups : Nat
  obuf   : Nat
  scratch : Nat
  pinned : Nat
  elastic : Nat
deriving DecidableEq, Repr

def Room.zero : Room := ⟨0, 0, 0, 0, 0⟩
def Room.add (a b : Room) : Room :=
  ⟨a.groups + b.groups, a.obuf + b.obuf, a.scratch + b.scratch, a.pinned + b.pinned, a.elastic + b.elastic⟩

/-- What a new team of a grid takes. -/
def Grid.room (d : Grid) : Room :=
  ⟨d.packet.groups, d.packet.obuf, d.packet.scratch, if d.elastic then 0 else d.packet.teamRegs,
   if d.elastic then d.packet.groups else 0⟩

/-- The vector budget of a role. -/
def LaunchPacket.budget (p : LaunchPacket) (role : Nat) : Nat := (p.budgets[role]?).getD 0

/-- What a team takes with the groups it still has (R292, R310). -/
def State.teamRoom (s : State) (t : Team) : Room :=
  match Tab.find? s.grids t.grid with
  | none => Room.zero
  | some d =>
    let n := t.groups.length
    ⟨n, d.packet.obuf, d.packet.scratch,
     if d.elastic then 0 else (t.groups.map fun g => ((s.group? g).map fun x => d.packet.budget x.role).getD 0).sum,
     if d.elastic then n else 0⟩

/-- The teams resident on a core. -/
def State.teamsOn (s : State) (core : Nat) : List (Nat × Team) :=
  s.teams.filter fun (_, t) => t.core == core && t.saved.isNone

/-- What a core holds, but for some teams. -/
def State.used (s : State) (core : Nat) (without : List Nat) : Room :=
  ((s.teamsOn core).filter fun (i, _) => !without.contains i).foldl (fun r (_, t) => r.add (s.teamRoom t)) Room.zero

/-- The conditions of R288 that a core sets. -/
def Room.fits (r : Room) : Bool :=
  decide (r.groups ≤ Config.residentGroups ∧ r.obuf ≤ 1048576 ∧ r.scratch ≤ 524288 ∧ r.pinned ≤ Config.coreRegs) &&
    (r.elastic == 0 || decide (r.pinned + Config.unpinnedRegs ≤ Config.coreRegs))

/-- A core has room for a team, with some of its teams gone. -/
def State.hasRoom (s : State) (core : Nat) (need : Room) (without : List Nat) : Bool :=
  s.alive core && ((s.used core without).add need).fits

/-- The cores in cursor order (R288). -/
def coresFrom (cursor : Nat) : List Nat := (List.range Config.cores).map fun i => (cursor + i) % Config.cores

/-- The first core with room for a team. -/
def State.findCore (s : State) (cursor : Nat) (r : Room) : Option Nat := (coresFrom cursor).find? (s.hasRoom · r [])

/-! ## Elastic registers (R292) -/

/-- The liveness mask of the block that begins at an address: the 32 bytes before it (R161, R292). -/
def State.liveMask (s : State) (ctx : Nat) (start : DWord) : Nat :=
  match s.peekPa ctx (start - 32) with
  | none => 0
  | some pa => leVal (Memory.getBytes s.mem pa 32)

/-- The work of a group whose registers the register file of its core may hold: what runs, and while a handler runs the group's own
(R292, R305). Each comes with whether it is the group's own. -/
def Group.works (g : Group) : List (Bool × Work) :=
  (g.handler.isNone, g.work) :: (g.handler.map fun h => (true, h.saved)).toList

/-- A cached register of some work is dead: some cursor runs a block, and every block that runs neither marks it live nor has written
it (R292). -/
def State.dead (s : State) (ctx : Nat) (w : Work) (r : Nat) : Bool :=
  let blocks := [w.cur0, w.cur1].filterMap id
  !blocks.isEmpty && blocks.all fun c => match c.start with
    | none => false
    | some st => !(s.liveMask ctx st).testBit r && !c.wrote.contains r

/-- Work whose registers a core caches: its group, whether it is the group's own, its context. -/
structure Holding where
  gid  : Nat
  own  : Bool
  ctx  : Nat
  work : Work
deriving DecidableEq, Repr

/-- The elastic work in the register file of a core. -/
def State.elasticOn (s : State) (core : Nat) : List Holding :=
  s.groups.flatMap fun (i, g) =>
    if g.present && g.core == core then (g.works.filter (·.2.elastic)).map fun (own, w) => ⟨i, own, g.ctx, w⟩ else []

/-- Some cached register of the core is dead. -/
def State.anyDead (s : State) (core : Nat) : Bool := (s.elasticOn core).any fun h => h.work.cached.any (s.dead h.ctx h.work)

/-- Vector registers that the register file of a core holds: those of pinned groups and those cached. -/
def State.fileUsed (s : State) (core : Nat) : Nat :=
  ((s.elasticOn core).map fun h => h.work.cached.length).sum + (s.used core []).pinned

/-- The unpinned part of the register file has a place (R292). -/
def State.fileRoom (s : State) (core : Nat) : Bool := decide (s.fileUsed core < Config.coreRegs)

/-- A register leaves the cache: a dead one is dropped, another goes to its image first. -/
def Work.evict (w : Work) (r : Nat) (dead : Bool) : Work :=
  { w with cached := w.cached.filter (· != r), v := Tab.erase w.v r, used := Tab.erase w.used r
           image := if dead then w.image else Tab.put w.image r (w.vreg r) }

/-- The cached register that was used longest ago, and when. -/
def Work.oldest (w : Work) : Option (Nat × Nat) := w.cached.getLast?.map fun r => (r, Tab.get w.used r 0)

/-- The victim that R292 gives a core: a dead register, or where none is dead the least recently used one of all elastic groups
(log 65). -/
def State.victimOn (s : State) (core : Nat) : Option Victim :=
  let held := s.elasticOn core
  match held.findSome? fun h => (h.work.cached.find? (s.dead h.ctx h.work)).map fun r => (⟨h.gid, r, h.own⟩ : Victim) with
  | some v => some v
  | none => (minOf? (·.2) (held.filterMap fun h => h.work.oldest.map fun (r, t) => ((⟨h.gid, r, h.own⟩ : Victim), t))).map (·.1)

/-- A register may be evicted: it is dead, or no register of the core is and none was used before it (R292). -/
def State.mayEvict (s : State) (core : Nat) (v : Victim) : Bool :=
  (s.elasticOn core).any fun h => h.gid == v.group && h.own == v.own && h.work.cached.contains v.reg &&
    (s.dead h.ctx h.work v.reg || (!s.anyDead core && match h.work.oldest with
      | none => false
      | some (r, t) => r == v.reg && (s.elasticOn core).all fun x => match x.work.oldest with
        | none => true
        | some (_, u) => decide (t ≤ u)))

/-- Evicts a register; one that is not dead is written to its image first (R292, R305). -/
def evictVictim (core : Nat) (v : Victim) : M Unit := do
  let s ← get
  need (s.mayEvict core v)
  match (s.elasticOn core).find? fun h => h.gid == v.group && h.own == v.own with
  | none => waitM
  | some h => do
    let dead := s.dead h.ctx h.work v.reg
    if !dead then
      if !(← recordStore v.group (fileOffset v.own v.reg) (h.work.vreg v.reg).bytes) then return
    modGroup v.group fun g => g.updWork (if v.own then 0 else g.level) (·.evict v.reg dead)

/-- Registers of elastic groups leave a core until the file holds what is there (R292): at most `n` of them. -/
def makeFile (core : Nat) : Nat → M Unit
  | 0 => pure ()
  | n + 1 => do
    let s ← get
    if s.fileUsed core ≤ Config.coreRegs then pure ()
    else match s.victimOn core with
      | none => pure ()
      | some v => do
        evictVictim core v
        makeFile core n

/-! ## Placing (R126, R164, R287, R288) -/

/-- Lanes of a group at its start: k0 (R126). -/
def LaunchPacket.lanes (p : LaunchPacket) : Nat := if p.flags.getLsbD 4 then 16 else 32

/-- The work of a group at its start (R126, R164, R202). -/
def startWork (p : LaunchPacket) (elastic : Bool) (role number team : Nat) (record : DWord) : Work :=
  let s0 : Vector DWord 64 := Vector.replicate 64 0
  { pc := p.entry, priv := false
    s := ((((s0.set 2 (record + 0x6000)).set 3 (BitVec.ofNat 64 team)).set 4 p.arg).set 5 (BitVec.ofNat 64 number)).set 6
      (BitVec.ofNat 64 role)
    k := (Vector.replicate 8 (0 : Word)).set 0 (BitVec.ofNat 32 (2 ^ p.lanes - 1))
    w := Vector.replicate 16 0, v := [], q := Vector.replicate 8 ⟨0, 0⟩, budget := p.budget role, elastic, image := []
    cached := [], used := [], cnt := Counters.zero, sprue := [], cur0 := none, cur1 := none, aForks := [], lForks := [], frames := []
    retq := [], latch := none, srseed := 0x2545F491, epoch := 1, gens := [], bar := none, recasts := [], list := none, back := none }

/-- The role of each group of a team in turn (R126). -/
def LaunchPacket.roles (p : LaunchPacket) : List Nat :=
  (p.counts.zip (List.range 4)).flatMap fun (n, j) => List.replicate n j

/-- The lowest resident slot of a core that is not taken (log 64). -/
def State.freeSlot (s : State) (core : Nat) : Nat :=
  let taken := ((Tab.vals s.groups).filter fun g => g.present && g.core == core).map (·.slot)
  ((List.range Config.residentGroups).find? fun i => !taken.contains i).getD 0

/-- A group at its start: resident and ready, not yet active (R289). -/
def startGroup (d : Grid) (team number role core slot index : Nat) (record : DWord) (now : Nat) : Group :=
  { ctx := d.ctx, team, number, role, core, slot, present := true
    work := startWork d.packet d.elastic role number index record
    handler := none, hold := .none, loads := [], stores := [], locks := [], requests := [], launches := [], faults := [], entry := none
    sched := { active := false, ready := true, prio := d.prio, since := now, readyAt := now, issuedAt := now, stalled := none }
    record, nextEntry := 1 }

/-- Makes the groups of a team. -/
def placeGroups (d : Grid) (team core index : Nat) : List (Nat × Nat) → M Unit
  | [] => pure ()
  | (number, role) :: rest => do
    let record ← takeRecord d.ctx 1
    let s ← get
    let gid := s.nextGroup
    let g := startGroup d team number role core (s.freeSlot core) index record s.now
    set { s with groups := Tab.put s.groups gid g, nextGroup := gid + 1
                 teams := Tab.modify s.teams team fun t => { t with groups := t.groups ++ [gid] } }
    placeGroups d team core index rest

/-- A core empties its instruction caches before it places a team of another grid (R55). -/
def freshCode (core grid : Nat) : M Unit :=
  modCore core fun k => if k.lastGrid = some grid then k else { k with icache := [], lcache := [], lastGrid := some grid }

/-- The listed barrier words take their reset value, the live lanes of the team (R137). -/
def Team.initBars (t : Team) (p : LaunchPacket) : Team :=
  if listsBars p then (List.range 16).foldl (fun t i => t.putBar p i ⟨false, 0, p.groups * p.lanes⟩) t else t

/-- The next team of a grid starts on a core (R126, R137, R285, R288). -/
def startTeam (id : Nat) (d : Grid) (core : Nat) : M Unit := do
  freshCode core id
  match d.depTime with
  | none => pure ()
  | some t => jump core t
  let index := teamIndex d.packet d.placed
  let order ← fresh
  let s ← get
  let tid := s.nextTeam
  let t : Team := { ctx := d.ctx, grid := id, index, core, groups := [], scratch := [], bad := [], slots := [], bars := [], saved := none
                    saving := false, placedAt := order }
  set { s with teams := Tab.put s.teams tid (t.initBars d.packet), nextTeam := tid + 1
               grids := Tab.modify s.grids id fun d => { d with placed := d.placed + 1, cursor := core
                                                                cores := core :: d.cores.filter (· != core) } }
  placeGroups d tid core index ((List.range d.packet.groups).zip d.packet.roles)

/-- Puts the next team of a grid on a core; cached registers make way for its pinned ones (R288, R292). -/
def placeTeam (id : Nat) (d : Grid) (core : Nat) : M Unit := do
  startTeam id d core
  makeFile core Config.coreRegs

/-- The grid of a queue whose teams are being placed (R288). -/
def State.placing (s : State) (q : Nat) : Option (Nat × Grid) :=
  List.find? (fun (_, d) => d.queue == q && decide (d.placed < d.packet.teams)) s.grids

/-- A grid's next team could be placed now: a core has room, and so has the save area. -/
def State.canPlace (s : State) (d : Grid) : Bool :=
  (s.findCore d.cursor d.room).isSome && (s.ctx d.ctx).hasUnits d.packet.groups

/-- The launch priority of a team. -/
def State.teamPrio (s : State) (t : Team) : Nat := ((Tab.find? s.grids t.grid).map (·.prio)).getD 0

/-- A saved team could be placed again now (R294). -/
def State.canRestore (s : State) (t : Team) : Bool :=
  t.saved.isSome && (List.range Config.cores).any (s.hasRoom · (s.teamRoom t) [])

/-- The launch that a queue would place from next: the grid it is placing, or the grid of its head entry once that is eligible
(R285, R288). -/
def State.nextLaunch (s : State) (q : Nat) : Option Grid := match s.placing q with
  | some (_, d) => some d
  | none => (List.find? (fun (r, _, _) => r == q) s.eligible).map fun (_, c, e) => e.makeGrid q c

/-- Some launch comes before this one and can place a team now (R285, R288), or this one has not started and a saved team of
its context goes ahead of it (R294). -/
def State.mustYield (s : State) (q : Nat) (d : Grid) : Bool :=
  (List.range 64).any (fun r => r != q && match s.nextLaunch r with
    | none => false
    | some e => decide (0 < e.packet.teams) && decide (ahead e.prio e.order r < ahead d.prio d.order q) && s.canPlace e) ||
  (d.placed == 0 && (Tab.vals s.teams).any fun t => t.ctx == d.ctx && decide (d.prio ≤ s.teamPrio t) && s.canRestore t)

/-- PLACE: the distributor places the next team of a queue's launch on the first core with room from the cursor on. The first
team starts the entry (R282, R287, R288). -/
def execPlace (q : Nat) (s : State) : Host.Outcome State Fault Refusal :=
  moveStep s do
    let s ← get
    need s.computes
    match s.placing q with
    | none => waitM
    | some (id, d) =>
      need ((s.ctx d.ctx).hasUnits d.packet.groups && !s.mustYield q d)
      match s.findCore d.cursor d.room with
      | none => waitM
      | some core =>
        if d.placed = 0 then popHead q (some id) else pure ()
        placeTeam id d core
        noteEligible

/-! ## Saving (R86, R119, R120, R293, R305, R319) -/

/-- A group is in its handler, or about to be. -/
def Group.handling (g : Group) : Bool := g.handler.isSome || g.hold != .none || g.entry.isSome

/-- A team that a launch of a priority may have saved (R293). -/
def State.savable (s : State) (prio : Nat) (t : Team) : Bool :=
  decide (s.teamPrio t < prio) && t.groups.all (fun g => match s.group? g with
    | some x => !x.handling
    | none => true) &&
  match Tab.find? s.grids t.grid with
  | none => false
  | some d => ((s.ctx t.ctx).freeRun (recordUnits d.packet) 0).isSome

/-- The teams of a core in the order in which they are taken: lowest priority first, then the last placed. -/
def State.victims (s : State) (core prio : Nat) : List Nat :=
  let l := (s.teamsOn core).filter fun (_, t) => s.savable prio t
  let rec go : Nat → List (Nat × Team) → List Nat
    | 0, _ => []
    | n + 1, l => match minOf? (fun (_, t) => s.teamPrio t * 2 ^ 64 + (s.nextSeq - t.placedAt)) l with
      | none => []
      | some (i, _) => i :: go n (l.filter fun (j, _) => j != i)
  go l.length l

/-- The shortest part of the list that makes room. -/
def State.shortest (s : State) (core : Nat) (r : Room) (l : List Nat) : Option (List Nat) :=
  ((List.range (l.length + 1)).map l.take).find? (s.hasRoom core r)

/-- The teams that a waiting launch has saved: those of the first core in cursor order that this makes room on (R293). -/
def State.preempts (s : State) (d : Grid) : List Nat :=
  if s.canPlace d || !(s.ctx d.ctx).hasUnits d.packet.groups then []
  else ((coresFrom d.cursor).findSome? fun c => s.shortest c d.room (s.victims c d.prio)).getD []

/-- Some launch that waits for room has the team saved, or the part is draining for HOLD. -/
def State.chosen (s : State) (team : Nat) : Bool :=
  s.draining ||
  (s.computes && (List.range 64).any fun q => match s.placing q with
    | none => false
    | some (_, d) => (s.preempts d).contains team)

/-- What a group to be saved has yet to perform: nothing but lock requests that wait, recasts behind a token that has not
retired, and in HOLD entries that a stalled copy holds (R86, R293, R319, R334, log 39). -/
def State.groupQuiet (s : State) (gid : Nat) : Bool := match s.group? gid with
  | none => true
  | some g => s.quiet gid g && g.faults.isEmpty && g.hold != .vectoring && (s.draining || g.stores.isEmpty)

/-- The team's matrix instructions have performed, and the copies into its slots have completed; in HOLD, but for what a stalled
copy holds (R254, R293, R319). -/
def State.unitQuiet (s : State) (team : Nat) : Bool :=
  let stalled (c : Nat) (id : BitVec 16) : Bool := match s.cmd? c id with
    | some k => k.stalled
    | none => false
  ((Tab.vals s.cores).all fun c => c.matrix.all fun m => m.team != team || (s.draining && m.after.any fun (c, id) => stalled c id)) &&
  (Tab.vals s.cores).all fun c => c.engine.all fun k => k.kind != .cpyob || k.team != team || (s.draining && k.stalled)

/-- A held line of a group to be saved: dirty bytes go home, the copy leaves, ownership is cleared (R120). -/
def dropHeld (g : Group) (line : Nat) : M Unit := do
  match Tab.find? ((← get).core g.core).l1 line with
  | some ⟨.owned _ dirty _, d⟩ =>
    dirtyHome g.core line d dirty
    modCore g.core fun k => { k with l1 := Tab.erase k.l1 line }
    modHome line ({ · with owner := none })
  | _ => pure ()

/-- A group becomes absent (R86, R120, R293). -/
def groupLeaves (gid : Nat) : M Unit := do
  let g ← theGroup gid
  each g.locks fun h => dropHeld g h.line
  let s ← get
  modGroup gid fun g =>
    { g.toPending g.sched.ready s.now (s.launchPrio g) with
      present := false, locks := g.locks.map ({ · with pinned := false }) }

/-- Where a group's record holds the scalar registers of the work that runs: in the saved-state block, or among the hidden state those
of a handler (R305, log 7). -/
def blockOffset (g : Group) : Nat := if g.handler.isSome then 0x400 else 0

/-- A token as the part writes it (log 7). -/
def Token.bytes (t : Token) : List Byte :=
  leBytesOf 2 t.block.toNat ++ leBytesOf 4 t.mask.toNat ++ leBytesOf 4 t.trips.toNat ++
    [BitVec.ofNat 8 (match t.arm with | .none => 0 | .a0 => 1 | .a1 => 2)] ++ t.w.toList.flatMap (fun v => leBytesOf 4 v.toNat) ++
    leBytesOf 4 t.epoch ++ leBytesOf 4 t.seed.toNat

/-- A cursor as the part writes it: its token with the trips that remain, and its counter (log 7). -/
def Cursor.bytes (c : Cursor) : List Byte :=
  c.token.bytes ++ leBytesOf 4 c.trips.toNat ++ leBytesOf 8 (c.start.getD 0).toNat ++ leBytesOf 8 c.pc.toNat

/-- The hidden state of some work but for its frames, forks and reuse latch (R293, R305, log 7): q registers, counters, return queue,
generators, cursors, Sprue, and the poison of its vector registers. -/
def Work.hidden (w : Work) : List Byte :=
  w.q.toList.flatMap (fun x => leBytesOf 4 x.bits.toNat ++ leBytesOf 4 x.poison.toNat) ++
    [w.cnt.ldc, w.cnt.stc, w.cnt.cpc, w.cnt.mxc, w.cnt.rcc, w.cnt.lkc].map (BitVec.ofNat 8 ·) ++
    w.retq.flatMap (fun e => leBytesOf 4 e.value.toNat) ++
    leBytesOf 4 w.srseed.toNat ++ leBytesOf 4 w.epoch ++ (List.range 32).flatMap (fun l =>
      leBytesOf 4 (Tab.get w.gens l ⟨0, 0⟩).g.toNat) ++
    ([w.cur0, w.cur1].filterMap id).flatMap (·.bytes) ++
    w.sprue.flatMap (fun i => match i with
      | .token t => 1 :: t.bytes
      | .forkMark a b => 2 :: (leBytesOf 4 a.toNat ++ leBytesOf 4 b.toNat)
      | .joinMark => [3]) ++
    (List.range w.budget).flatMap fun r => leBytesOf 4 ((if w.elastic then Tab.get w.image r VVal.zero else w.vreg r).poison).toNat

/-- The frame records and the Armature's forks of some work (R131, R133, R305, log 7). -/
def Work.stackBytes (w : Work) : List Byte :=
  w.frames.flatMap (leBytesOf 2 ·) ++
    w.aForks.flatMap fun f => leBytesOf 4 f.mask0.toNat ++ leBytesOf 4 f.mask1.toNat ++ leBytesOf 2 f.depth

/-- What a save writes of the work that runs, at offsets of the group's record (R293 step 4, R305, log 7). -/
def Group.savedParts (g : Group) : List (Nat × List Byte) :=
  let h := g.handler.isSome
  [(blockOffset g, savedBlock g), (if h then 0x670 else 0x270, g.work.hidden), (if h then 0x6A00 else 0x6400, g.work.stackBytes)]

/-- Writes parts of a group's record; the answer says whether the group goes on. -/
def saveParts (gid : Nat) : List (Nat × List Byte) → M Bool
  | [] => pure true
  | (off, bs) :: rest => do
    if ← recordStore gid off bs then saveParts gid rest else pure false

/-- The vector registers that the register file holds for some work of a group, at offsets of its record. -/
def fileParts (own : Bool) (w : Work) : List (Nat × List Byte) :=
  (if w.elastic then w.cached else Tab.keys w.v).map fun r => (fileOffset own r, (w.vreg r).bytes)

/-- Work whose cached registers have all gone to their images. -/
def Work.evictAll (w : Work) : Work := if w.elastic then w.cached.foldl (fun w r => w.evict r false) w else w

/-- Writes a group's state to its record (R293 step 4, R305, log 7): that of the work that runs, and the vector registers that the
register file holds for it and, while a handler runs, for the group's own. Those of elastic work are then in its image. -/
def saveGroup (gid : Nat) : M Unit := do
  let g ← theGroup gid
  if ← saveParts gid (g.savedParts ++ g.works.flatMap fun (own, w) => fileParts own w) then
    modGroup gid fun g => { g with work := g.work.evictAll, handler := g.handler.map fun h => { h with saved := h.saved.evictAll } }
  else pure ()

/-- Ends the groups of a team whose save record faults (R305, R310). -/
def killTeam (ctx : Nat) (groups : List Nat) (va : DWord) : M Unit := do
  logError ctx 5 va.toNat
  each groups fun gid => do
    match (← get).group? gid with
    | none => pure ()
    | some g => killGroup gid (g.entry.map (·.cls))

/-- A slot's data as the part writes it, 16 KiB (R250, log 7). -/
def SlotRec.bytes (r : SlotRec) : List Byte :=
  let n := match r.fmt with | .acc => 4 | .bf16 => 2 | _ => 1
  (List.range (16384 / n)).flatMap fun e => leBytesOf n (Tab.get r.data e 0).toNat

/-- What a save record holds of a team behind its scratchpad and slots (log 7): the format, scale and poison of each slot, the
poisoned sectors of the scratchpad, and the flags of its barrier words. -/
def Team.tailBytes (t : Team) (p : LaunchPacket) : List Byte :=
  t.slots.flatMap (fun (n, r) => [BitVec.ofNat 8 n, match r.fmt with | .e4m3 => 0 | .e5m2 => 1 | .bf16 => 2 | .acc => 3,
      if r.tpois then 1 else 0] ++ leBytesOf 4 r.scale.toNat ++ leBytesOf 4 r.rpois.toNat) ++
    leBytesOf (p.scratch / 256) (t.bad.foldl (fun m k => m ||| 2 ^ k) 0) ++
    t.bars.flatMap fun (i, b) => BitVec.ofNat 8 i ::
      ([b.reg, b.arrived].flatMap fun l => leBytesOf 2 ((List.range t.groups.length).foldl (fun m j =>
        if (t.groups[j]?).any l.contains then m + 2 ^ j else m) 0)) ++ leBytesOf 4 b.deferred

/-- Where a team save record holds the pts of the core (log 7). -/
def ptsOffset (p : LaunchPacket) : Nat := p.scratch + p.obuf + 4094

/-- A team save record, in units of 64 KiB: the scratchpad, the slots in the order of their numbers, and the rest (R305, log 7). -/
def Team.saveUnits (t : Team) (p : LaunchPacket) : List (Nat × List Byte) :=
  let all := t.scratchBytes 0 p.scratch ++ (t.slots.flatMap fun (_, r) => r.bytes) ++ t.tailBytes p
  (List.range (recordUnits p)).map fun u => (u * 0x10000, (all.drop (u * 0x10000)).take 0x10000)

/-- Writes a team's save record; the answer says whether the team goes on. -/
def saveTeamRecord (t : Team) (record : DWord) : List (Nat × List Byte) → M Bool
  | [] => pure true
  | (off, bs) :: rest => do
    match ← partStore t.core t.ctx (record + BitVec.ofNat 64 off) bs with
    | .ok _ => saveTeamRecord t record rest
    | .error f => do
      killTeam t.ctx t.groups f.va
      pure false

/-- TEAM_SAVE: a team that has been chosen stops issuing; once it is quiet its state is written to the save area and its groups
are absent (R86, R119, R120, R254, R293, R305, R319, R334). A team one of whose groups has come to take a fault is let go
again, but in HOLD (R280, R293). -/
def execTeamSave (team : Nat) (s : State) : Host.Outcome State Fault Refusal :=
  moveStep s do
    let t ← theTeam team
    need t.saved.isNone
    let s ← get
    if !t.saving then
      need (s.chosen team)
      modTeam team ({ · with saving := true })
    else if !s.draining && t.groups.any (fun g => ((s.group? g).map (·.handling)).getD false) then
      modTeam team ({ · with saving := false })
    else
      need (t.groups.all s.groupQuiet && s.unitQuiet team)
      let d ← theGrid t.grid
      let record ← takeRecord t.ctx (recordUnits d.packet)
      modTeam team fun t => { t with saved := some ⟨0, record⟩ }
      if ← saveTeamRecord t record (t.saveUnits d.packet) then
        each t.groups saveGroup
        match Tab.find? (← get).teams team with
        | none => pure ()
        | some t =>
          let pts := ((← get).core t.core).pts
          if ← saveTeamRecord t record [(ptsOffset d.packet, leBytesOf 2 pts.toNat)] then
            each t.groups groupLeaves
            modTeam team fun t => { t with saving := false, saved := some ⟨pts, record⟩ }
          else pure ()
      else pure ()

/-! ## Placing again (R119, R120, R294) -/

/-- A group is present again; its held lines have yet to be brought in (R120). One that has come to a fault meanwhile is
vectored (R280, R303). -/
def groupReturns (core : Nat) (gid : Nat) : M Unit := do
  let s ← get
  modGroup gid fun g =>
    { (if g.hold == .none && g.handler.isNone then g.revector else g) with
             core, slot := s.freeSlot core, present := true
             sched := { g.sched with active := false, ready := true, readyAt := s.now, since := s.now, stalled := none } }

/-- Reads parts of a group's record back; the answer says whether the group goes on. -/
def loadParts (gid : Nat) : List (Nat × List Byte) → M Bool
  | [] => pure true
  | (off, bs) :: rest => do
    let back ← recordLoad gid off bs.length
    if back.isSome then loadParts gid rest else pure false

/-- A group's state comes back from its record (R294, R305): the saved-state block as it stands; or where a handler runs its
registers, and the block's location word is made true again. The registers of elastic work stay in its image. -/
def restoreGroup (gid : Nat) : M Unit := do
  let g ← theGroup gid
  match ← recordLoad gid (blockOffset g) 0x270 with
  | none => pure ()
  | some bs =>
    let parts := g.savedParts.drop 1 ++ g.works.flatMap fun (own, w) => fileParts own w
    if g.handler.isSome then
      if ← recordStore gid 0x268 (locationBytes g) then let _ ← loadParts gid parts
    else
      modGroup gid fun g => { g with work := g.work.reload bs }
      let _ ← loadParts gid parts

/-- Reads a team's save record back; the answer says whether the team goes on. -/
def loadTeamRecord (t : Team) (core : Nat) (record : DWord) : List (Nat × List Byte) → M Bool
  | [] => pure true
  | (off, bs) :: rest => do
    match ← partLoad core t.ctx (record + BitVec.ofNat 64 off) bs.length with
    | .ok _ => loadTeamRecord t core record rest
    | .error f => do
      killTeam t.ctx t.groups f.va
      pure false

/-- HOMELOST of a held line that a lost pair cannot give back (R61, R120); the line's address stands for the access (log 108). -/
def lostHeld (gid line k : Nat) : M Unit := do
  let g ← theGroup gid
  modGroup gid fun g => { g with locks := g.locks.map fun x => if x.line = line then { x with pinned := true } else x }
  raise gid 0 (recsOf g.work.pc 0 0 false [(0, ⟨Cls.homelost, 0, 0, BitVec.ofNat 64 k⟩)])

/-- Brings in the held lines that can be brought in now, and JUMPs to their wts (R120). -/
def bringLines (gid : Nat) : M Unit := do
  match (← get).group? gid with
  | none => pure ()
  | some g => each (g.locks.filter (!·.pinned)) fun h => do
    let s ← get
    match s.place (h.line * 128) with
    | .lost k => lostHeld gid h.line k
    | _ => match (pinLine g.core h.line) s with
      | .ok w s' =>
        set s'
        jump g.core w
        modGroup gid fun g => { g with locks := g.locks.map fun x => if x.line = h.line then { x with pinned := true } else x }
      | .error _ _ => set s

/-- TEAM_RESTORE: a saved team is placed again as a unit on a core with room; a team that is back brings in the held lines
that were blocked (R120, R292, R294, R305, R334). -/
def execTeamRestore (team core : Nat) (s : State) : Host.Outcome State Fault Refusal :=
  moveStep s do
    let t ← theTeam team
    let s ← get
    match t.saved with
    | some sv =>
      need (s.computes && decide (core < Config.cores) && s.hasRoom core (s.teamRoom t) [])
      let d ← theGrid t.grid
      freshCode core t.grid
      jump core sv.pts
      if ← loadTeamRecord t core sv.record (t.saveUnits d.packet ++ [(ptsOffset d.packet, leBytesOf 2 sv.pts.toNat)]) then
        let order ← fresh
        modTeam team ({ · with core, saved := none, placedAt := order })
        modify fun s => { s with grids := Tab.modify s.grids t.grid fun d => { d with cores := core :: d.cores.filter (· != core) } }
        freeRecord t.ctx sv.record
        each t.groups (groupReturns core)
        each t.groups restoreGroup
        let left := ((Tab.find? (← get).teams team).map (·.groups)).getD []
        each left bringLines
        each left joinMore
        makeFile core Config.coreRegs
        each left fun gid => modify (vectorNow 8 gid)
      else pure ()
    | none =>
      need (t.groups.any fun g => ((s.group? g).map fun x => x.present && x.locks.any (!·.pinned)).getD false)
      each t.groups bringLines

end Sys2Proof.Machine
end

