-- ==== Sys2Proof/Machine/Fetch.lean ====
section
/-!
DEFINITION. The state in which a given word is the next thing to issue: what a host, a launch and the scheduler would have
set up for one group with code at the assembler's default address (R17 to R19, R63, R126, R161, R320, R326; log 6).
-/
namespace Sys2Proof.Machine

/-- The virtual address of the code: the assembler's default for Armature code, used for either stream (R161). -/
def fetchVa : DWord := 0x001000000000
/-- The physical address of the code's page. -/
def fetchPa : Nat := 0x300000
/-- The root of the page tables; the tables of the lower levels follow it. -/
def fetchRoot : Nat := 0x100000

/-- Places bytes in home memory. -/
def State.placeBytes (s : State) (a : Nat) (l : List Byte) : State := { s with mem := Memory.setBytes s.mem a l }

/-- Page tables that map the code's page with V and X, device class (R17 to R19). -/
def State.placeTables (s : State) : State :=
  let put (s : State) (a v : Nat) := s.placeBytes a (leBytesOf 8 v)
  let s := put s fetchRoot (fetchRoot + 0x1000 + 1)
  let s := put s (fetchRoot + 0x1000) (fetchRoot + 0x2000 + 1)
  let s := put s (fetchRoot + 0x2000 + 8 * 64) (fetchRoot + 0x3000 + 1)
  let s := put s (fetchRoot + 0x3000) (fetchRoot + 0x4000 + 1)
  put s (fetchRoot + 0x4000) (fetchPa + 0x0D)

/-- The packet of the group: one team of one group with the largest budget (R284). -/
def fetchPacket : LaunchPacket :=
  { entry := fetchVa, table := 0, gx := 1, gy := 1, gz := 1, groups := 1, flags := 0, curve := 0, tile := 0, scratch := 0
    counts := [1, 0, 0, 0], budgets := [256, 0, 0, 0], obuf := 0, bar := 0, arg := 0, done := 0 }

/-- Its grid, with the one team placed. -/
def fetchGrid : Grid :=
  { ctx := 0, queue := 0, packet := fetchPacket, prio := 0, elastic := false, notify := false, order := 0, cursor := 0
    placed := 1, depTime := none, firstKill := none, killed := false, cores := [0] }

/-- Its team. -/
def fetchTeam (grid group : Nat) : Team :=
  { ctx := 0, grid, index := 0, core := 0, groups := [group], scratch := [], bad := [], slots := [], bars := [], saved := none
    saving := false, placedAt := 0 }

/-- The token a cursor holds when the word is lane code: one trip with every lane active. -/
def fetchCursor : Cursor :=
  { token := { seq := 0, block := 0, mask := 0xFFFFFFFF, trips := 1, arm := .none, w := Vector.replicate 16 0, epoch := 1
               seed := 0x2545F491 }
    trips := 1, start := some fetchVa, pc := fetchVa, wrote := [] }

/-- The group, active, at the code's address. -/
def fetchGroup (team : Nat) (lane : Bool) (now : Nat) : Group :=
  let g := startGroup fetchGrid team 0 0 0 0 0 0 now
  { g with sched := { g.sched with active := true, ready := false }
           work := { g.work with cur0 := if lane then some fetchCursor else none } }

/-- RUN, at the clock of B0, with nothing waiting to interrupt it (R315, R320). -/
def State.placeRun (s : State) : State :=
  { s with pkg := { s.pkg with power := .run, clock := .mhz1200, code := 0, stepping := false } }

/-- One context open, its tables, one grid, team and group, and the bytes of the word; the issue of the word comes next. -/
def State.placeWord (s : State) (bytes : List Byte) (lane : Bool) : State :=
  let g := s.nextGroup
  let t := s.nextTeam
  let d := s.nextGrid
  let s := ((s.placeRun.placeTables).placeBytes fetchPa bytes).updCtx 0 fun x =>
    { x with state := CtxState.open, root := BitVec.ofNat 52 fetchRoot }
  { s with
    grids := Tab.put s.grids d fetchGrid, nextGrid := d + 1
    teams := Tab.put s.teams t (fetchTeam d g), nextTeam := t + 1
    groups := Tab.put s.groups g (fetchGroup t lane s.now), nextGroup := g + 1
    agenda := [if lane then .issueL g false else .issueA g] }

end Sys2Proof.Machine
end

