-- ==== Sys2Proof/Machine/Recast.lean ====
section
/-!
DEFINITION. Recasts: their issue, the checks of R30, the RECAST move, RQRY, RMAP, and the quarantine (R29 to R43, R247,
R248, R333).
-/
namespace Sys2Proof.Machine

/-- Bytes of a page (R29). -/
def pageBytes : Nat := 0x10000

/-! ## Issue (R37, R69, R247) -/

/-- A recast at issue: it joins the pending recasts and RCC rises. -/
def issueRecast (i : Instr) (x y n : SReg) (s : State) : Host.Outcome State Fault Refusal :=
  armM s fun gid g => do
    need (counterRoom g.work .rcc && g.acquireFree .arm 0)
    let seq ← fresh
    let r : Recast :=
      ⟨seq, i, g.work.sreg x, g.work.sreg y, g.work.sreg n, g.work.pc, s.focus.word, g.level⟩
    modWork gid g.level fun w => { w.raise .rcc with recasts := w.recasts ++ [r], pc := w.pc + 4 }

/-- RXCH (R31, R247). -/
def execRxch (x y n : SReg) (s : State) : Host.Outcome State Fault Refusal := issueRecast (.rxch x y n) x y n s
/-- RCAT (R31, R247). -/
def execRcat (x y n : SReg) (s : State) : Host.Outcome State Fault Refusal := issueRecast (.rcat x y n) x y n s
/-- RSPL (R34, R247). -/
def execRspl (x y n : SReg) (s : State) : Host.Outcome State Fault Refusal := issueRecast (.rspl x y n) x y n s
/-- RPRM (R33, R247). -/
def execRprm (x y n : SReg) (s : State) : Host.Outcome State Fault Refusal := issueRecast (.rprm x y n) x y n s
/-- RALS (R31, R247). -/
def execRals (x y n : SReg) (s : State) : Host.Outcome State Fault Refusal := issueRecast (.rals x y n) x y n s
/-- RALS.RW (R31, R247). -/
def execRalsRw (x y n : SReg) (s : State) : Host.Outcome State Fault Refusal := issueRecast (.ralsRw x y n) x y n s
/-- RUNM (R31, R247). -/
def execRunm (x n : SReg) (s : State) : Host.Outcome State Fault Refusal := issueRecast (.runm x n) x 0 n s
/-- RPIN (R31, R247). -/
def execRpin (x n : SReg) (s : State) : Host.Outcome State Fault Refusal := issueRecast (.rpin x n) x 0 n s
/-- RUPN (R31, R247). -/
def execRupn (x n : SReg) (s : State) : Host.Outcome State Fault Refusal := issueRecast (.rupn x n) x 0 n s

/-! ## Lines and paths (R30, R39, R82) -/

/-- A line the move takes at its home: not blocked, and not owned after a recall (R39, R51, R82). -/
def takeLine (line : Nat) : M Unit := do
  unblocked line
  clearOwner line
  need ((← get).home line).owner.isNone

/-- An entry of a range: its page, its address and its value. -/
structure PageEntry where
  va : DWord
  pa : Nat
  e  : DWord
deriving DecidableEq, Repr

/-- A range cut at 2 MiB: the first page and the number of pages under each level-1 entry. -/
def chunks : Nat → Nat → Nat → List (Nat × Nat)
  | 0, _, _ => []
  | fuel + 1, va, n =>
    if n = 0 then [] else
      let k := min n (32 - va / pageBytes % 32)
      (va, k) :: chunks fuel (va + k * pageBytes) (n - k)

def rangeChunks (a : DWord) (n : Nat) : List (Nat × Nat) := chunks (n / 32 + 2) a.toNat n

/-- Where a path ends. -/
inductive PathEnd where
  /-- A level-0 table. -/
  | table (pa : Nat)
  /-- A 2 MiB leaf. -/
  | big
  /-- A zero level-1 entry, which only RMAP tells from an invalid one. -/
  | gap (pa : Nat)
  | bad (f : XFault)
deriving DecidableEq, Repr

/-- The fault a path ends with. -/
def PathEnd.fault? : PathEnd → Option XFault
  | .bad f => some f
  | _ => none

/-- The tables on the way to a page's level-0 table, read as a walk reads them (R20, R25). -/
def pathLevels (core : Nat) (va : DWord) (rmap : Bool) : List Nat → Nat → M PathEnd
  | [], table => pure (.table table)
  | level :: rest, table => do
    let pa := table + 8 * tableIndex va level
    match placeFault va pa ((← get).place pa) with
    | some f => pure (.bad f)
    | none =>
      if rmap && level == 1 then takeLine (lineOf pa) else pure ()
      let e := (← get).entryAt pa
      if rmap && level == 1 && e == 0 && !(← get).sectorPoisoned pa then pure (.gap pa)
      else
        let (w, _) ← readHome core (lineOf pa)
        jump core w
        if let some f := (← get).entryPoison va pa then return .bad f
        let e := (← get).entryAt pa
        if !entryValid e then pure (.bad ⟨Cls.translation, 0, va, e⟩)
        else if level = 1 ∧ e.getLsbD 7 then
          if rmap && !leafWellFormed e 1 then pure (.bad ⟨Cls.translation, 2, va, e⟩) else pure .big
        else if descWellFormed e level then pathLevels core va rmap rest (descTable e)
        else pure (.bad ⟨Cls.translation, 2, va, e⟩)

def pathOf (core ctx : Nat) (va : DWord) : M PathEnd := do
  pathLevels core va false [4, 3, 2, 1] ((← get).ctx ctx).root.toNat

/-- The path of every chunk of a range. -/
def paths (core ctx : Nat) : List (Nat × Nat) → M (List ((Nat × Nat) × PathEnd))
  | [] => pure []
  | c :: rest => do
    let p ← pathOf core ctx (BitVec.ofNat 64 c.1)
    let more ← paths core ctx rest
    pure ((c, p) :: more)

/-- Stops with a recast's fault. -/
def failM {α : Type} (f : XFault) : M α := throw (.faults [(0, f)])

/-- Stops with the first fault of a list, if there is one. -/
def orFail (l : List (Option XFault)) : M Unit := match l.findSome? id with
  | none => pure ()
  | some f => failM f

/-- The entries of pages under one level-0 table, whose lines are taken. -/
def tableEntries (table va n : Nat) : M (List PageEntry) := do
  let l : List (DWord × Nat) := (List.range n).map fun i =>
    let a := BitVec.ofNat 64 (va + i * pageBytes)
    (a, table + 8 * tableIndex a 0)
  let s ← get
  orFail (l.map fun (a, pa) => placeFault a pa (s.place pa))
  each (sortNat (dedup (l.map fun (_, pa) => lineOf pa))) takeLine
  let s ← get
  orFail (l.map fun (a, pa) => s.entryPoison a pa)
  pure (l.map fun (a, pa) => ⟨a, pa, s.entryAt pa⟩)

/-- The entries of a range whose every path ends at a level-0 table. -/
def rangeEntries : List ((Nat × Nat) × PathEnd) → M (List PageEntry)
  | [] => pure []
  | ((va, n), p) :: rest => do
    let l ← match p with
      | .table t => tableEntries t va n
      | _ => pure []
    let more ← rangeEntries rest
    pure (l ++ more)

/-- Writes entries with one common wts, to which every held line's rts and the core's pts go (R39), once
the core's clock runs (R107). -/
def commitLines (core : Nat) (held : List Nat) (writes : List (Nat × DWord)) : M Time := do
  let s ← get
  need s.clocked
  let t := held.foldl (fun t l => serialMax t ((s.home l).rts + 1)) (s.core core).pts
  jump core t
  each held fun l => modHome l ({ · with rts := t })
  each writes fun (pa, e) => do
    modify (·.putHome (lineOf pa) (lineWith (pa % 128) (leBytesOf 8 e.toNat)) (maskOf (pa % 128) 8))
    modHome (lineOf pa) ({ · with wts := t })
  pure t

/-! ## Frames (R32, R36, R43) -/

/-- A local frame's mapping count (R32). -/
def State.mapCount (s : State) (pfn : Nat) : Nat := Tab.get s.mapcnt pfn 1

def setCount (pfn n : Nat) : M Unit := modify fun s => { s with mapcnt := Tab.put s.mapcnt pfn n }

/-- The frame number of an entry. -/
def framePfn (e : DWord) : Nat := bitsOf e 51 16

/-- A frame has a mapping count: it is local (R32). -/
def counted (pfn : Nat) : Bool := region (pfn * pageBytes) == .local_

/-- Takes the next frame of a context's pool, past the time of its fill (R36, R43). -/
def takeFrame (core ctx : Nat) : M (Option Nat) := do
  match ((← get).ctx ctx).pool with
  | [] => pure none
  | f :: rest =>
    modCtx ctx ({ · with pool := rest })
    match f.fill with
    | none => pure ()
    | some t => jump core t
    pure (some f.pfn)

/-! ## Checks and effects (R30 to R34) -/

/-- Whether a range reaches or passes 2^57. -/
def pastEnd (a : DWord) (n : Nat) : Bool := decide (2 ^ 57 < a.toNat + n * pageBytes)

/-- Rows 3 to 6 of R30: the ranges' ends, their paths, large pages and classes. The answer gives each range's entries. -/
def rangesM (core ctx n : Nat) (ranges : List DWord) : M (List (List PageEntry)) := do
  orFail (ranges.map fun a => if pastEnd a n then some ⟨Cls.translation, 3, a, 0⟩ else none)
  let rec walkAll : List DWord → M (List (List ((Nat × Nat) × PathEnd)))
    | [] => pure []
    | a :: rest => do
      let p ← paths core ctx (rangeChunks a n)
      let more ← walkAll rest
      pure (p :: more)
  let ps ← walkAll ranges
  orFail (ps.flatten.map (·.2.fault?))
  orFail (ps.flatten.map fun ((va, _), p) => match p with
    | .big => some ⟨Cls.align, 0, BitVec.ofNat 64 va, 0⟩
    | _ => none)
  let rec entries : List (List ((Nat × Nat) × PathEnd)) → M (List (List PageEntry))
    | [] => pure []
    | p :: rest => do
      let l ← rangeEntries p
      let more ← entries rest
      pure (l :: more)
  let es ← entries ps
  orFail (es.flatten.map fun p =>
    if entryValid p.e && leafClass p.e == some .sys then some ⟨Cls.scope, 0, p.va, p.e⟩ else none)
  pure es

/-- Entries that must be valid, all zero, unpinned or writable (R30). -/
def needValid (l : List PageEntry) : M Unit :=
  orFail (l.map fun p => if entryValid p.e then none else some ⟨Cls.translation, 0, p.va, p.e⟩)
def needZero (l : List PageEntry) : M Unit :=
  orFail (l.map fun p => if p.e = 0 then none else some ⟨Cls.permission, 2, p.va, p.e⟩)
def needBit (l : List PageEntry) (bit : Nat) (v : Bool) : M Unit :=
  orFail (l.map fun p => if p.e.getLsbD bit == v then none else some ⟨Cls.permission, 2, p.va, p.e⟩)

/-- The index list of an RPRM: its lines are taken, and each index is a device-scope relaxed load of 2 bytes (R33). -/
def listBytes (core ctx : Nat) : List (Nat × Nat × Nat) → M (List Byte × List Nat)
  | [] => pure ([], [])
  | (a, _, n) :: rest => do
    let va := BitVec.ofNat 64 a
    let x ← accessM core ctx va .load (some .dev)
    hereM va x.pa
    let line := lineOf x.pa
    if isLocal line then
      takeLine line
      jump core ((← get).home line).wts
    else pure ()
    let d := (← get).homeData line
    match (upFrom (x.pa % 128) n).find? fun i => d.poison.getLsbD (i / 32) with
    | some i => faultM Cls.poison 0 (va + BitVec.ofNat 64 ((i - x.pa % 128) / 2 * 2)) (BitVec.ofNat 64 (line * 128 + i / 32 * 32))
    | none => pure ()
    let (bs, lines) ← listBytes core ctx rest
    pure (d.slice (x.pa % 128) n ++ bs, if isLocal line then line :: lines else lines)

/-- A list of indices names each of 0 to n − 1 once (R33). -/
def isPermutation (n : Nat) (l : List Nat) : Bool := l.length == n && sortNat l == List.range n

/-- What a recast that passes its checks does: its writes, further lines it holds, the frame a split copies and the
frame it copies to. -/
structure Plan where
  writes : List (Nat × DWord)
  held   : List Nat
  dup    : Option (Nat × Nat)
  counts : List (Nat × Nat)
  freed  : List Nat
deriving DecidableEq, Repr

/-- A plan that only writes entries. -/
def Plan.write (l : List (Nat × DWord)) : Plan := ⟨l, [], none, [], []⟩

/-- The plan of a recast whose ranges have these entries: it holds their lines (R39, R82). -/
def Plan.holding (p : Plan) (es : List PageEntry) : Plan := { p with held := p.held ++ es.map fun e => lineOf e.pa }

/-- Moves a range's entries to another and clears what they leave (R31). -/
def movePlan (dst src : List PageEntry) : Plan :=
  .write ((dst.zip src).map (fun (d, x) => (d.pa, x.e)) ++ src.map fun x => (x.pa, 0))

/-- The bits of an entry apart from its frame. -/
def withFrame (e : DWord) (pfn : Nat) : DWord := (e &&& 0xFFF000000000FFFF) ||| BitVec.ofNat 64 (pfn * pageBytes)

/-- An alias of an entry: A set, P clear, W as the form says (R31). -/
def aliasEntry (e : DWord) (rw : Bool) : DWord :=
  let e := (e ||| 0x40) &&& ~~~(0x20 : DWord)
  if rw then e ||| 2 else e &&& ~~~(2 : DWord)

/-- RALS raises the count of each local frame it aliases (R32). The first page that would pass 255 faults. -/
def raiseCounts (s : State) : List PageEntry → List (Nat × Nat) → Except XFault (List (Nat × Nat))
  | [], acc => .ok acc
  | p :: rest, acc =>
    let f := framePfn p.e
    if !counted f then raiseCounts s rest acc
    else
      let n := Tab.get acc f (s.mapCount f) + 1
      if 255 < n then .error ⟨Cls.permission, 2, p.va, p.e⟩ else raiseCounts s rest (Tab.put acc f n)

/-- RUNM lowers the counts; a frame whose count comes to 0 is released (R31, R32, R43). -/
def lowerCounts (s : State) : List PageEntry → List (Nat × Nat) → List Nat → List (Nat × Nat) × List Nat
  | [], acc, freed => (acc, freed.reverse)
  | p :: rest, acc, freed =>
    let f := framePfn p.e
    if !counted f then lowerCounts s rest acc freed
    else
      let n := Tab.get acc f (s.mapCount f) - 1
      lowerCounts s rest (Tab.put acc f n) (if n = 0 ∧ !freed.contains f then f :: freed else freed)

/-- The entry of E(d, 0) of a split, and the moves of the other pages (R34). -/
def splitWrites (frame : Nat) : List PageEntry → List PageEntry → List (Nat × DWord)
  | p :: ps, d :: ds => (d.pa, withFrame p.e frame) :: (movePlan ds ps).writes
  | _, _ => []

/-- RSPL (R34). The record of an empty pool gives the destination as its address (log 51). -/
def planSplit (core ctx : Nat) (src d : DWord) (n : Nat) : M Plan := do
  let off := src.toNat % pageBytes
  let p := src - BitVec.ofNat 64 off
  match ← rangesM core ctx n [p, d] with
  | [ps, ds] =>
    needValid ps
    needZero ds
    let es := ps ++ ds
    if off = 0 then pure ((movePlan ds ps).holding es)
    else match ps with
      | [] => pure (.write [])
      | p0 :: _ => match ← takeFrame core ctx with
        | none => failM ⟨Cls.translation, 4, d, 0⟩
        | some g =>
          let p : Plan :=
            { writes := splitWrites g ps ds, held := [], dup := some (framePfn p0.e, g), counts := [(g, 1)], freed := [] }
          pure (p.holding es)
  | _ => pure (.write [])

/-- RPRM (R33). -/
def planPermute (core ctx : Nat) (x y : DWord) (n : Nat) : M Plan := do
  match ← rangesM core ctx n [x] with
  | [es] =>
    if y.toNat % 2 ≠ 0 then faultM Cls.align 0 y 0
    let (bs, lines) ← listBytes core ctx (lineRuns (2 * n / 128 + 2) y.toNat (2 * n))
    let list := (List.range n).map fun i => leVal ((bs.drop (2 * i)).take 2)
    if !isPermutation n list then failM ⟨Cls.permission, 2, x, 0⟩
    let p : Plan := { writes := (es.zip list).map fun (p, j) => (p.pa, ((es[j]?).map (·.e)).getD 0)
                      held := lines, dup := none, counts := [], freed := [] }
    pure (p.holding es)
  | _ => pure (.write [])

/-- The ranges of pages that two recast operands name, checked for alignment (R30 row 2). -/
def alignedM (l : List DWord) : M Unit :=
  orFail (l.map fun a => if a.toNat % pageBytes = 0 then none else some ⟨Cls.align, 0, a, 0⟩)

/-- The checks of R30 in order, and the plan of a recast that passes them (R31). With n = 0 nothing is written: a range of no
page reaches nothing, and an RSPL takes no frame, whatever its offset (log 100). -/
def planRecast (core ctx : Nat) (r : Recast) : M (Option Plan) := do
  let n := r.n.toNat
  if 65536 < n then failM ⟨Cls.permission, 2, 0, 0⟩
  let two (f : List PageEntry → List PageEntry → M Plan) : M (Option Plan) := do
    alignedM [r.x, r.y]
    if n = 0 then pure none
    else match ← rangesM core ctx n [r.x, r.y] with
      | [a, b] => do pure (some ((← f a b).holding (a ++ b)))
      | _ => pure none
  let one (f : List PageEntry → M Plan) : M (Option Plan) := do
    alignedM [r.x]
    if n = 0 then pure none
    else match ← rangesM core ctx n [r.x] with
      | [a] => do pure (some ((← f a).holding a))
      | _ => pure none
  let als (rw : Bool) : M (Option Plan) := two fun a b => do
    needValid b
    needZero a
    if rw then needBit b 1 true
    match raiseCounts (← get) b [] with
    | .error f => failM f
    | .ok counts => pure { Plan.write ((a.zip b).map fun (p, q) => (p.pa, aliasEntry q.e rw)) with counts }
  match r.instr with
  | .rxch .. => two fun a b => do
    if r.x.toNat < r.y.toNat + n * pageBytes ∧ r.y.toNat < r.x.toNat + n * pageBytes then
      failM ⟨Cls.permission, 2, r.y, 0⟩
    pure (.write ((a.zip b).map (fun (p, q) => (p.pa, q.e)) ++ (a.zip b).map fun (p, q) => (q.pa, p.e)))
  | .rcat .. => two fun a b => do
    needValid b
    needZero a
    pure (movePlan a b)
  | .rspl .. => do
    alignedM [r.y]
    if n = 0 then pure none else some <$> planSplit core ctx r.x r.y n
  | .rprm .. => do
    alignedM [r.x]
    if n = 0 then pure none else some <$> planPermute core ctx r.x r.y n
  | .rals .. => als false
  | .ralsRw .. => als true
  | .runm .. => one fun a => do
    needValid a
    needBit a 5 false
    let (counts, freed) := lowerCounts (← get) a [] []
    pure { Plan.write (a.map fun p => (p.pa, 0)) with counts, freed }
  | .rpin .. => one fun a => do
    needValid a
    pure (.write (a.map fun p => (p.pa, p.e ||| 0x20)))
  | .rupn .. => one fun a => do
    needValid a
    pure (.write (a.map fun p => (p.pa, p.e &&& ~~~(0x20 : DWord))))
  | _ => pure none

/-! ## The RECAST move (R37 to R41, R82) -/

/-- Turns faults into an answer. -/
def attempt {α : Type} (m : M α) : M (Except (List (Nat × XFault)) α) := fun s =>
  match m s with
  | .ok a s' => .ok (.ok a) s'
  | .error (.faults l) s' => .ok (.error l) s'
  | .error .wait s' => .error .wait s'

/-- The release condition of R38. A waiting lock request does not hold a recast of a group that is being vectored or
saved (R86, R303). -/
def recastReady (g : Group) (r : Recast) : M Unit := do
  need (!g.recastStuck r)
  let pass ← passLocks g
  let before (a : Access) : Bool := a.level == r.level && match a.stream with
    | .arm => decide (a.seq < r.seq)
    | .lane => decide (a.key < r.seq)
  need (g.loads.all fun e => !before e.acc || (pass && e.kind == .lock))
  need (g.stores.all fun e => !before e.acc)
  releaseCore g.core

/-- The record of a recast's fault, and the CONT record with its operands (R41, R297, R299). -/
def recastRecs (pc : DWord) (word : Nat) (x y n : DWord) (l : List (Nat × XFault)) : List Rec :=
  (recsOf pc (BitVec.ofNat 32 word) 0 false l).flatMap fun r =>
    [r, { r with va := x, aux := y, pc := n, cls := Cls.cont, sub := 0 }]

/-- The duplicate copy of a split: the core's engine copies the whole frame (R34, R37, R80). -/
def startDup (gid : Nat) (g : Group) (r : Recast) (src dst : Nat) : M Unit := do
  need (decide (((← get).core g.core).engine.length < Config.engineQueue))
  let id ← nextIdent g.core
  let seq ← fresh
  let t ← theTeam g.team
  let base := dst * pageBytes
  placeCmd g.core
    { id, ctx := g.ctx, group := gid, level := r.level, kind := .dup
      block := ⟨BitVec.ofNat 64 (src * pageBytes), 0, BitVec.ofNat 64 base, 0, 0, 0, 0, 0⟩, at_ := 0, iseq := seq
      index := [], oor := 0, pages := [], todo := upFrom (lineOf base) (pageBytes / 128), done := [], read := []
      lastWts := none, running := false, stalled := false, err := false, until_ := 0, sent := false, team := g.team
      grid := t.grid }

/-- Carries out a plan. The answer is the wts of its writes. -/
def runPlan (gid : Nat) (g : Group) (r : Recast) (p : Plan) : M Unit := do
  let held := sortNat (dedup (p.writes.map (fun w => lineOf w.1) ++ p.held))
  let t ← commitLines g.core held p.writes
  each p.counts fun (f, n) => setCount f n
  each p.freed fun f => modCtx g.ctx fun x => { x with quarantine := x.quarantine ++ [⟨f, t, false⟩] }
  match p.dup with
  | none => modWork gid r.level (·.lower .rcc)
  | some (src, dst) => startDup gid g r src dst

/-- RECAST: performs the oldest pending recast of a group (R39, R82, R333). -/
def execRecast (gid : Nat) (s : State) : Host.Outcome State Fault Refusal :=
  moveStep s do
    let g ← theGroup gid
    need g.present
    match g.work.recasts with
    | [] => waitM
    | r :: rest =>
      recastReady g r
      modWork gid r.level ({ · with recasts := rest })
      match ← attempt (planRecast g.core g.ctx r) with
      | .error l =>
        modWork gid r.level (·.lower .rcc)
        raise gid r.level (recastRecs r.pc r.word r.x r.y r.n l)
      | .ok none =>
        modify (·.event g.core g.ctx 0x07)
        modWork gid r.level (·.lower .rcc)
      | .ok (some p) =>
        modify (·.event g.core g.ctx 0x07)
        runPlan gid g r p

/-! ## RQRY (R35) -/

/-- The entry a walk to an address stops at, as R35 reports it. -/
def queryLevels (core : Nat) (va : DWord) : List Nat → Nat → M DWord
  | [], _ => pure 0
  | level :: rest, table => do
    let pa := table + 8 * tableIndex va level
    hereM va pa
    let (w, _) ← readHome core (lineOf pa)
    jump core w
    if let some f := (← get).entryPoison va pa then failM f
    let e := (← get).entryAt pa
    if level = 0 ∨ (level = 1 ∧ entryValid e ∧ e.getLsbD 7) then pure e
    else if entryValid e && descWellFormed e level then queryLevels core va rest (descTable e)
    else pure 0

/-- RQRY (R35). A fault writes a CONT record as well (R299). -/
def execRqry (d a : SReg) (s : State) : Host.Outcome State Fault Refusal :=
  armM s fun gid g => do
    let va := g.work.sreg a
    need (g.acquireFree .arm 0)
    let walkM : M DWord := do
      if nonCanonical va then faultM Cls.translation 3 va 0
      queryLevels g.core va [4, 3, 2, 1, 0] ((← get).ctx g.ctx).root.toNat
    match ← attempt walkM with
    | .error l => raise gid g.level (recastRecs g.work.pc s.focus.word va 0 (g.work.sreg d) l)
    | .ok e => modWork gid g.level (·.result d e)

/-! ## RMAP (R36, R248) -/

/-- What RMAP has done so far: writes, lines taken, counts to set, leaves written, and whether the pool ran dry. -/
structure Mapped where
  writes : List (Nat × DWord)
  held   : List Nat
  leaves : List Nat
  dry    : Bool
deriving DecidableEq, Repr

/-- Maps the entries of one table in ascending order. -/
def mapEntries (core ctx : Nat) (flags : DWord) : List PageEntry → Mapped → M Mapped
  | [], m => pure m
  | p :: rest, m => do
    if m.dry || p.e != 0 then mapEntries core ctx flags rest m
    else match ← takeFrame core ctx with
      | none => pure { m with dry := true }
      | some f =>
        mapEntries core ctx flags rest
          { m with writes := m.writes ++ [(p.pa, BitVec.ofNat 64 (f * pageBytes) ||| flags ||| 1)], leaves := m.leaves ++ [f] }

/-- Maps each chunk of the range in turn, making level-0 tables as they are needed. -/
def mapChunks (core ctx : Nat) (flags : DWord) : List ((Nat × Nat) × PathEnd) → Mapped → M Mapped
  | [], m => pure m
  | ((va, n), p) :: rest, m => do
    if m.dry then pure m
    else match p with
      | .table t =>
        let es ← tableEntries t va n
        let m := { m with held := m.held ++ es.map fun e => lineOf e.pa }
        mapChunks core ctx flags rest (← mapEntries core ctx flags es m)
      | .gap pa => match ← takeFrame core ctx with
        | none => pure { m with dry := true }
        | some f =>
          let m := { m with writes := m.writes ++ [(pa, BitVec.ofNat 64 (f * pageBytes) ||| 1)] }
          let es ← tableEntries (f * pageBytes) va n
          mapChunks core ctx flags rest (← mapEntries core ctx flags es m)
      | _ => mapChunks core ctx flags rest m

/-- The first passes of R248 over a range: the descriptors at levels 4, 3 and 2 of every chunk, then every level-1 entry. -/
def mapPaths (core ctx : Nat) (l : List (Nat × Nat)) : M (List ((Nat × Nat) × PathEnd)) := do
  let root := ((← get).ctx ctx).root.toNat
  let rec high : List (Nat × Nat) → M (List ((Nat × Nat) × PathEnd))
    | [] => pure []
    | c :: rest => do
      let p ← pathLevels core (BitVec.ofNat 64 c.1) true [4, 3, 2] root
      let more ← high rest
      pure ((c, p) :: more)
  let rec low : List ((Nat × Nat) × PathEnd) → M (List ((Nat × Nat) × PathEnd))
    | [] => pure []
    | (c, p) :: rest => do
      let p ← match p with
        | .table t => pathLevels core (BitVec.ofNat 64 c.1) true [1] t
        | p => pure p
      let more ← low rest
      pure ((c, p) :: more)
  let ps ← high l
  orFail (ps.map (·.2.fault?))
  let ps ← low ps
  orFail (ps.map (·.2.fault?))
  pure ps

/-- The checks of R248 after privilege, and the mapping: one RECAST move. The answer is the number of leaves written. The record
of a bad n or CC gives sx as its address (log 51). Frames taken before a table that has no home to serve it, or whose sector is
poisoned, is met stay out of the pool (log 101). -/
def mapRange (core ctx : Nat) (a y : DWord) : M Nat := do
  let n := bitsOf y 63 32
  if n = 0 ∨ 65536 < n then failM ⟨Cls.permission, 2, a, 0⟩
  if bitsOf y 4 3 = 3 then failM ⟨Cls.permission, 2, a, 0⟩
  alignedM [a]
  if pastEnd a n then failM ⟨Cls.translation, 3, a, 0⟩
  let ps ← mapPaths core ctx (rangeChunks a n)
  let m ← mapChunks core ctx (y &&& 0x1E) ps ⟨[], [], [], false⟩
  let held := sortNat (dedup (m.writes.map (fun w => lineOf w.1) ++ m.held))
  let _ ← commitLines core held m.writes
  each m.leaves fun f => setCount f 1
  pure m.leaves.length

/-- RMAP (R36, R248): privileged; it waits at issue for its release condition and performs there. -/
def execRmap (d a b : SReg) (s : State) : Host.Outcome State Fault Refusal :=
  armM s fun gid g => do
    if !g.work.priv then privilegeM
    need (g.acquireFree .arm 0 && g.accessesDone && g.work.tokensRetired && g.work.recasts.isEmpty)
    releaseCore g.core
    let x := g.work.sreg a
    let y := g.work.sreg b
    match ← attempt (mapRange g.core g.ctx x y) with
    | .error l => raise gid g.level (recastRecs g.work.pc s.focus.word x y (g.work.sreg d) l)
    | .ok n =>
      modify (·.event g.core g.ctx 0x07)
      modWork gid g.level (·.result d (BitVec.ofNat 64 n))

/-! ## Reclaim (R42, R43) -/

/-- The translation times that a command has yet to use (R42). The duplicate copy of an RSPL counts none for its source frame (log
114). -/
def Cmd.waiting (k : Cmd) : List Time :=
  (k.pages.filter fun p => k.todo.any fun l => l * 128 / pageBytes % 2 ^ 25 == p.pa / pageBytes % 2 ^ 25).map (·.pts)

/-- RHOR's HOR: the earliest pts, of a core or of a walk under way, or translation time of an access not yet performed (R42). -/
def State.horizon (s : State) : Time :=
  let times := (List.range Config.cores).map (fun i => (s.core (i + 1)).pts) ++ s.walks.map (·.pts) ++
    (Tab.vals s.groups).flatMap (fun g => (g.loads.filter (!·.inScratch)).map (·.acc.pts) ++
      (g.stores.filter (!·.inScratch)).map (·.acc.pts)) ++
    (Tab.vals s.cores).flatMap fun c => c.engine.flatMap (·.waiting)
  times.foldl serialMin (s.core 0).pts

/-- A frame may leave quarantine: HOR is at or after its stamp in serial order, or has been before, so that its stamp is behind
it by more than serial order tells (R43, R100, log 9). -/
def QFrame.free (q : QFrame) (hor : Time) : Bool := q.due || serialLe q.stamp hor

/-- The zero fill of a frame: a device-scope write of every line (R43). -/
def zeroLines : List Nat → Option Time → M (Option Time)
  | [], t => pure t
  | l :: rest, t => do
    unblocked l
    clearOwner l
    let s ← get
    let w := serialMax (s.leadView l) ((s.home l).rts + 1)
    stampLead w
    modify (·.putHome l ⟨Vector.replicate 128 0, 0⟩ (BitVec.allOnes 128))
    modHome l ({ · with wts := w, rts := w })
    zeroLines rest (some (match t with
      | none => w
      | some x => serialMax x w))

/-- QUARANTINE_RELEASE: the first frame of a context's quarantine that the horizon has passed is zeroed and joins the pool
(R43); of several, the one that has been there longest (log 107). A frame of a lost pair stays where it is. While the clocks stand the
fill waits (R107). -/
def execQuarantineRelease (ctx : Nat) (s : State) : Host.Outcome State Fault Refusal :=
  moveStep s do
    let s ← get
    need s.clocked
    let hor := s.horizon
    match (s.ctx ctx).quarantine.find? fun q => q.free hor && s.place (q.pfn * pageBytes) == .here with
    | none => waitM
    | some q =>
      let t ← zeroLines (upFrom (lineOf (q.pfn * pageBytes)) (pageBytes / 128)) none
      modCtx ctx fun x => { x with quarantine := x.quarantine.erase q, pool := x.pool ++ [⟨q.pfn, t⟩] }

end Sys2Proof.Machine
end

