-- ==== Sys2Proof/Machine/Tokens.lean ====
section
/-!
DEFINITION. What the cursors take from the Sprue (R127 to R132).
-/
namespace Sys2Proof.Machine

/-- The entries of the Sprue before its first marker: the tokens that may be taken (R130). -/
def takeable : List SprueItem → List Token
  | .token t :: l => t :: takeable l
  | _ => []

/-- The token a cursor takes next (R130). -/
def Work.nextToken (w : Work) (cur : Bool) : Option Token :=
  if w.lForks.isEmpty then (if cur then none else (takeable w.sprue).head?)
  else (takeable w.sprue).find? fun t => t.arm == (if cur then .a1 else .a0)

/-- Takes a token out of the Sprue. -/
def Work.dropToken (w : Work) (seq : Nat) : Work :=
  { w with sprue := w.sprue.filter fun i => match i with
      | .token t => t.seq != seq
      | _ => true }

/-- The records of a fault raised against a token at its table read (R127, R297). -/
def tokenRecs (cur : Bool) (entry : DWord) (block : BitVec 15) (f : XFault) : List Rec :=
  [⟨f.va, block.setWidth 64, entry, 0, if cur then 2 else 1, 0, false, f.cls, f.sub, false, 0, false⟩]

/-- The table entry of a token, read as a device-scope relaxed load (R127, log 38) that reads past the stores that the group has yet
to drain (log 117). -/
def readEntry (g : Group) (va : DWord) : M (Except XFault DWord) := do
  match ← accessAt g.core g.ctx va .load (some .dev) with
  | .error f => pure (.error f)
  | .ok x => match placeFault va x.pa ((← get).place x.pa) with
    | some f => pure (.error f)
    | none =>
      let line := lineOf x.pa
      let d ← if x.cls = .sys then do
          sysLine line
          pure ((← get).homeData line)
        else do
          let (d, w) ← readL1 g.core g.ctx line .dev x.cls
          match w with
          | none => pure ()
          | some t => jump g.core t
          pure d
      if d.poisoned (x.pa % 128) 8 then pure (.error ⟨Cls.poison, 0, va, 0⟩)
      else
        let v := BitVec.ofNat 64 (leVal (d.slice (x.pa % 128) 8))
        pure (if v.extractLsb' 0 2 = 0 then .ok v else .error ⟨Cls.align, 0, v, 0⟩)

/-- Reads the table entry of a cursor's token. The cursor starts at the block's first word, or goes on where it stood when
a fetch faulted (R127, log 32). -/
def readBlock (gid : Nat) (g : Group) (cur : Bool) (c : Cursor) : M Unit := do
  let d ← theGrid (← theTeam g.team).grid
  let va := d.packet.table + 8 * c.token.block.setWidth 64
  match ← readEntry g va with
  | .error f => raiseLogged gid g.level (tokenRecs cur va c.token.block f) (if f.cls = Cls.errresp then [f.aux.toNat] else [])
  | .ok v =>
    modWork gid g.level (·.setCursor cur (some { c with start := some v, pc := if c.pc = 0 then v else c.pc }))

/-- TOKEN_TAKE: a cursor takes its next token and reads its table entry; a token with no trips retires without the read (R127, R128, R130, R175, log 104).
A cursor whose token's entry has still to be read reads it (R296). -/
def execTokenTake (gid : Nat) (cur : Bool) (s : State) : Host.Outcome State Fault Refusal :=
  moveStep s do
    match (← get).runnable gid with
    | none => waitM
    | some g =>
      match g.work.cursor cur with
      | some c =>
        need c.start.isNone
        readBlock gid g cur c
      | none =>
        match g.work.nextToken cur with
        | none => waitM
        | some t =>
          modWork gid g.level (·.dropToken t.seq)
          if t.trips = 0 then pure ()
          else
            let c : Cursor := ⟨t, t.trips, none, 0, []⟩
            modWork gid g.level (·.setCursor cur (some c))
            readBlock gid g cur c

/-- The marker at the head of the Sprue may be taken: every older token has retired (R130). -/
def Work.markerFree (w : Work) : Bool := w.cur0.isNone && w.cur1.isNone

/-- Where the fork stack holds the record of the fork at a depth; a handler's forks stand above its group's (R131, R305, log
7). -/
def forkOffset (g : Group) (depth : Nat) : Nat := 0x6000 + 16 * ((if g.handler.isSome then Config.forkDepth else 0) + depth)

/-- The record of a fork's two arm masks: arm 0's in its first 8 bytes, arm 1's in the others (R131, log 116). -/
def forkBytes (f : Word × Word) : List Byte := leBytesOf 8 f.1.toNat ++ leBytesOf 8 f.2.toNat

/-- FORK_MARKER_TAKE: the new fork becomes the innermost open fork; the masks of the one it lies in go to the fork stack
(R131, R305). -/
def execForkMarkerTake (gid : Nat) (s : State) : Host.Outcome State Fault Refusal :=
  moveStep s do
    match (← get).runnable gid with
    | none => waitM
    | some g =>
      need g.work.markerFree
      match g.work.sprue with
      | .forkMark a b :: rest =>
        let saved ← match g.work.lForks with
          | [] => pure true
          | f :: outer => recordStore gid (forkOffset g outer.length) (forkBytes f)
        if saved then modWork gid g.level fun w => { w with sprue := rest, lForks := (a, b) :: w.lForks } else pure ()
      | _ => waitM

/-- JOIN_MARKER_TAKE: the innermost fork closes; the masks of the one it lay in come back from the fork stack (R132, R305). -/
def execJoinMarkerTake (gid : Nat) (s : State) : Host.Outcome State Fault Refusal :=
  moveStep s do
    match (← get).runnable gid with
    | none => waitM
    | some g =>
      need g.work.markerFree
      match g.work.sprue with
      | .joinMark :: rest =>
        let outer := g.work.lForks.drop 1
        let back ← match outer with
          | [] => pure true
          | _ :: more => do pure (← recordLoad gid (forkOffset g more.length) 16).isSome
        if back then modWork gid g.level fun w => { w with sprue := rest, lForks := outer } else pure ()
      | _ => waitM

end Sys2Proof.Machine
end

