-- ==== Sys2Proof/Machine/Active.lean ====
section
/-!
DEFINITION. The active and pending sets of a core, priorities, and the cache of elastic registers (R289 to R292).
-/
namespace Sys2Proof.Machine

/-! ## What holds a stream (R69, R290) -/

/-- What a stream would do now: issue or take something; nothing, having no work; or wait on a counter, on LKC while a lock
request is queued, on a queued lock request itself, on a register fill, on a barrier or the return queue, or on something
else. -/
inductive Held where
  | free | idle | counter | lockCounter | lock | fill | event | other
deriving DecidableEq, Repr

/-- Held unless a condition holds. -/
def Held.unless (h : Held) (b : Bool) : Held := if b then .free else h

/-- What a fetch would come to: a word, with the state it leaves; a fault; or a wait. -/
inductive Peek where
  | word (w : Nat) (s : State)
  | fault
  | wait

/-- Tries a fetch. -/
def peekFetch (s : State) (m : M Nat) : Peek := match m s with
  | .ok w s' => .word w s'
  | .error .wait _ => .wait
  | .error (.faults _) _ => .fault

/-- Executing an instruction would change its group: it does not wait (R67, R69). -/
def State.goes (s : State) (gid : Nat) (r : Host.Outcome State Fault Refusal) : Bool := match r with
  | .next t => decide (t.group? gid ≠ s.group? gid)
  | _ => true

/-- A lock request of the group is queued (R116, R290). -/
def Group.queues (g : Group) : Bool := g.requests.any (·.joined)

/-- A wait on a counter (R181, R290). -/
def Group.onCounter (g : Group) (k : Counter) : Held := if k = .lkc ∧ g.queues then .lockCounter else .counter

/-- What holds a read of the return queue (R134). -/
def retHeld (g : Group) : Held := match g.work.retq with
  | [] => .event
  | e :: _ => Held.event.unless (g.retReady e)

/-- What holds an Armature instruction in focus that decodes (R69). One that makes accesses is tried: its translation, or the load
of a command block or a packet, may have to wait. -/
def armInstrHeld (s : State) (gid : Nat) (g : Group) (i : Instr) : Held :=
  let try_ (r : Host.Outcome State Fault Refusal) : Held := Held.other.unless (s.goes gid r)
  let w := g.work
  let acq := g.acquireFree .arm 0
  let sprue := decide (w.sprue.length < Config.sprueSize)
  match i with
  | .waitc a b c d =>
    Held.counter.unless (waitDone w [(.ldc, a.toNat), (.stc, b.toNat), (.cpc, c.toNat), (.mxc, d.toNat)])
  | .waitp c a => match waitpCounter c with
    | none => .free
    | some k => (g.onCounter k).unless (waitDone w [(k, min (w.sreg a).toNat 63)])
  | .lcond d => if d = 0 then .free else retHeld g
  | .lgetv _ _ => retHeld g
  | .barr _ _ => Held.event.unless g.armDone
  | .bara _ _ => Held.other.unless g.armDone
  | .lrun .. | .lfork .. | .ljoin => Held.other.unless sprue
  | .fence _ k => Held.other.unless (w.tokensRetired && match k with
    | .acq => g.loadsDone
    | _ => g.accessesDone && w.cnt.rcc == 0)
  | .launch d a b => try_ (execLaunch d a b s)
  | .exit => Held.other.unless (w.priv || !w.aForks.isEmpty || g.mayRetire)
  | .sjr d a => Held.other.unless (!(d == 0 && a == 1 && w.frames.isEmpty && w.sreg a == 0) || w.priv || !w.aForks.isEmpty ||
      g.mayRetire)
  | .eret => Held.other.unless (!w.priv || (w.tokensRetired && g.accessesDone && w.recasts.isEmpty))
  | .rmap d a b => try_ (execRmap d a b s)
  | .rqry d a => try_ (execRqry d a s)
  | .sld d a sz sc od imm => try_ (execSld d a sz sc od imm s)
  | .sst b a sz sc od imm => try_ (execSst b a sz sc od imm s)
  | .samo d a b op sc od => try_ (execSamo d a b op sc od s)
  | .rxch .. | .rcat .. | .rspl .. | .rprm .. | .rals .. | .ralsRw .. | .runm .. | .rpin .. | .rupn .. =>
    Held.other.unless (acq && counterRoom w .rcc)
  | .cpy d a => try_ (execCpy d a s)
  | .cpys d a => try_ (execCpys d a s)
  | .cpyw d a => try_ (execCpyw d a s)
  | .gath d a => try_ (execGath d a s)
  | .scat d a => try_ (execScat d a s)
  | .cpyob d a => try_ (execCpyob d a s)
  | .fred d a => try_ (execFred d a s)
  | .obrel n => Held.other.unless (w.tokensRetired && !s.matrixNames g.team n.toNat && (s.fills g.team n.toNat).isEmpty)
  | _ => .free

/-- What holds the Armature. -/
def armHeld (s : State) (gid : Nat) (g : Group) : Held :=
  match g.work.bar with
  | some b => Held.event.unless (s.barEnds g b)
  | none =>
  if g.armBlocked then .other
  else match peekFetch s (fetchArm g.core g.ctx g.work.pc) with
    | .wait => .other
    | .fault => .free
    | .word w s' => match decodeArm w with
      | .error _ => .free
      | .ok i =>
        if !i.wf then .free
        else if (armRegs i).any g.pendingRegs.contains then .other
        else armInstrHeld (s'.at_ gid false w) gid g i

/-- The counter that a lane instruction raises (R69, R234, R255). -/
def laneRaises : Instr → Option Counter
  | .vld .. | .vldro .. | .vsld .. | .vatom .. | .vlaunch .. => some .ldc
  | .vst .. | .vsst .. | .vredm .. | .ulk .. | .mdst .. => some .stc
  | .mma .. | .mmab .. | .mzero .. | .mdrn .. | .mpois .. => some .mxc
  | .lkl .. => some .lkc
  | _ => none

/-- What holds a lane instruction in focus that decodes (R69, R113, R255, R263). One that makes accesses is tried. -/
def laneInstrHeld (s : State) (gid : Nat) (g : Group) (i : Instr) : Held :=
  let try_ (r : Host.Outcome State Fault Refusal) : Held := Held.other.unless (s.goes gid r)
  let (rd, wr) := laneRegs i
  if !i.wf || (rd ++ wr).any (fun r => decide (g.work.budget ≤ r)) then .free
  else if interlocked s g gid i then .other
  else match i with
    | .ulk c m => if g.requests.isEmpty then try_ (execUlk c m s) else if g.queues then .lock else .other
    | .vbal .. | .vreds .. => Held.other.unless (decide (g.work.retq.length < Config.retqSize))
    | .vld c d m sz sx sc od => try_ (execVld c d m sz sx sc od s)
    | .vldro c d m sz sx => try_ (execVldro c d m sz sx s)
    | .vst c m v sz sc od => try_ (execVst c m v sz sc od s)
    | .vpf c m sc => try_ (execVpf c m sc s)
    | .vatom c d m v op sc od => try_ (execVatom c d m v op sc od s)
    | .vredm c m v op sc od => try_ (execVredm c m v op sc od s)
    | .vsld c d m sz sx sc od => try_ (execVsld c d m sz sx sc od s)
    | .vsst c m v sz sc od => try_ (execVsst c m v sz sc od s)
    | .lkl c d m t => try_ (execLkl c d m t s)
    | .vlaunch c d m q => try_ (execVlaunch c d m q s)
    | .mdst c m sl n sc od bf => try_ (execMdst c m sl n sc od bf s)
    | _ => Held.other.unless (match laneRaises i with
      | none => true
      | some k => counterRoom g.work k)

/-- The wait field of a lane word (R147, R152). -/
def waitField (w : Nat) : Option (Counter × BitVec 2) :=
  let t := BitVec.ofNat 2 (w / 2 ^ 32)
  match w / 2 ^ 34 % 8 with
  | 1 => some (.ldc, t) | 2 => some (.stc, t) | 3 => some (.cpc, t) | 4 => some (.mxc, t) | 5 => some (.rcc, t)
  | 6 => some (.lkc, t)
  | _ => none

/-- Registers that the next instruction of a cursor names and the register file does not hold (R292). -/
def missing (s : State) (g : Group) (c : Cursor) : List Nat :=
  if !g.work.elastic then []
  else match peekFetch s (fetchLane g.core g.ctx c.pc) with
    | .word w _ => match decodeLane w with
      | .ok i =>
        let (rd, wr) := laneRegs i
        (rd ++ wr).filter fun r => decide (r < g.work.budget) && !g.work.cached.contains r
      | .error _ => []
    | _ => []

/-- What holds a cursor whose token's table entry has still to be read (R127). -/
def tableHeld (s : State) (gid : Nat) (g : Group) (cur : Bool) (c : Cursor) : Held := match readBlock gid g cur c s with
  | .error .wait _ => .other
  | _ => .free

/-- What holds a cursor. -/
def laneHeld (s : State) (gid : Nat) (g : Group) (cur : Bool) : Held :=
  match g.work.cursor cur with
  | none =>
    match g.work.nextToken cur with
    | some t => if t.trips = 0 then .free else tableHeld s gid g cur ⟨t, t.trips, none, 0, []⟩
    | none => if g.work.markerFree && (match g.work.sprue.head? with
      | some (.token _) | none => false
      | _ => true) then .free else .idle
  | some c =>
    if c.start.isNone then tableHeld s gid g cur c
    else match peekFetch s (fetchLane g.core g.ctx c.pc) with
      | .wait => .other
      | .fault => .free
      | .word w s' => match decodeLane w, waitField w with
        | .ok i, f =>
          let (rd, wr) := laneRegs i
          if !i.wf || (rd ++ wr).any (fun r => decide (g.work.budget ≤ r)) then .free
          else if !waitOk g.work f then g.onCounter ((f.map (·.1)).getD .ldc)
          else if !(missing s g c).isEmpty then .fill
          else laneInstrHeld (s'.at_ gid cur w) gid g i
        | .error _, _ => .free

/-- What holds each of the three streams. -/
def State.heldBy (s : State) (gid : Nat) (g : Group) : List Held := [armHeld s gid g, laneHeld s gid g false, laneHeld s gid g true]

/-- A group is stalled (R290). -/
def State.stalled (s : State) (gid : Nat) (g : Group) : Bool := !(s.heldBy gid g).contains .free

/-- A stream is held by a wait field, WAITC, WAITP or a register fill (R290). -/
def Held.counts (h : Held) : Bool := h == .counter || h == .lockCounter || h == .fill

/-- A stream waits on a queued LKL request (R290). -/
def Held.locks (h : Held) : Bool := h == .lock || h == .lockCounter

/-- The group has been stalled for `n` cycles in a row: at every tick since the stall began, with nothing issued (R290, log
37). -/
def State.stalledFor (s : State) (g : Group) (n : Nat) : Bool := match g.sched.stalled with
  | none => false
  | some t => decide (max t g.sched.issuedAt + n ≤ s.now)

/-- The first two triggers of R290. -/
def State.pendTrigger (s : State) (gid : Nat) (g : Group) : Bool :=
  let h := s.heldBy gid g
  s.stalled gid g && ((h.any (·.counts) && s.stalledFor g 32) || armHeld s gid g == .event || h.any (·.locks))

/-- GROUP_PENDING (R290, R291). -/
def execGroupPending (gid : Nat) (s : State) : Host.Outcome State Fault Refusal :=
  moveStep s do
    let g ← theGroup gid
    let s ← get
    need (s.running && g.present && g.sched.active && g.hold == .none && s.pendTrigger gid g)
    modGroup gid fun g => g.toPending false s.now (s.launchPrio g)

/-- A resident group waits, ready, in the pending set. -/
def Group.readyAt (g : Group) (core : Nat) : Bool :=
  g.present && g.core == core && !g.sched.active && g.hold == .none && g.sched.ready

/-- TIME_SLICE_EXPIRY (R290). -/
def execTimeSliceExpiry (gid : Nat) (s : State) : Host.Outcome State Fault Refusal :=
  moveStep s do
    let g ← theGroup gid
    let s ← get
    need (s.running && g.present && g.sched.active && decide (g.sched.since + 65536 ≤ s.now))
    need ((Tab.vals s.groups).any fun x => x.readyAt g.core && decide (g.sched.prio ≤ x.sched.prio))
    modGroup gid fun g => g.toPending true s.now (s.launchPrio g)

/-- Pending groups of a core whose event has occurred become ready (R290). -/
def State.wake (s : State) (core : Nat) : State :=
  { s with groups := Tab.mapVals s.groups fun gid g =>
      if g.present && g.core == core && !g.sched.active && g.hold == .none && !g.sched.ready && !s.stalled gid g then
        { g with sched := { g.sched with ready := true, readyAt := s.now, since := s.now } }
      else g }

/-- The ready pending group that comes first: highest current priority, then the first to be ready (R290). -/
def State.nextActive (s : State) (core : Nat) : Option (Nat × Group) :=
  minOf? (fun (i, g) => ((7 - g.sched.prio) * 2 ^ 64 + g.sched.readyAt) * 2 ^ 64 + i)
    (s.groups.filter fun (_, g) => g.readyAt core)

/-- Active groups of a core. -/
def State.activeOn (s : State) (core : Nat) : Nat :=
  ((Tab.vals s.groups).filter fun g => g.present && g.core == core && g.sched.active).length

/-- PENDING_ACTIVATE (R289, R290). -/
def execPendingActivate (core : Nat) (s : State) : Host.Outcome State Fault Refusal :=
  moveStep s do
    need ((← get).running)
    modify (·.wake core)
    let s ← get
    if Config.activeGroups ≤ s.activeOn core then pure ()
    else match s.nextActive core with
      | none => pure ()
      | some (gid, _) => modGroup gid fun g => { g with sched := { g.sched with active := true, ready := false, since := s.now
                                                                                issuedAt := s.now, stalled := none } }

/-- PRIORITY_AGING (R291). -/
def execPriorityAging (gid : Nat) (s : State) : Host.Outcome State Fault Refusal :=
  moveStep s do
    let g ← theGroup gid
    let s ← get
    need (g.readyAt g.core && decide (g.sched.since + 4096 ≤ s.now))
    modGroup gid fun g => { g with sched := { g.sched with prio := min 7 (g.sched.prio + 1), since := g.sched.since + 4096 } }

/-! ## Elastic registers (R292) -/

/-- A register comes in from its image. -/
def Work.fill (w : Work) (r now : Nat) : Work :=
  { w with cached := r :: w.cached, v := Tab.put w.v r (Tab.get w.image r VVal.zero), used := Tab.put w.used r now }

/-- REGISTER_FILL: a register that the next instruction of a cursor names comes in from its image in the group's record. A
victim leaves only where the file is full (R292, R305). -/
def execRegisterFill (gid reg : Nat) (victim : Option Victim) (s : State) : Host.Outcome State Fault Refusal :=
  moveStep s do
    let g ← theGroup gid
    let s ← get
    need (g.present && [g.work.cur0, g.work.cur1].any fun c => (c.map fun c => (missing s g c).contains reg).getD false)
    match victim with
    | none => need (s.fileRoom g.core)
    | some v => do
      need (!s.fileRoom g.core)
      evictVictim g.core v
    match (← get).group? gid with
    | none => pure ()
    | some g => do
      let image ← recordLoad gid (regOffset g reg) 128
      if image.isSome then modGroup gid fun g => { g with work := g.work.fill reg s.now } else pure ()

end Sys2Proof.Machine
end

