-- ==== Sys2Proof/Machine/Control.lean ====
section
/-!
DEFINITION. Control registers: what CRD reads, what a write of each register does, CRD and CWR, and the register writes
that the host driver makes (R10, R42, R104 to R106, R115, R185 to R187, R202, R300, R301, R306, R312, R316, R317, R326,
R332).
-/
namespace Sys2Proof.Machine

/-! ## Reading (R185, R186) -/

/-- STATE of BAND (R316). -/
def Power.code : Power → Nat
  | .off => 0 | .ambient => 1 | .cooling => 2 | .soak => 3 | .train => 4 | .run => 5 | .retreat => 6 | .hold => 7
  | .warming => 8

/-- BAND (R316). -/
def Pkg.band (p : Pkg) : DWord :=
  BitVec.ofNat 64 (p.seq.toNat * 2 ^ 32 + p.power.code * 2 ^ 28 + p.code.toNat * 2 ^ 24 + p.tmax.toNat * 2 ^ 12 + p.tmin.toNat)

/-- BANDMAX (R317). -/
def Pkg.bandmax (p : Pkg) : DWord :=
  BitVec.ofNat 64 (p.exc3.toNat * 2 ^ 56 + p.exc2.toNat * 2 ^ 48 + p.exc1.toNat * 2 ^ 40 + p.peakBand.toNat * 2 ^ 36 +
    p.peak.toNat * 2 ^ 24 + p.rate.toNat * 2 ^ 12)

/-- CTX (R10). -/
def ctxReg (x : Ctx) (num : Nat) (priv : Bool) : DWord :=
  BitVec.ofNat 64 (x.gen.toNat * 2 ^ 16 + (if priv then 16 else 0) + num % 16)

/-- FRPOS (R301). -/
def Ctx.frpos (x : Ctx) : DWord :=
  BitVec.ofNat 64 ((if x.ovf then 2 ^ 63 else 0) + x.drops.toNat * 2 ^ 48 + x.head.toNat * 2 ^ 16 + x.tail.toNat)

/-- ERRLOG (R312). -/
def Ctx.errlog (x : Ctx) : DWord := (x.errKind ++ x.errCount ++ x.errAddr : DWord)

/-- LKQUOTA (R115). -/
def Ctx.lkquota (x : Ctx) : DWord := BitVec.ofNat 64 (x.used % 2 ^ 13 * 2 ^ 16 + x.quota % 2 ^ 13)

/-- The cycles of the tick in progress that a read of CYC shows: a free value, at or after those already shown and below the
tick's period (R187, log 4). -/
def Core.showCycles (k : Core) (draw : Nat) : Nat := k.seen + Config.cycleInTick draw % max (k.period - k.seen) 1

/-- A register's value as a group reads it, but for CYC (R185, R186). -/
def State.creg (s : State) (g : Group) : CReg → DWord
  | .ctx => ctxReg (s.ctx g.ctx) g.ctx g.work.priv
  | .cyc => (s.core g.core).cyc
  | .fring => (s.ctx g.ctx).fring
  | .frpos => (s.ctx g.ctx).frpos
  | .fhnd => (s.ctx g.ctx).fhnd
  | .errlog => (s.ctx g.ctx).errlog
  | .pts => (s.core g.core).pts.setWidth 64
  | .lease => s.lease.setWidth 64
  | .tick => s.tick.setWidth 64
  | .rhor => s.horizon.setWidth 64
  | .lkquota => (s.ctx g.ctx).lkquota
  | .srseed => g.work.srseed.setWidth 64
  | .band => s.pkg.band
  | .bandmax => s.pkg.bandmax
  | .evsel n => ((s.core g.core).evsel[n.toNat]?).getD 0
  | .evcnt n => ((s.core g.core).evcnt[n.toNat]?).getD 0

/-- CRD (R185 to R187). -/
def execCrd (d : SReg) (r : CReg) (s : State) : Host.Outcome State Fault Refusal :=
  armM s fun gid g => do
    match r with
    | .cyc =>
      let n ← draw
      let seen := ((← get).core g.core).showCycles n
      modCore g.core ({ · with seen })
      modWork gid g.level fun w => w.result d ((s.core g.core).cyc + BitVec.ofNat 64 seen)
    | r =>
      let v := (← get).creg g r
      modWork gid g.level (·.result d v)

/-! ## What a write of each register does -/

/-- PTS (R104): a move back drops the leased L1 copies and the TLB entries first. A move forward waits as any other advance of
LEAD does, and a core that has yet to take a tick of the present cycle takes it first (R97, R99, log 45); while the clocks stand the
write waits (R107). -/
def writePts (core : Nat) (v : DWord) : M Unit := do
  let s ← get
  need (s.clocked && decide (s.now < (s.core core).tickEnd))
  let new := serialMax (v.setWidth 16) s.floor
  stampLead new
  if serialLe (s.core core).pts new then pure ()
  else modCore core fun k =>
    { k with
      tlb := []
      l1 := k.l1.filter fun (_, l) => match l.kind with
        | .leased .. => false
        | _ => true }
  modCore core ({ · with pts := new })

/-- LEASE (R105). -/
def State.writeLease (s : State) (v : DWord) : State :=
  { s with lease := if v.extractLsb' 0 8 = 0 then 1 else v.extractLsb' 0 8 }

/-- The period that a write to TICK sets (R106). -/
def tickValue (v : DWord) : BitVec 13 :=
  let n := bitsOf v 12 0
  if n < 16 then 16 else if 4096 < n then 4096 else v.extractLsb' 0 13

/-- TICK (R106): every core takes it up at its next tick. It comes between two ticks of the cores, so that all take it up at once,
and when the ticks to come leave LEAD within R99's limit (R97, log 45). -/
def writeTick (v : DWord) : M Unit := do
  let s ← get
  need (s.settled && s.leadFits (min s.pace (tickValue v).toNat) 0)
  set { s with tick := tickValue v }

/-- SRSEED (R202): a new seed epoch begins. -/
def Work.writeSeed (w : Work) (v : DWord) : Work := { w with srseed := v.setWidth 32, epoch := w.epoch + 1 }

/-- FRPOS (R301). -/
def Ctx.writeFrpos (x : Ctx) (v : DWord) : Ctx :=
  { x with head := x.head + v.extractLsb' 16 16, ovf := x.ovf && !v.getLsbD 63
           drops := if v.getLsbD 63 then 0 else x.drops }

/-- ERRLOG (R312). -/
def Ctx.writeErrlog (x : Ctx) (v : DWord) : Ctx :=
  { x with errKind := v.extractLsb' 60 4, errCount := v.extractLsb' 52 8, errAddr := v.extractLsb' 0 52 }

/-- The value an EVSEL takes: the writing group's context number stands in CTX (R332). -/
def evselValue (ctx : Nat) (v : DWord) : DWord :=
  BitVec.ofNat 64 (ctx % 16 * 2 ^ 17 + (if v.getLsbD 16 then 2 ^ 16 else 0) + bitsOf v 7 0)

/-- EVSEL (R332). -/
def State.writeEvsel (s : State) (core ctx : Nat) (n : BitVec 3) (v : DWord) : State :=
  s.updCore core fun k => { k with evsel := k.evsel.setIfInBounds n.toNat (evselValue ctx v) }

/-- EVCNT (R332). -/
def State.writeEvcnt (s : State) (core : Nat) (n : BitVec 3) (v : DWord) : State :=
  s.updCore core fun k => { k with evcnt := k.evcnt.setIfInBounds n.toNat v }

/-! ## CWR (R185, R186) -/

/-- A CWR to the register needs privilege (R185). -/
def privilegedReg : CReg → Bool
  | .frpos | .errlog | .pts | .lease | .tick | .evsel _ | .evcnt _ => true
  | _ => false

/-- A CWR to the register needs the context's clock-control grant (R104 to R106, R185). -/
def clockReg : CReg → Bool
  | .pts | .lease | .tick => true
  | _ => false

/-- Only the host writes the register, or nothing does (R185). -/
def hostReg : CReg → Bool
  | .ctx | .cyc | .fring | .fhnd | .rhor | .lkquota | .band | .bandmax => true
  | _ => false

/-- The effect of a CWR that its checks allow, but for PTS and TICK. -/
def State.writeCreg (s : State) (gid : Nat) (g : Group) (r : CReg) (v : DWord) : State :=
  match r with
  | .frpos => s.updCtx g.ctx (·.writeFrpos v)
  | .errlog => s.updCtx g.ctx (·.writeErrlog v)
  | .lease => s.writeLease v
  | .srseed => s.updWork gid g.level (·.writeSeed v)
  | .evsel n => s.writeEvsel g.core g.ctx n v
  | .evcnt n => s.writeEvcnt g.core n v
  | _ => s

/-- CWR (R185, R186). -/
def execCwr (r : CReg) (a : SReg) (s : State) : Host.Outcome State Fault Refusal :=
  armM s fun gid g => do
    if hostReg r then illegalM
    if privilegedReg r && !g.work.priv then privilegeM
    if clockReg r && !((← get).ctx g.ctx).grants then privilegeM
    match r with
    | .pts => writePts g.core (g.work.sreg a)
    | .tick => writeTick (g.work.sreg a)
    | r => modify (·.writeCreg gid g r (g.work.sreg a))
    nextPc gid g.level

/-! ## Register writes as steps -/

/-- PTS_WRITE (R104). -/
def execPtsWrite (core : Nat) (v : DWord) (s : State) : Host.Outcome State Fault Refusal :=
  moveStep s do
    need (decide (core < Config.cores))
    writePts core v

/-- LEASE_WRITE (R105). -/
def execLeaseWrite (v : DWord) (s : State) : Host.Outcome State Fault Refusal := .next (s.writeLease v)

/-- TICK_WRITE (R106). -/
def execTickWrite (v : DWord) (s : State) : Host.Outcome State Fault Refusal := moveStep s (writeTick v)

/-- SRSEED_WRITE (R202): the seed of the work that runs now. -/
def execSrseedWrite (gid : Nat) (v : DWord) (s : State) : Host.Outcome State Fault Refusal :=
  .next (match s.group? gid with
    | none => s
    | some g => s.updWork gid g.level (·.writeSeed v))

/-- FRPOS_WRITE (R301). -/
def execFrposWrite (ctx : Nat) (v : DWord) (s : State) : Host.Outcome State Fault Refusal :=
  .next (s.updCtx ctx (·.writeFrpos v))

/-- Binding a queue (R282, R326); a queue that still has entries or a started grid keeps its binding, and c outside 4 to 12
is ignored (log 60). -/
def State.bindQueue (s : State) (q ctx c : Nat) : State :=
  let x := Tab.get s.queues q Queue.init
  if 64 ≤ q ∨ 16 ≤ ctx ∨ c < 4 ∨ 12 < c ∨ !x.entries.isEmpty then s
  else { s with queues := Tab.put s.queues q { Queue.init with ctx := some ctx, c, base := x.base } }

/-- REGISTER_WRITE (R5, R186, R300, R306, R312, R324, R326, R332). A window of the HDM decoder that is too large is ignored (log
60). -/
def execRegisterWrite (r : RegTarget) (v : DWord) (s : State) : Host.Outcome State Fault Refusal :=
  .next (match r with
    | .errlog c => s.updCtx c (·.writeErrlog v)
    | .evsel core c n => if core < Config.cores then s.writeEvsel core c n v else s
    | .evcnt core n => if core < Config.cores then s.writeEvcnt core n v else s
    | .root c => s.updCtx c ({ · with root := v.setWidth 52 })
    | .fring c => s.updCtx c ({ · with fring := v &&& 0x01FFFFFFFFFFF00F })
    | .fhnd c => s.updCtx c ({ · with fhnd := v &&& 0x01FFFFFFFFFFFFFD })
    | .lkquota c => s.updCtx c ({ · with quota := bitsOf v 12 0 })
    | .grants c => s.updCtx c ({ · with grants := v.getLsbD 0 })
    | .savebase c => s.updCtx c ({ · with savebase := v &&& 0x01FFFFFFFFE0FFFF })
    | .queueBase q =>
      if q < 64 then { s with queues := Tab.put s.queues q { Tab.get s.queues q Queue.init with base := v } } else s
    | .queueBind q c n => s.bindQueue q c n
    | .hdm => if v.toNat ≤ Config.hdmLimit then { s with pkg := { s.pkg with hdm := v.toNat } } else s)

end Sys2Proof.Machine
end

