-- ==== Sys2Proof/Machine/Host.lean ====
section
/-!
DEFINITION. The context interface of the host driver: doorbells, opening, closing and resetting a context, the frame pool,
mapping counts, and suspended groups (R32, R36, R308, R310, R326, R327, R329).
-/
namespace Sys2Proof.Machine

/-- Power is applied. -/
def State.powered (s : State) : Bool := s.pkg.power != .off

/-! ## Doorbell (R282, R326) -/

/-- DOORBELL, a write to TAIL: every entry below it is visible to the scheduler, whatever the queue's context is doing. Those that the
ring cannot hold are not taken (R282, R326, log 60). -/
def execDoorbell (q : Nat) (tail : BitVec 32) (s : State) : Host.Outcome State Fault Refusal :=
  moveStep s do
    let s ← get
    need (s.powered && decide (q < 64))
    let x := s.queue q
    modify (·.updQueue q (·.reveal (min (tail - BitVec.ofNat 32 x.tail).toNat (2 ^ x.c - x.entries.length))))

/-! ## Contexts (R327, R329) -/

/-- The generation value after one. -/
def nextGen (g : BitVec 12) : BitVec 12 := g + 1

/-- CONTEXT_OPEN: waits until the next generation value is free (R327, R329). -/
def execContextOpen (ctx : Nat) (s : State) : Host.Outcome State Fault Refusal :=
  moveStep s do
    let s ← get
    let x := s.ctx ctx
    need (s.powered && decide (ctx < 16) && x.state == .closed && !s.pkg.markers.contains (ctx, nextGen x.gen))
    modCtx ctx fun x => { x with state := CtxState.open, gen := nextGen x.gen }

/-- The grids made for entries that have not started. -/
def chosenGrids (l : List QEntry) : List Nat := l.filterMap (·.grid)

/-- The entries of a context that have not started are discarded, with no write (R327). -/
def discardEntries (ctx : Nat) : M Unit := do
  let s ← get
  each s.queues fun (q, x) =>
    if x.ctx = some ctx then do
      modify fun s => { s with grids := (chosenGrids x.entries).foldl Tab.erase s.grids }
      modify (·.updQueue q fun x => { x with entries := [], head := x.tail })
    else pure ()

/-- CONTEXT_CLOSE (R327). -/
def execContextClose (ctx : Nat) (s : State) : Host.Outcome State Fault Refusal :=
  moveStep s do
    let s ← get
    need (s.powered && decide (ctx < 16) && (s.ctx ctx).state == .open)
    modCtx ctx ({ · with state := .closing })
    discardEntries ctx

/-- A kill with no fault of its own: the first record is that of the entry the group was in or coming to (R310). -/
def haltGroup (gid : Nat) : M Unit := do
  match (← get).group? gid with
  | none => pure ()
  | some g => killGroup gid (match g.handler with
    | some _ => none
    | none => g.entry.map (·.cls))

/-- Stops copies: they leave their engines with their range records (R310, R327). -/
def stopCopies (p : Nat → Cmd → Bool) : M Unit := do
  let s ← get
  each s.cores fun (c, k) => each (k.engine.filter (p c)) fun cmd => endCmd c cmd true

/-- Each grid of a list gets a value in its completion word and is over (R322, R327). -/
def endGrids (value : Nat) (l : List (Nat × Grid)) : M Unit :=
  each l fun (id, d) => do
    let s ← get
    writeCompletion (s.partCore (d.cores.filter s.alive) d.queue) d.ctx d.queue 0 value d.packet.done
    modify fun s => { s with grids := Tab.erase s.grids id }

/-- CONTEXT_RESET (R310, R327). -/
def execContextReset (ctx : Nat) (s : State) : Host.Outcome State Fault Refusal :=
  moveStep s do
    let s ← get
    need (s.powered && decide (ctx < 16) && (s.ctx ctx).state != .closed)
    each (s.groups.filter fun (_, g) => g.ctx == ctx) fun (gid, _) => haltGroup gid
    discardEntries ctx
    stopCopies fun _ k => k.ctx == ctx
    endGrids (2 ^ 63 + 0x300) ((← get).grids.filter fun (_, d) => d.ctx == ctx)
    modCtx ctx ({ · with state := .closing })

/-- A context that has nothing left running. -/
def State.ctxDone (s : State) (ctx : Nat) : Bool :=
  (Tab.vals s.teams).all (·.ctx != ctx) && (Tab.vals s.grids).all (·.ctx != ctx) &&
    (Tab.vals s.cores).all fun c => c.engine.all (·.ctx != ctx)

/-- A context's generation closes: its TLB entries, its walks and its read-only lines go, and a drain marker is sent (R327,
R329). -/
def closeGen (ctx : Nat) : M Unit := do
  let gen := ((← get).ctx ctx).gen
  modify fun s => { s with cores := Tab.mapVals s.cores fun _ k =>
    { k with tlb := k.tlb.filter (·.ctx != ctx), ro := k.ro.filter (·.ctx != ctx) }
                           walks := s.walks.filter (·.ctx != ctx) }
  modCtx ctx ({ · with state := .closed })
  modPkg fun p => { p with markers := if p.markers.contains (ctx, gen) then p.markers else p.markers ++ [(ctx, gen)] }

/-- CLOSE_COMPLETE (R121, R327, R329). -/
def execCloseComplete (ctx : Nat) (s : State) : Host.Outcome State Fault Refusal :=
  moveStep s do
    let s ← get
    need (decide (ctx < 16) && (s.ctx ctx).state == .closing && s.ctxDone ctx)
    closeGen ctx

/-- DRAIN_MARKER_RETURN: every peer and switch has returned the marker (R329). -/
def execDrainMarkerReturn (ctx : Nat) (gen : BitVec 12) (s : State) : Host.Outcome State Fault Refusal :=
  .next { s with pkg := { s.pkg with markers := s.pkg.markers.filter (· != (ctx, gen)) } }

/-! ## Pool, counts, suspended groups (R32, R36, R308, R326) -/

/-- POOLADD (R326). -/
def execPooladd (ctx : Nat) (pa : DWord) (s : State) : Host.Outcome State Fault Refusal :=
  .next (if s.powered then s.updCtx ctx fun x => { x with pool := x.pool ++ [⟨bitsOf pa 51 16, none⟩] } else s)

/-- MAPCNT (R32, R326). -/
def execMapcnt (v : DWord) (s : State) : Host.Outcome State Fault Refusal :=
  moveStep s do
    need ((← get).powered && counted (bitsOf v 51 16))
    setCount (bitsOf v 51 16) (bitsOf v 7 0)

/-- The suspended group that a GROUPCMD names (R326). -/
def State.suspendedAt (s : State) (ctx : Nat) (v : DWord) : Option Nat :=
  (List.find? (fun (_, g) => g.ctx == ctx && g.present && g.hold == .suspended && dieOf g.core == bitsOf v 2 0 &&
    g.core % Config.coresPerDie == bitsOf v 8 3 && g.slot == bitsOf v 13 9) s.groups).map (·.1)

/-- GROUP_RESUME: the group returns from its handler with the saved state as it stands (R280, R308). -/
def execGroupResume (ctx : Nat) (v : DWord) (s : State) : Host.Outcome State Fault Refusal :=
  moveStep s do
    need (bitsOf v 15 14 == 1)
    match (← get).suspendedAt ctx v with
    | none => waitM
    | some gid => returnFrom gid

/-- GROUP_KILL (R308, R310). -/
def execGroupKill (ctx : Nat) (v : DWord) (s : State) : Host.Outcome State Fault Refusal :=
  moveStep s do
    need (bitsOf v 15 14 == 2)
    match (← get).suspendedAt ctx v with
    | none => waitM
    | some gid => haltGroup gid

end Sys2Proof.Machine
end

