-- ==== Sys2Proof/Machine/Package.lean ====
section
/-!
DEFINITION. Power, sensors, temperature bands, HOLD and WARMING, firmware and attestation, array walk and refresh (R1, R32,
R59 to R61, R107, R314 to R322, R330, R331).
-/
namespace Sys2Proof.Machine

/-! ## Clocks (R107, R315, R318) -/

/-- The clock of a band. -/
def bandClock (code : BitVec 2) : Clock := if code = 0 then .mhz1200 else if code = 1 then .mhz1000 else .stopped

/-- The clocks start: every core, and the host agent, first receives FLOOR (R98, R107). -/
def State.startClocks (s : State) (c : Clock) : State :=
  let behind := (List.range (Config.hostAgent + 1)).filter fun k => !serialLe s.floor (s.core k).pts
  let s := behind.foldl (fun s k => s.updCore k ({ · with pts := s.floor })) s
  { s with pkg := { s.pkg with clock := c } }

/-! ## Sensors and bands (R314 to R317); temperatures are in units of 0.125 K -/

def sensorCount : Nat := 64
def k89 : Nat := 712
def k92 : Nat := 736
def k112 : Nat := 896
def k115 : Nat := 920
def k197 : Nat := 1576
def k200 : Nat := 1600

/-- The highest and the lowest of the readings that count. -/
def highest (l : List (Option (BitVec 12))) : Option Nat := (l.filterMap id).foldl (fun m v => some (max (m.getD 0) v.toNat)) none
def lowest (l : List (Option (BitVec 12))) : Option Nat := (l.filterMap id).foldl (fun m v => some (min (m.getD 4095) v.toNat)) none

/-- TMAX as the part acts on it: more than 8 failed sensors count as above 115 K (R314). -/
def Pkg.actsOn (p : Pkg) : Nat :=
  if 8 < (p.sensors.filter (·.isNone)).length then max p.tmax.toNat (k115 + 1) else p.tmax.toNat

/-- The highest CODE that BANDMAX knows of takes in a code (R317). -/
def Pkg.reach (p : Pkg) (code : BitVec 2) : Pkg := { p with peakBand := if p.peakBand < code then code else p.peakBand }

/-- One band change: SEQ rises, the host is signalled, and an entry from a colder band is an excursion (R316, R317, R326). -/
def Pkg.setCode (p : Pkg) (code : BitVec 2) : Pkg :=
  let up (v : BitVec 8) (k : BitVec 2) : BitVec 8 := if p.code < code ∧ code = k ∧ v ≠ 255 then v + 1 else v
  Pkg.reach { p with code, seq := p.seq + 1, msix := p.msix ++ [80], exc1 := up p.exc1 1, exc2 := up p.exc2 2, exc3 := up p.exc3 3 }
    code

/-- The next band towards a temperature, if it changes (R315). -/
def nextCode (code : BitVec 2) (t : Nat) : Option (BitVec 2) :=
  match code.toNat with
  | 0 => if k92 < t then some 1 else none
  | 1 => if k115 < t then some 2 else if t ≤ k89 then some 0 else none
  | 2 => if k200 < t then some 3 else if t ≤ k112 then some 1 else none
  | _ => if t ≤ k197 then some 2 else none

/-- The bands that a sample enters in turn (R315). -/
def Pkg.bands : Nat → Pkg → Pkg
  | 0, p => p
  | n + 1, p => match nextCode p.code p.actsOn with
    | none => p
    | some c => Pkg.bands n (p.setCode c)

/-- A sample's readings, TMAX, TMIN, PEAK and RATE; the band that stands at it is one that BANDMAX knows of (R314, R316, R317, log
67). -/
def Pkg.read (p : Pkg) (readings : List (Option (BitVec 12))) : Pkg :=
  let t := (highest readings).getD p.tmax.toNat
  let hist := (BitVec.ofNat 12 t :: p.history).take 60001
  let change := hist.foldl (fun m v => max m (max v.toNat t - min v.toNat t)) 0
  Pkg.reach { p with
    sensors := readings, tmax := BitVec.ofNat 12 t, tmin := BitVec.ofNat 12 ((lowest readings).getD p.tmin.toNat)
    history := hist
    peak := if p.peak.toNat < t then BitVec.ofNat 12 t else p.peak
    rate := if p.rate.toNat < change then BitVec.ofNat 12 change else p.rate } p.code

/-- Enters a state (R320). -/
def Pkg.enter (p : Pkg) (st : Power) : Pkg := { p with power := st, samples := 0, soaked := 0 }

/-- Enters HOLD; the drain runs at the B1 clock (R319). -/
def Pkg.enterHold (p : Pkg) : Pkg :=
  { p.enter .hold with drained := false, warmWanted := false, exiting := false, clock := if p.clock = .stopped then .stopped else .mhz1000 }

/-- Enters RUN or RETREAT from the other, with the clock step of R318 to come. -/
def Pkg.shift (p : Pkg) (st : Power) : Pkg := { p.enter st with stepping := true }

/-- The entry actions of RUN or RETREAT are still running: the clock step, or the exit of HOLD (R318 to R320). -/
def Pkg.busy (p : Pkg) : Bool := p.stepping || p.exiting

/-! ## WARMING (R322) -/

/-- A line record without its lock, its waiters and its range records; no mark is left (R121, R322). -/
def Home.unlock (h : Home) : Home := { h with holder := none, queue := [], records := [], held := false }

/-- A closed context keeps its registers, its pool and its tables; its locks and its records of the save area are gone. -/
def Ctx.shut (x : Ctx) : Ctx := { x with used := 0, units := [] }

/-- Entry to WARMING: unfinished grids get their value, and every context is closed (R322). -/
def enterWarming : M Unit := do
  stopCopies fun _ _ => true
  each (List.range 16) discardEntries
  endGrids (2 ^ 63 + 0x200) (← get).grids
  modify fun s => { s with
    groups := [], teams := [], grids := [], walks := [], homes := Tab.mapVals s.homes fun _ h => h.unlock
    cores := Tab.mapVals s.cores fun _ k => { k with matrix := [] }
    queues := Tab.mapVals s.queues fun _ x => { x with entries := [], head := x.tail, lastGrid := none }
    ctxs := s.ctxs.map (·.shut) }
  each (List.range 16) fun c => do
    if ((← get).ctx c).state = .closed then pure () else closeGen c
  modPkg fun p => { p.enter .warming with hostHold := false, warmWanted := false }

/-! ## Samples and transitions (R315, R320) -/

/-- The transition that a state takes on the temperatures it has and on a host HOLD in force, but for those out of HOLD. RUN and
RETREAT stay until their entry actions are done (R318 to R321, log 86). -/
def Pkg.sampleStep (p : Pkg) : Option Pkg :=
  let t := p.actsOn
  match p.power with
  | .cooling => if t ≤ k89 then some (p.enter .soak) else none
  | .soak => if k92 < t then some (p.enter .cooling) else none
  | .run => if p.busy then none else if k92 < t ∨ p.hostHold then some (p.shift .retreat) else none
  | .retreat =>
    if p.busy then none
    else if k115 < t ∨ p.hostHold then some p.enterHold
    else if t ≤ k89 then some (p.shift .run) else none
  | .warming => if k200 < p.tmin.toNat then some (p.enter .ambient) else none
  | _ => none

/-- The transitions of a sample in turn (R315, R320). -/
def Pkg.transitions : Nat → Pkg → Pkg
  | 0, p => p
  | n + 1, p => match p.sampleStep with
    | none => p
    | some q => Pkg.transitions n q

/-- The clock of a state: it follows the band. In RUN and RETREAT a running clock does not stop before the drain, which runs at
the clock of B1; HOLD and WARMING see to theirs (R315, R318, R319, log 66). -/
def Pkg.wantedClock (p : Pkg) : Clock := match p.power with
  | .off | .hold | .warming => p.clock
  | .run | .retreat =>
    if bandClock p.code = .stopped ∧ p.clock ≠ .stopped then .mhz1000 else bandClock p.code
  | _ => bandClock p.code

/-- The clocks may stop: every core has taken its tick of the present cycle, or they stand already (R97, R107). -/
def State.mayStop (s : State) : Bool := !s.clocked || s.settled

/-- The exit of HOLD has placed the saved teams again: none is left that some core has room for (R294, R319). -/
def State.exitDone (s : State) : Bool :=
  (Tab.vals s.teams).all fun t => t.saved.isNone || (List.range Config.cores).all fun c => !s.hasRoom c (s.teamRoom t) []

/-- The exit of HOLD is over once it has placed the saved teams. -/
def State.endExit (s : State) : State :=
  if s.pkg.exiting && s.exitDone then { s with pkg := { s.pkg with exiting := false } } else s

/-- CLOCK_STEP: the clock follows the band; a clock that stood restarts, and one that runs may stop (R107, R315, R318, log 66).
What has waited for the step, or for the exit of HOLD, is taken after it (R320). -/
def execClockStep (s : State) : Host.Outcome State Fault Refusal :=
  .next (
    let busy := s.pkg.busy
    let s := s.endExit
    let c := s.pkg.wantedClock
    let t := if c == s.pkg.clock || (c == .stopped && !s.mayStop) then s
      else if s.pkg.clock == .stopped then s.startClocks c
      else { s with pkg := { s.pkg with clock := c } }
    if busy then { t with pkg := Pkg.transitions 4 { t.pkg with stepping := false } } else t)

/-- Counts a sample: time in the state, and time within SOAK's limits (R320). -/
def Pkg.countSample (p : Pkg) : Pkg :=
  { p with samples := p.samples + 1
           soaked := if p.power = .soak ∧ p.actsOn ≤ k89 ∧ p.tmax.toNat ≤ p.tmin.toNat + 16 then p.soaked + 1 else 0 }

/-- Sensors that fail now and did not before (R314, R332, log 67). -/
def newlyFailed (old new : List (Option (BitVec 12))) : Nat :=
  ((old.zip new).filter fun (a, b) => a.isSome && b.isNone).length

/-- HOLD gives way to WARMING once its entry actions are complete (R320). -/
def warmIfDue : M Unit := do
  let p := (← get).pkg
  if p.power = .hold ∧ p.drained ∧ (k200 < p.actsOn ∨ p.warmWanted) then enterWarming else pure ()

/-- SENSOR_SAMPLE: one reading of each of the 64 sensors, or none from a sensor that fails its self-check (R314 to R317, R320). -/
def execSensorSample (readings : List (Option (BitVec 12))) (s : State) : Host.Outcome State Fault Refusal :=
  moveStep s do
    need ((← get).powered && readings.length == sensorCount)
    let failed := newlyFailed (← get).pkg.sensors readings
    each (List.replicate failed 0x03) countPkg
    modify State.endExit
    modPkg fun p => ((p.read readings).bands 4).countSample.transitions 4
    modify (takeMove · warmIfDue)

/-- SOAK_COMPLETE: 60 s of samples within the limits (R320). -/
def execSoakComplete (s : State) : Host.Outcome State Fault Refusal :=
  .next (if s.pkg.power == .soak && decide (60000 ≤ s.pkg.soaked) then { s with pkg := s.pkg.enter .train } else s)

/-- COOLING_TIMEOUT: 90 minutes of samples (R320). -/
def execCoolingTimeout (s : State) : Host.Outcome State Fault Refusal :=
  .next (if s.pkg.power == .cooling && decide (5400000 ≤ s.pkg.samples) then
    { s with pkg := { s.pkg.enter .ambient with coolFailed := true } } else s)

/-- A core whose arrays have been cleared. -/
def Core.cleared (k : Core) : Core :=
  { k with l1 := [], wb := [], ro := [], tlb := [], icache := [], lcache := [], engine := [], nextId := 1, status := []
           matrix := [], lastGrid := none }

/-- TRAIN_COMPLETE: memory and arrays are zero, counts are 1, pairs that failed to train are lost (R32, R61, R320). -/
def execTrainComplete (failedPairs : List Nat) (s : State) : Host.Outcome State Fault Refusal :=
  .next (if s.pkg.power == .train then
    { s with
      mem := [], poison := [], homes := [], rdc := [], mapcnt := [], walks := []
      cores := Tab.mapVals s.cores fun _ k => k.cleared
      pkg := { s.pkg.enter .run with snooped := [], lost := dedup (s.pkg.lost ++ failedPairs.filter (· < 8)) } }
  else s)

/-! ## HOLD (R319) -/

/-- Every L1 line, buffer line and view of a core goes home or goes (R319 step 4). -/
def emptyCore (core : Nat) : M Unit := do
  releaseCore core
  flushNoncoh core
  each ((← get).core core).l1 fun (line, l) => match l.kind with
    | .owned .. => modHome line ({ · with owner := none })
    | _ => pure ()
  modCore core fun k => { k with l1 := [], wb := [], ro := [], tlb := [], icache := [], lcache := [] }

/-- HOLD_ENTRY: once every team is saved and every copy has completed or is stalled, the caches go home, and the clocks stop
(R107, R319). -/
def execHoldEntry (s : State) : Host.Outcome State Fault Refusal :=
  moveStep s do
    let s ← get
    need (s.pkg.power == .hold && !s.pkg.drained && (Tab.vals s.teams).all (·.saved.isSome))
    need ((Tab.vals s.cores).all fun c => c.engine.all (·.stalled))
    need s.mayStop
    each (Tab.keys s.cores) emptyCore
    each (List.range 8) flushRdc
    modify fun s => { s with rdc := [], walks := [], pkg := { s.pkg with drained := true, clock := .stopped } }
    modify (takeMove · warmIfDue)

/-- HOLD_EXIT: the clocks start and the part is in RETREAT; the saved teams are then placed again under R294, and until that is done
RETREAT is not left (R319 to R321). -/
def execHoldExit (s : State) : Host.Outcome State Fault Refusal :=
  .next (if s.pkg.power == .hold && s.pkg.drained && decide (s.pkg.actsOn ≤ k112) && !s.pkg.hostHold then
    ({ s with pkg := { s.pkg.enter .retreat with drained := false, stepping := false, exiting := true } }).startClocks .mhz1000
  else s)

/-! ## Host commands (R317, R320, R321, R330, R331) -/

/-- BANDMAX_CLEAR: the counts and RATE are 0, and PEAKBAND and PEAK are the CODE and the TMAX that stand (R317, log 67). -/
def execBandmaxClear (s : State) : Host.Outcome State Fault Refusal :=
  .next { s with pkg := { s.pkg with exc1 := 0, exc2 := 0, exc3 := 0, peakBand := s.pkg.code, peak := s.pkg.tmax, rate := 0 } }

/-- COOL (R320, R330). -/
def execCool (s : State) : Host.Outcome State Fault Refusal :=
  .next (if s.pkg.power == .ambient && s.pkg.firmware.isSome then
    { s with pkg := { s.pkg.enter .cooling with coolFailed := false } } else s)

/-- HOLD: in force from now until RESUME, or until WARMING is entered. RUN gives way to RETREAT and RETREAT to HOLD, each once its
clock step is done (R318, R320, R321). -/
def execHold (s : State) : Host.Outcome State Fault Refusal :=
  .next (if s.powered then
    let s := s.endExit
    let p := { s.pkg with hostHold := true }
    { s with pkg := if p.power == .run || p.power == .retreat then p.transitions 4 else p }
  else s)

/-- RESUME (R321). -/
def execResume (s : State) : Host.Outcome State Fault Refusal := .next { s with pkg := { s.pkg with hostHold := false } }

/-- WARM: HOLD gives way to WARMING once its entry actions are complete (R320, R322). -/
def execWarm (s : State) : Host.Outcome State Fault Refusal :=
  moveStep s do
    need ((← get).pkg.power == .hold)
    modPkg ({ · with warmWanted := true })
    modify (takeMove · warmIfDue)

/-- FIRMWARE_VERIFY: the hash is kept if the signature is good (R330). `good` is what the boot ROM's verification finds. -/
def execFirmwareVerify (image : List Byte) (good : Bool) (s : State) : Host.Outcome State Fault Refusal :=
  .next (if s.pkg.power == .ambient then
    { s with pkg := { s.pkg with firmware := if good then some (sha384 image) else none, fwFailed := !good } }
  else s)

/-- The contexts of a report: number, generation and grant (R331). -/
def State.openContexts (s : State) : List (Nat × BitVec 12 × Bool) :=
  (List.range 16).filterMap fun c => let x := s.ctx c
    if x.state = .open then some (c, x.gen, x.grants) else none

/-- The bytes that a report signs. -/
def reportBytes (nonce hash : List Byte) (open_ : List (Nat × BitVec 12 × Bool)) (lost : List Nat) : List Byte :=
  nonce ++ hash ++ open_.flatMap (fun (c, g, r) => [BitVec.ofNat 8 c] ++ leBytesOf 2 g.toNat ++ [if r then 1 else 0]) ++
    lost.map (BitVec.ofNat 8 ·)

/-- ATTESTATION (R331). -/
def execAttestation (nonce : List Byte) (s : State) : Host.Outcome State Fault Refusal :=
  .next (if s.powered && nonce.length == 48 then
    let hash := s.pkg.firmware.getD []
    let open_ := s.openContexts
    let r : Report := ⟨nonce, hash, open_, s.pkg.lost, Config.attestationSignature (reportBytes nonce hash open_ s.pkg.lost)⟩
    { s with pkg := { s.pkg with report := some r } }
  else s)

/-! ## Power (R320, R331) -/

/-- The machine with everything as after reset but the model's own fields. -/
def State.restart (s : State) (p : Power) : State :=
  { State.reset with pkg := { Pkg.init with power := p }, agenda := s.agenda, turn := s.turn, draws := s.draws, nextSeq := s.nextSeq
                     nextGroup := s.nextGroup, nextTeam := s.nextTeam, nextGrid := s.nextGrid, nextReq := s.nextReq }

/-- POWER_ON (R320). -/
def execPowerOn (s : State) : Host.Outcome State Fault Refusal := .next (if s.powered then s else s.restart .ambient)

/-- POWER_OFF (R320). -/
def execPowerOff (s : State) : Host.Outcome State Fault Refusal := .next (s.restart .off)

/-! ## Array walk, refresh (R59, R60, R315) -/

/-- The walk runs in bands B0 and B1 (R59, R315). -/
def Pkg.walks (p : Pkg) : Bool := p.power != .off && (p.code == 0 || p.code == 1)

/-- A copy of a line with one of its sectors poisoned. -/
def LineData.spoil (d : LineData) (k : Nat) : LineData := { d with poison := d.poison ||| 1 <<< k }

/-- The register file holds a register of some work: one of its budget, and of an elastic group's those that are cached (R292). -/
def Work.holds (w : Work) (r : Nat) : Bool := decide (r < w.budget) && (!w.elastic || w.cached.contains r)

/-- A sector is poisoned where it stands (R60). What is read from it, or written back from it, is then poisoned; a poisoned TLB
entry is never used (log 92). -/
def State.spoil (s : State) : Sector → State
  | .home k => { s with poison := setSector s.poison k true }
  | .l1 c line k => s.updCore c fun x => { x with l1 := Tab.modify x.l1 line fun l => { l with data := l.data.spoil k } }
  | .ro c ctx line k => s.updCore c fun x =>
      { x with ro := x.ro.map fun r => if r.ctx = ctx ∧ r.line = line then { r with data := r.data.spoil k } else r }
  | .rdc d line k => { s with rdc := Tab.modify s.rdc (rdcKey d line) fun r => { r with data := r.data.spoil k } }
  | .code c line k lane => s.updCore c fun x =>
      if lane then { x with lcache := Tab.modify x.lcache line (·.spoil k) } else { x with icache := Tab.modify x.icache line (·.spoil k) }
  | .tlb c ctx va => s.updCore c fun x => { x with tlb := x.tlb.filter fun t => !(t.ctx == ctx && t.covers va) }
  | .scratch t k => { s with teams := Tab.modify s.teams t fun x => { x with bad := if x.bad.contains k then x.bad else insertNat k x.bad } }
  | .slot t i row => { s with teams := Tab.modify s.teams t fun x => { x with slots := Tab.modify x.slots i fun r =>
      if r.fmt = .acc then { r with rpois := r.rpois ||| 1 <<< row } else { r with tpois := true } } }
  | .vreg g r k => s.updGroup g fun x =>
      if x.work.holds r then
        let v := x.work.vreg r
        { x with work := x.work.setV r { v with poison := v.poison ||| BitVec.ofNat 32 (0xFF * 256 ^ k) } }
      else x

/-- ARRAY_WALK: a row is corrected and written back; an error that cannot be corrected poisons its sector (R59, R60). -/
def execArrayWalk (f : WalkFinding) (s : State) : Host.Outcome State Fault Refusal :=
  moveStep s do
    need (← get).pkg.walks
    match f with
    | .clean => pure ()
    | .corrected => countPkg 0x00
    | .dramCorrected => countPkg 0x01
    | .uncorrectable sector => do
      countPkg 0x02
      modify (·.spoil sector)

/-- DRAM_REFRESH changes nothing that a program or the host can observe (R59, R315). -/
def execDramRefresh (_pair : Nat) (s : State) : Host.Outcome State Fault Refusal := .next s

end Sys2Proof.Machine
end

