-- ==== Sys2Proof/Machine/Fabric.lean ====
section
/-!
DEFINITION. Host memory requests, fabric packets, ports, and the loss of a die pair (R14, R61, R121, R278, R313, R319, R325,
R328, R329).
-/
namespace Sys2Proof.Machine

/-! ## Host memory requests (R324, R325) -/

/-- Runs of a physical range that stay in one line. -/
def paRuns (pa n : Nat) : List (Nat × Nat × Nat) := lineRuns (n / 128 + 2) pa n

/-- Every line of a range is usable device memory that is at hand (R13, R61). -/
def State.windowed (s : State) (runs : List (Nat × Nat × Nat)) : Bool :=
  runs.all fun (a, _, _) => usableLocal a && s.place a == .here

/-- The place of a usable local address among all of them, in rising order. -/
def usableIndex (pa : Nat) : Nat := pairOf pa * Config.holdBase + pa % 2 ^ 38

/-- The window of the HDM decoder maps a range: the first usable local addresses, up to its size (R324, log 110). -/
def State.mapped (s : State) (runs : List (Nat × Nat × Nat)) : Bool :=
  s.windowed runs && runs.all fun (a, _, k) => decide (usableIndex a + k ≤ s.pkg.hdm * 2 ^ 28)

/-- A read by the host agent: a renewing load at home that leaves no copy, or for a line that the directory holds as
system-coherent a read there (R325, log 68). Poisoned bytes give `none`. -/
def hostRead : List (Nat × Nat × Nat) → M (Option (List Byte))
  | [] => pure (some [])
  | (a, _, k) :: rest => do
    if (← get).pkg.snooped.contains (lineOf a) then sysLine (lineOf a)
    else
      let (w, _) ← readHome Config.hostAgent (lineOf a)
      jump Config.hostAgent w
    let d := (← get).homeData (lineOf a)
    match ← hostRead rest with
    | none => pure none
    | some bs => pure (if d.poisoned (a % 128) k then none else some (d.slice (a % 128) k ++ bs))

/-- A write to a line by the host agent: a device-scope drain, or in the directory (R325). -/
def hostStore (line : Nat) (d : LineData) (mask : BitVec 128) : M Unit := do
  let mask := (← get).open_ line mask
  if (← get).pkg.snooped.contains line then
    sysLine line
    modify (·.putHome line d mask)
  else let _ ← storeDevice Config.hostAgent line d mask

/-- A write by the host agent. -/
def hostWrite (base : Nat) (bytes : List Byte) : M Unit :=
  each (paRuns base bytes.length) fun (a, _, k) =>
    hostStore (lineOf a) (lineWith (a % 128) ((bytes.drop (a - base)).take k)) (maskOf (a % 128) k)

/-! ## Fabric packets (R328, R329) -/

/-- A peer's access to a range performs in the directory, once no line of it is blocked (R84, R328). -/
def rangeFree (runs : List (Nat × Nat × Nat)) : M Unit := each runs fun (a, _, _) => sysLine (lineOf a)

/-- Bytes of a range at home. -/
def State.rangeBytes (s : State) (runs : List (Nat × Nat × Nat)) : List Byte :=
  runs.flatMap fun (a, _, k) => (s.homeData (lineOf a)).slice (a % 128) k

/-- A range at home takes bytes. -/
def State.putRange (s : State) (base : Nat) (bytes : List Byte) : State :=
  (paRuns base bytes.length).foldl (fun s (a, _, k) =>
    s.putHome (lineOf a) (lineWith (a % 128) ((bytes.drop (a - base)).take k)) (s.open_ (lineOf a) (maskOf (a % 128) k))) s

/-- A peer's access to memory of this package, in the order in which the directory receives it (R84, R328). The answer is the
bytes it returns; `none` is an error response. -/
def peerAccess (base n : Nat) (run : M (List Byte)) : M (Option (List Byte)) := do
  let runs := paRuns base n
  if (← get).windowed runs then
    rangeFree runs
    pure (some (← run))
  else pure none

/-- A directory message has the filter hold a line as system-coherent, or let it go (R328, log 110). -/
def Pkg.direct (p : Pkg) (line : Nat) (held : Bool) : Pkg :=
  { p with snooped := if held then (if p.snooped.contains line then p.snooped else insertNat line p.snooped)
                      else p.snooped.filter (· != line) }

/-- What a packet does at its destination. Copy data is stamped past the leases of its lines, as an engine's writes are (R80, R103,
R274, R328, log 110). -/
def packetEffect (b : PacketBody) : M (Option (List Byte)) :=
  match b with
  | .load pa n => peerAccess pa.toNat n do pure ((← get).rangeBytes (paRuns pa.toNat n))
  | .store pa bytes => peerAccess pa.toNat bytes.length do
      modify (·.putRange pa.toNat bytes)
      pure []
  | .copyData pa bytes => do
    if (← get).windowed (paRuns pa.toNat bytes.length) then
      each (paRuns pa.toNat bytes.length) fun (a, _, k) => do
        unblocked (lineOf a)
        let _ ← storeDevice Config.hostAgent (lineOf a) (lineWith (a % 128) ((bytes.drop (a - pa.toNat)).take k))
          ((← get).open_ (lineOf a) (maskOf (a % 128) k))
      pure (some [])
    else pure none
  | .atomic pa op n b c => peerAccess pa.toNat n do
      let old := (← get).rangeBytes (paRuns pa.toNat n)
      let m := 2 ^ (8 * n)
      modify (·.putRange pa.toNat (leBytesOf n (atomNew op n (leVal old) (b.toNat % m) (c.toNat % m))))
      pure old
  | .fred tag count ty x contribs root elems => do
    need ((← get).pkg.taking tag.toNat)
    let f := Fred.opened count ty x (contribs.toNat + 1) root
    match (← get).pkg.contribute tag.toNat f (elems.map fun w => contribution ty.toNat x w.toNat) none with
    | none => pure none
    | some p => do
      modPkg fun _ => p
      pure (some [])
  | .directory pa held => do
    if usableLocal pa.toNat then modPkg (·.direct (lineOf pa.toNat) held) else pure ()
    pure (some [])

/-! ## Requests that wait (R319, R325) -/

/-- Runs a move; `none` if it waits, with nothing changed. -/
def tryNow {α : Type} (m : M α) : M (Option α) := fun s => match m s with
  | .ok a s' => .ok (some a) s'
  | .error _ _ => .ok none s

/-- What a request does when it performs. -/
def Request.run : Request → M (Option (List Byte))
  | .read pa n => do
    let runs := paRuns pa.toNat n
    if (← get).mapped runs then hostRead runs else pure none
  | .write pa bytes => do
    if (← get).mapped (paRuns pa.toNat bytes.length) then
      hostWrite pa.toNat bytes
      pure (some [])
    else pure none
  | .fabric p => packetEffect p.body

/-- The answer to a request. -/
def answer (req : Nat) (r : Option (List Byte)) : M Unit :=
  modPkg fun p => { p with answers := p.answers ++ [⟨req, r.isSome, r.getD []⟩], requests := Tab.erase p.requests req }

/-- A request is tried. In HOLD it waits for RETREAT, and while the clocks stand for them; on a blocked line it waits; before memory
is trained and after it is given up there is nothing to serve it (R107, R319, R325, log 68). -/
def serve (id : Nat) (r : Request) : M Unit := do
  let s ← get
  match s.pkg.power with
  | .run | .retreat => do
    if s.clocked then
      match ← tryNow r.run with
      | some x => answer id x
      | none => pure ()
    else pure ()
  | .hold => pure ()
  | _ => answer id none

/-- A request arrives: it is kept, and tried at once. -/
def arrive (r : Request) : M Unit := do
  let id := (← get).nextReq
  modify fun s => { s with nextReq := id + 1, pkg := { s.pkg with requests := Tab.put s.pkg.requests id r } }
  serve id r

/-- CXL_MEM_READ (R325). -/
def execCxlMemRead (pa : BitVec 52) (n : Nat) (s : State) : Host.Outcome State Fault Refusal :=
  moveStep s do
    need ((← get).powered)
    arrive (.read pa n)

/-- CXL_MEM_WRITE (R325). -/
def execCxlMemWrite (pa : BitVec 52) (bytes : List Byte) (s : State) : Host.Outcome State Fault Refusal :=
  moveStep s do
    need ((← get).powered)
    arrive (.write pa bytes)

/-- A generation is open here (R329). -/
def State.genOpen (s : State) (ctx : Nat) (gen : BitVec 12) : Bool :=
  (s.ctx ctx).state != .closed && (s.ctx ctx).gen == gen && decide (ctx < 16)

/-- A port is up. -/
def Pkg.portUp (p : Pkg) (i : Nat) : Bool := (p.ports[i]?.map (·.up)).getD false

/-- FABRIC_PACKET: a packet for this package, through any port that is up, performs, or is dropped and counted if its generation is
not open (R328, R329). -/
def execFabricPacket (p : Packet) (s : State) : Host.Outcome State Fault Refusal :=
  moveStep s do
    let s ← get
    need (s.powered && p.dst == s.pkg.fabricNo && s.pkg.ports.any (·.up))
    if s.genOpen p.ctx p.gen then arrive (.fabric p) else countPkg 0x05

/-- A request that waits is tried again; a packet whose generation is open no longer is dropped and counted (R319, R325, R329). -/
def retry (req : Nat) : M Unit := do
  let s ← get
  match Tab.find? s.pkg.requests req with
  | none => waitM
  | some (.fabric p) =>
    if s.genOpen p.ctx p.gen then serve req (.fabric p)
    else
      countPkg 0x05
      modPkg fun k => { k with requests := Tab.erase k.requests req }
  | some r => serve req r

/-- COMPLETION_TIMEOUT: a request that has waited past its requester's timeout completes with an error (R319, R325). -/
def execCompletionTimeout (req : Nat) (s : State) : Host.Outcome State Fault Refusal :=
  moveStep s do
    need (Tab.find? (← get).pkg.requests req).isSome
    answer req none

/-! ## Ports (R328) -/

/-- Changes a port. -/
def Pkg.updPort (p : Pkg) (i : Nat) (f : Port → Port) : Pkg := { p with ports := p.ports.modify i f }

/-- A port is up and may replay a flit once more. -/
def Pkg.replays (p : Pkg) (i flit : Nat) : Bool := match p.ports[i]? with
  | some x => x.up && decide (Tab.get x.replays flit 0 < 16)
  | none => false

/-- FLIT_REPLAY: the replays of a flit are counted on its port, and over the package. A port whose flit has failed 16 times goes down
and replays it no more (R328, R332). -/
def execFlitReplay (f : PortFlit) (s : State) : Host.Outcome State Fault Refusal :=
  moveStep s do
    need ((← get).pkg.replays f.port f.flit)
    countPkg 0x04
    modPkg (·.updPort f.port fun x => { x with replays := Tab.put x.replays f.flit (Tab.get x.replays f.flit 0 + 1) })

/-- A port has failed 16 replays of one flit. -/
def Pkg.worn (p : Pkg) (i : Nat) : Bool := match p.ports[i]? with
  | some x => x.up && (Tab.vals x.replays).any fun n => decide (16 ≤ n)
  | none => false

/-- A line of another package. -/
def ofPeer (line : Nat) : Bool := match region (line * 128) with
  | .peer _ => true
  | _ => false

/-- ERRRESP of an access whose packet is lost (R14, R299). -/
def lostFault (va : DWord) (pa : Nat) : XFault := ⟨Cls.errresp, 0, va, BitVec.ofNat 64 pa⟩

/-- The physical address of an access to another package; any other loses no packet. -/
def peerPa (core ctx : Nat) (va : DWord) (r : Right) : M Nat := do
  match ← accessAt core ctx va r none with
  | .error _ => waitM
  | .ok x => do
    need (ofPeer (lineOf x.pa))
    pure x.pa

/-- A group that may issue. -/
def theRunnable (gid : Nat) : M Group := do
  match (← get).runnable gid with
  | none => waitM
  | some g => pure g

/-- The address that an Armature instruction itself loads from at issue (R183, R270, R276). -/
def issueLoad (g : Group) : Instr → Option DWord
  | .cpy _ a | .cpys _ a | .cpyw _ a | .gath _ a | .scat _ a | .cpyob _ a | .fred _ a => match g.work.list with
    | none => some (g.work.sreg a)
    | some p => (p.block.listRuns p.got).head?.map fun (x, _, _) => BitVec.ofNat 64 x
  | .launch _ a _ => if g.work.tokensRetired && g.accessesDone then some (g.work.sreg a) else none
  | _ => none

/-- The fetch of an Armature word, or of a part of a lane word, is lost (R166, R297). -/
def loseFetch (gid : Nat) (lane : Option (Bool × BitVec 2)) : M Unit := do
  let g ← theRunnable gid
  match lane with
  | none => do
    need (!g.armBlocked)
    let pa ← peerPa g.core g.ctx g.work.pc .fetch
    need (Tab.find? ((← get).core g.core).icache (lineOf pa)).isNone
    raise gid g.level (recsOf g.work.pc 0 0 false [(0, lostFault g.work.pc pa)])
  | some (cur, part) => do
    match laneAt ((← get).at_ gid cur 0) with
    | none => waitM
    | some x => do
      need (part != 3)
      let va := x.cursor.pc + 4 * part.setWidth 64
      let pa ← peerPa g.core g.ctx va .fetch
      need (Tab.find? ((← get).core g.core).lcache (lineOf pa)).isNone
      modWork gid g.level (·.reread cur)
      raise gid g.level (recsOf x.cursor.pc 0 (if cur then 2 else 1) false [(0, lostFault va pa)])

/-- The table read of a cursor's token is lost, or of the token that it takes (R127). -/
def loseTable (gid : Nat) (cur : Bool) : M Unit := do
  let g ← theRunnable gid
  let d ← theGrid (← theTeam g.team).grid
  let lost (t : Token) : M Unit := do
    let va := d.packet.table + 8 * t.block.setWidth 64
    let pa ← peerPa g.core g.ctx va .load
    raiseLogged gid g.level (tokenRecs cur va t.block (lostFault va pa)) [pa]
  match g.work.cursor cur with
  | some c => do
    need c.start.isNone
    lost c.token
  | none => match g.work.nextToken cur with
    | none => waitM
    | some t => do
      need (t.trips != 0)
      modWork gid g.level fun w => (w.dropToken t.seq).setCursor cur (some ⟨t, t.trips, none, 0, []⟩)
      lost t

/-- The load that the Armature's next instruction makes at issue is lost (R183, R270). -/
def loseIssue (gid : Nat) : M Unit := do
  let g ← theRunnable gid
  need (!g.armBlocked)
  let w ← fetchArm g.core g.ctx g.work.pc
  match decodeArm w with
  | .error _ => waitM
  | .ok i => match issueLoad g i with
    | none => waitM
    | some va => do
      let pa ← peerPa g.core g.ctx va .load
      raise gid g.level (recsOf g.work.pc (BitVec.ofNat 32 w) 0 false [(0, lostFault va pa)])

/-- What a reduction sends to the switches is lost, or what its root gets from them: the command ends with ERR set, and writes
nothing (R278, R280, log 57). -/
def loseContribution (core : Nat) (id : BitVec 16) : M Unit := do
  let s ← get
  match s.cmd? core id with
  | none => waitM
  | some k => do
    need (!k.stalled && k.kind == .fred && (k.sent || decide ((s.unread k).length ≤ 1)))
    copyError core k k.block.src 0
    match (← get).cmd? core id with
    | some k => endCmd core k false
    | none => pure ()

/-- The part's read of an entry's dependence word is lost: the entry is rejected (R285, R286). -/
def loseDependence (q : Nat) : M Unit := do
  let (c, _, e) ← headOfQueue q
  need (e.checked && !e.depMet)
  let _ ← peerPa ((← get).partCore [] q) c e.daddr .load
  reject q c e 0x09

/-- An access whose packet is lost receives an error response (R14, R328). Only accesses to another package use the fabric; a
request of the host or of a peer is answered so. -/
def loseAccess : LostAccess → M Unit
  | .load gid st => do
    let e ← headLoad (← theGroup gid) st
    need ((e.line?.map ofPeer).getD false)
    dropLaunch gid e
    loadDone gid e
    performFault gid e.acc false (e.elems.map fun x => (x.lane, lostFault x.va x.pa))
  | .store gid st => do
    let e ← headStore (← theGroup gid) st
    need ((e.line?.map ofPeer).getD false)
    storeDone gid e
    performFault gid e.acc false (e.elems.map fun x => (x.lane, lostFault x.va x.pa))
  | .fetchA gid => loseFetch gid none
  | .fetchL gid cur part => loseFetch gid (some (cur, part))
  | .table gid cur => loseTable gid cur
  | .issue gid => loseIssue gid
  | .contribution core id => loseContribution core id
  | .completion id => finishGrid id fun d core => do
    let _ ← peerPa core d.ctx d.packet.done .store
    logError d.ctx 2 (d.queue % 64 * 256)
  | .dependence q => loseDependence q
  | .copyRead core id va => do
    match (← get).cmd? core id with
    | none => waitM
    | some k =>
      need (!k.stalled)
      match ((← get).unread k).find? fun (key, _) => key % 2 ^ 64 == va.toNat / 128 * 128 with
      | none => waitM
      | some (key, a) => match ← sourcePa core k key (BitVec.ofNat 64 a) with
        | .error _ => waitM
        | .ok pa => do
          need (ofPeer (lineOf pa))
          readRefused core k key (BitVec.ofNat 64 a) pa
  | .copyWrite core id line => do
    match (← get).cmd? core id with
    | none => waitM
    | some k =>
      need (!k.stalled && k.kind != .fred && k.todo.contains line && ofPeer line)
      writeRefused core k line (firstVa ((k.runs (← get).pkg.fabricNo.toNat).filter (·.line == line)))
  | .request req => do
    need (Tab.find? (← get).pkg.requests req).isSome
    answer req none

/-- PORT_DOWN: after 16 failed replays of one flit; the accesses whose packets are lost receive error responses, and the other
traffic takes the other ports (R328). -/
def execPortDown (l : PortLoss) (s : State) : Host.Outcome State Fault Refusal :=
  moveStep s do
    need ((← get).pkg.worn l.port)
    countPkg 0x06
    modPkg (·.updPort l.port fun _ => ⟨false, []⟩)
    each l.lost loseAccess

/-! ## PAIR_LOSS (R61, R121, R313) -/

/-- A line is homed on a pair. -/
def homedOn (k line : Nat) : Bool := isLocal line && pairOf (line * 128) == k

/-- The kind of an L1 line has bytes that have not gone home. -/
def LineKind.dirty : LineKind → Bool
  | .owned _ d _ => d != 0
  | .noncoh d => d != 0
  | .leased .. => false

/-- Dirty copies of a lost pair's lines that a core or an RDC of another die holds. -/
def State.lostDirty (s : State) (k : Nat) : List Nat :=
  (s.cores.filter fun (c, _) => dieOf c != k).flatMap (fun (_, x) =>
      ((x.l1.filter fun (l, a) => homedOn k l && a.kind.dirty).map (·.1)) ++
      ((x.wb.filter fun (l, b) => homedOn k l && b.dirty != 0).map (·.1))) ++
    ((s.rdc.filter fun (i, r) => i / 2 ^ 45 != k && homedOn k (i % 2 ^ 45) && r.dirty != 0).map (·.1 % 2 ^ 45))

/-- A core after the loss: one of the lost die has nothing; another has no copy of the pair's lines. -/
def Core.afterLoss (k c : Nat) (x : Core) : Core :=
  if dieOf c = k then { Core.init with pts := x.pts, cyc := x.cyc, period := x.period }
  else { x with
    l1 := x.l1.filter fun (l, _) => !homedOn k l
    wb := x.wb.filter fun (l, _) => !homedOn k l
    ro := x.ro.filter fun r => !homedOn k r.line }

/-- Home records after the loss: those of the pair are gone, and no core of the die owns a line. -/
def State.homesAfter (s : State) (k : Nat) : Tab Home :=
  Tab.mapVals (s.homes.filter fun (l, _) => !homedOn k l) fun _ h =>
    { h with owner := h.owner.filter fun o => dieOf o != k }

/-- A lock request that waits on a line of the pair faults (R61, R313). -/
def faultWaiters (k : Nat) : M Unit := do
  each (Tab.keys (← get).groups) fun gid => do
    match (← get).waiting gid with
    | none => pure ()
    | some (q, line) =>
      if homedOn k line then
        faultReq gid q line (.lost k)
        joinMore gid
      else pure ()

/-- PAIR_LOSS (R61, R121, R313). -/
def execPairLoss (k : Nat) (s : State) : Host.Outcome State Fault Refusal :=
  moveStep s do
    let s ← get
    need (decide (k < 8) && !s.pkg.lost.contains k)
    each (s.groups.filter fun (_, g) => g.present && dieOf g.core == k) fun (gid, _) => haltGroup gid
    stopCopies fun c _ => dieOf c == k
    let s ← get
    let gone := s.lostDirty k
    set { s with
      cores := Tab.mapVals s.cores fun c x => x.afterLoss k c
      rdc := s.rdc.filter fun (i, _) => i / 2 ^ 45 != k && !homedOn k (i % 2 ^ 45)
      homes := s.homesAfter k, walks := s.walks.filter fun w => dieOf w.core != k
      pkg := { s.pkg with lost := s.pkg.lost ++ [k], errlog := s.pkg.errlog ++ gone.map (· * 128) } }
    each gone fun _ => signal 81
    faultWaiters k

end Sys2Proof.Machine
end

