-- ==== Sys2Proof/Machine/Time.lean ====
section
/-!
DEFINITION. Ticks, deliveries of FLOOR and sweeps, and what keeps time within the bounds of R102 (R77, R97 to R102, R107, R118,
R290, R307, R332).
-/
namespace Sys2Proof.Machine

/-- A core number, the host agent's included. -/
def isCore (c : Nat) : Bool := decide (c ≤ Config.hostAgent)

/-! ## Visits (R98, R101) -/

/-- When something was last visited. -/
def State.visit (s : State) (key : Nat) : Nat := Tab.get s.visits key 0

/-- Notes a visit. -/
def State.visited (s : State) (key : Nat) : State := { s with visits := Tab.put s.visits key s.now }

/-- The keys of `State.visits`. -/
def floorKey : FloorTarget → Nat
  | .core c => c
  | .plinth p => 512 + p

def sweepKey : SweepTarget → Nat
  | .core c => 1024 + c
  | .plinth p => 1536 + p
  | .die d => 2048 + d

/-- Everything that FLOOR reaches, and everything that is swept. -/
def floorTargets : List FloorTarget :=
  (List.range (Config.hostAgent + 1)).map .core ++ (List.range (8 * Config.plinthsPerDie)).map .plinth

def sweepTargets : List SweepTarget :=
  (List.range (Config.hostAgent + 1)).map .core ++ (List.range (8 * Config.plinthsPerDie)).map .plinth ++
    (List.range 8).map .die

/-- A visit is due before time goes on to `t`: at least once in `every` cycles, or at the instant before where one tick is
longer than that (log 45). -/
def State.due (s : State) (every t key : Nat) : Bool := decide (s.visit key + every < t) && decide (s.visit key < s.now)

/-- A delivery of FLOOR is due before time goes on to `t` (R98). -/
def State.floorDue (s : State) (t : Nat) : Option FloorTarget :=
  if t ≤ Config.floorEvery then none else floorTargets.find? fun x => s.due Config.floorEvery t (floorKey x)

/-- A sweep is due before time goes on to `t` (R101). -/
def State.sweepDue (s : State) (t : Nat) : Option SweepTarget :=
  if t ≤ Config.sweepEvery then none else sweepTargets.find? fun x => s.due Config.sweepEvery t (sweepKey x)

/-! ## TICK (R97) -/

/-- A core has a resident group of a context. -/
def State.resides (s : State) (core ctx : Nat) : Bool :=
  (Tab.vals s.groups).any fun g => g.present && g.core == core && g.ctx == ctx

/-- Some event counter of a core counts an event of a context (R332). -/
def Core.counts (k : Core) (ctx : Nat) (code : BitVec 8) : Bool :=
  k.evsel.any fun e => e.getLsbD 16 && (e.extractLsb' 17 4).toNat == ctx && e.extractLsb' 0 8 == code

/-- An active group of a context at a core is stalled and has been for a whole tick (R290, R332, log 37). -/
def State.stallsOn (s : State) (core ctx n : Nat) : Bool :=
  s.groups.any fun (gid, g) => g.present && g.core == core && g.ctx == ctx && g.sched.active && s.stalledFor g n && s.stalled gid g

/-- Counts the cycles of a tick on a core's event counters (R332). -/
def State.countCycles (s : State) (core n : Nat) : State :=
  (List.range 16).foldl (fun s ctx =>
    let s := if s.resides core ctx then s.updCore core (·.count ctx 0x00 n) else s
    if (s.core core).counts ctx 0x0A && s.stallsOn core ctx n then s.updCore core (·.count ctx 0x0A n) else s) s

/-- Notes which active groups of a core are stalled (R290). -/
def State.noteStalls (s : State) (core : Nat) : State :=
  { s with groups := Tab.mapVals s.groups fun gid g =>
      if g.present && g.core == core && g.sched.active then
        { g with sched := { g.sched with stalled := if s.stalled gid g then some (g.sched.stalled.getD s.now) else none } }
      else g }

/-- A tick of the requesting core on a waiting request (R118). -/
def LockReq.tick (q : LockReq) : LockReq := { q with ticks := q.ticks + 1 }

/-- Cycles that pass for a request whose group is absent: it advances once every TICK cycles (R118). -/
def LockReq.pass (q : LockReq) (n period : Nat) : LockReq :=
  let c := q.partCycles + n
  { q with ticks := q.ticks + c / max period 1, partCycles := c % max period 1 }

/-- What a tick of a core does to a group: its lock timeouts and its handler's time run (R118, R307). -/
def Group.tick (g : Group) (core period delta tick : Nat) : Group :=
  if g.present then
    if g.core = core then
      { g with requests := g.requests.map (·.tick)
               handler := g.handler.map fun h => if g.hold = .suspended then h else { h with ran := h.ran + period } }
    else g
  else { g with requests := g.requests.map (·.pass delta tick) }

/-- What a tick of a core does: pts and CYC advance, and LEAD with them (R97, R98, R106). `now` follows the core that has
counted most cycles. Active groups that have stalled are noted, and pending ones whose event has occurred are ready (R290). -/
def tickCore (core : Nat) (s : State) : State :=
  let k := s.core core
  let now := max s.now k.tickEnd
  let delta := now - s.now
  let s := ({ s with now } : State).countCycles core k.period
  let s := s.updCore core fun k =>
    { k with pts := k.pts + 1, cyc := k.cyc + BitVec.ofNat 64 k.period, period := s.tick.toNat, seen := 0 }
  let lead := serialMax s.lead (k.pts + 1)
  let s := { s with lead
                    leadLog := if lead = s.lead then s.leadLog else (now, (lead - s.lead).toNat) :: s.advances
                    groups := Tab.mapVals s.groups fun _ g => g.tick core k.period delta s.tick.toNat }
  (s.noteStalls core).wake core

/-- The tick of a core comes next: no other core's ends before it (R97). -/
def State.tickDue (s : State) (core : Nat) : Bool :=
  (List.range (Config.hostAgent + 1)).all fun c => decide ((s.core core).tickEnd ≤ (s.core c).tickEnd)

/-- A core may tick now: the clocks run, its tick comes next, and what is due before it has been done (R97, R98, R101, R107). -/
def State.mayTick (s : State) (core : Nat) : Bool :=
  s.clocked && isCore core && s.tickDue core && (s.floorDue (s.core core).tickEnd).isNone &&
    (s.sweepDue (s.core core).tickEnd).isNone

/-- TICK (R97). -/
def execTick (core : Nat) (s : State) : Host.Outcome State Fault Refusal :=
  .next (if s.mayTick core then tickCore core s else s)

/-! ## FLOOR (R98) -/

/-- A core or a Plinth that exists. -/
def floorOk : FloorTarget → Bool
  | .core c => isCore c
  | .plinth p => decide (p < 8 * Config.plinthsPerDie)

/-- FLOOR reaches a core or a Plinth. -/
def State.takeFloor (s : State) : FloorTarget → State
  | .core c => s.updCore c fun k => { k with pts := serialMax k.pts s.floor }
  | .plinth p => { s with plinths := Tab.put s.plinths p { s.plinth p with floor := s.floor } }

/-- Delivery of FLOOR (R98, R107). -/
def execFloorJump (t : FloorTarget) (s : State) : Host.Outcome State Fault Refusal :=
  .next (if s.clocked && floorOk t then (s.takeFloor t).visited (floorKey t) else s)

/-! ## Sweeps (R100, R101) -/

/-- A core without its stale leased lines and TLB entries. -/
def Core.sweep (k : Core) : Core :=
  { k with
    l1 := k.l1.filter fun (_, l) => match l.kind with
      | .leased _ r => !stale r k.pts
      | _ => true
    tlb := k.tlb.filter fun t => !stale t.lease k.pts }

/-- A die's RDC without the clean copies that are stale for a pts. -/
def State.sweepRdc (s : State) (die : Nat) (pts : Time) : State :=
  { s with rdc := s.rdc.filter fun (k, r) => !(k / 2 ^ 45 == die && !r.noncoh && stale r.rts pts) }

/-- A core sweeps its L1, its TLBs and the RDC of its die (R101). -/
def State.sweepCore (s : State) (c : Nat) : State :=
  let s' := s.updCore c (·.sweep)
  if c < Config.cores then s'.sweepRdc (dieOf c) (s.core c).pts else s'

/-- A Plinth's records and summary time, clamped; a record that is held or covered is left (R101). -/
def State.sweepPlinth (s : State) (p : Nat) : State :=
  let homes := Tab.mapVals s.homes fun line h =>
    if plinthOf line = p ∧ isLocal line ∧ !s.blocked line then s.home line else h
  let s' := { s with homes := homes }
  let old := s.plinth p
  { s' with plinths := Tab.put s'.plinths p { old with summary := clamp old.summary (old.floor + 0x2000) } }

/-- A frame in quarantine is marked once a horizon has come to its stamp, if its home is on a die (R43). -/
def QFrame.mark (q : QFrame) (die : Nat) (hor : Time) : QFrame :=
  { q with due := q.due || (pairOf (q.pfn * pageBytes) == die && serialLe q.stamp hor) }

/-- The sweep of a die: its RDC for the pts of every core of the die, and the stamps of the frames in quarantine that are homed
on it, each marked once the horizon has come to it (R43, R101, log 9). -/
def State.sweepDie (s : State) (d : Nat) : State :=
  let s := (upFrom (d * Config.coresPerDie) Config.coresPerDie).foldl (fun s c => s.sweepRdc d (s.core c).pts) s
  let hor := s.horizon
  { s with ctxs := s.ctxs.map fun x => { x with quarantine := x.quarantine.map (·.mark d hor) } }

/-- Something that is swept exists. -/
def sweepOk : SweepTarget → Bool
  | .core c => isCore c
  | .plinth p => decide (p < 8 * Config.plinthsPerDie)
  | .die d => decide (d < 8)

/-- What a sweep does. -/
def State.sweep (s : State) : SweepTarget → State
  | .core c => s.sweepCore c
  | .plinth p => s.sweepPlinth p
  | .die d => s.sweepDie d

/-- SWEEP (R101). -/
def execSweep (t : SweepTarget) (s : State) : Host.Outcome State Fault Refusal :=
  .next (if s.clocked && sweepOk t then (s.sweep t).visited (sweepKey t) else s)

/-! ## WATCHDOG (R307) -/

/-- WATCHDOG: a handler that has run 2^24 cycles is recorded, once, and its group suspended. Records of the handler that still wait for
its loads wait no longer (R299, R302, R307). -/
def execWatchdog (gid : Nat) (s : State) : Host.Outcome State Fault Refusal :=
  moveStep s do
    let g ← theGroup gid
    match g.handler with
    | none => waitM
    | some h =>
      need (g.hold != .suspended && decide (2 ^ 24 ≤ h.ran) && g.faults.all (·.cls != Cls.watchdog))
      let r : Rec := { va := 0, aux := BitVec.ofNat 64 h.ran, pc := g.work.pc, word := 0, src := 0, lane := 0
                       nest := true, cls := Cls.watchdog, sub := 0, byLane := false, seq := 0, alone := false }
      modGroup gid fun g => { g with faults := g.faults.map ({ · with seq := 0 }) ++ [r], hold := .vectoring }
      modify (vectorNow (g.faults.length + 1) gid)

/-! ## Fault moves (R302, R303) -/

/-- FAULT_RECORD_WRITE (R302). -/
def execFaultRecordWrite (gid : Nat) (s : State) : Host.Outcome State Fault Refusal := moveStep s (faultRecordWrite gid)

/-- HANDLER_ENTRY (R303 to R305). -/
def execHandlerEntry (gid : Nat) (s : State) : Host.Outcome State Fault Refusal := moveStep s (handlerEntry gid)

end Sys2Proof.Machine
end

