-- ==== Sys2Proof/Machine/Dispatch.lean ====
section
/-!
DEFINITION. One arm per constructor of Instr: each is one call of the instruction's meaning.
-/
namespace Sys2Proof.Machine

/-- The meaning of an instruction or step at the group and cursor in focus. -/
def exec (i : Instr) (s : State) : Host.Outcome State Fault Refusal :=
  match i with
  | .sadd d a b => Sys2Proof.Machine.execSadd d a b s
  | .ssub d a b => Sys2Proof.Machine.execSsub d a b s
  | .smul d a b => Sys2Proof.Machine.execSmul d a b s
  | .smulh d a b => Sys2Proof.Machine.execSmulh d a b s
  | .smulhn d a b => Sys2Proof.Machine.execSmulhn d a b s
  | .sdiv d a b => Sys2Proof.Machine.execSdiv d a b s
  | .sdivn d a b => Sys2Proof.Machine.execSdivn d a b s
  | .srem d a b => Sys2Proof.Machine.execSrem d a b s
  | .sremn d a b => Sys2Proof.Machine.execSremn d a b s
  | .sand d a b => Sys2Proof.Machine.execSand d a b s
  | .sor d a b => Sys2Proof.Machine.execSor d a b s
  | .sxor d a b => Sys2Proof.Machine.execSxor d a b s
  | .sshl d a b => Sys2Proof.Machine.execSshl d a b s
  | .sshr d a b => Sys2Proof.Machine.execSshr d a b s
  | .ssra d a b => Sys2Proof.Machine.execSsra d a b s
  | .smin d a b => Sys2Proof.Machine.execSmin d a b s
  | .smax d a b => Sys2Proof.Machine.execSmax d a b s
  | .sminn d a b => Sys2Proof.Machine.execSminn d a b s
  | .smaxn d a b => Sys2Proof.Machine.execSmaxn d a b s
  | .sslt d a b => Sys2Proof.Machine.execSslt d a b s
  | .ssltn d a b => Sys2Proof.Machine.execSsltn d a b s
  | .saddi d a imm => Sys2Proof.Machine.execSaddi d a imm s
  | .sandi d a imm => Sys2Proof.Machine.execSandi d a imm s
  | .sori d a imm => Sys2Proof.Machine.execSori d a imm s
  | .sxori d a imm => Sys2Proof.Machine.execSxori d a imm s
  | .sshli d a n => Sys2Proof.Machine.execSshli d a n s
  | .sshri d a n => Sys2Proof.Machine.execSshri d a n s
  | .ssrai d a n => Sys2Proof.Machine.execSsrai d a n s
  | .sslti d a imm => Sys2Proof.Machine.execSslti d a imm s
  | .slui d imm => Sys2Proof.Machine.execSlui d imm s
  | .saui d imm => Sys2Proof.Machine.execSaui d imm s
  | .sbeq a b off => Sys2Proof.Machine.execSbeq a b off s
  | .sbne a b off => Sys2Proof.Machine.execSbne a b off s
  | .sblt a b off => Sys2Proof.Machine.execSblt a b off s
  | .sbge a b off => Sys2Proof.Machine.execSbge a b off s
  | .sbltn a b off => Sys2Proof.Machine.execSbltn a b off s
  | .sbgen a b off => Sys2Proof.Machine.execSbgen a b off s
  | .sjal d imm => Sys2Proof.Machine.execSjal d imm s
  | .sjr d a => Sys2Proof.Machine.execSjr d a s
  | .sld d a sz sc od imm => Sys2Proof.Machine.execSld d a sz sc od imm s
  | .sst b a sz sc od imm => Sys2Proof.Machine.execSst b a sz sc od imm s
  | .samo d a b op sc od => Sys2Proof.Machine.execSamo d a b op sc od s
  | .roinv => Sys2Proof.Machine.execRoinv s
  | .fence sc kind => Sys2Proof.Machine.execFence sc kind s
  | .lrun k arm t block => Sys2Proof.Machine.execLrun k arm t block s
  | .lfork k arm => Sys2Proof.Machine.execLfork k arm s
  | .ljoin => Sys2Proof.Machine.execLjoin s
  | .lcond d => Sys2Proof.Machine.execLcond d s
  | .lgetv d signed => Sys2Proof.Machine.execLgetv d signed s
  | .setw d a pair => Sys2Proof.Machine.execSetw d a pair s
  | .kand d a b => Sys2Proof.Machine.execKand d a b s
  | .kor d a b => Sys2Proof.Machine.execKor d a b s
  | .kxor d a b => Sys2Proof.Machine.execKxor d a b s
  | .kandn d a b => Sys2Proof.Machine.execKandn d a b s
  | .knot d a => Sys2Proof.Machine.execKnot d a s
  | .kmov d a => Sys2Proof.Machine.execKmov d a s
  | .kget d a => Sys2Proof.Machine.execKget d a s
  | .kpop d a => Sys2Proof.Machine.execKpop d a s
  | .waitc ldc stc cpc mxc => Sys2Proof.Machine.execWaitc ldc stc cpc mxc s
  | .waitp c a => Sys2Proof.Machine.execWaitp c a s
  | .barr d n => Sys2Proof.Machine.execBarr d n s
  | .bara d n => Sys2Proof.Machine.execBara d n s
  | .barw d a n => Sys2Proof.Machine.execBarw d a n s
  | .barrierWaitEnd g => Sys2Proof.Machine.execBarrierWaitEnd g s
  | .launch d a b => Sys2Proof.Machine.execLaunch d a b s
  | .rxch x y n => Sys2Proof.Machine.execRxch x y n s
  | .rcat x y n => Sys2Proof.Machine.execRcat x y n s
  | .rspl x y n => Sys2Proof.Machine.execRspl x y n s
  | .rprm x y n => Sys2Proof.Machine.execRprm x y n s
  | .rals x y n => Sys2Proof.Machine.execRals x y n s
  | .ralsRw x y n => Sys2Proof.Machine.execRalsRw x y n s
  | .runm x n => Sys2Proof.Machine.execRunm x n s
  | .rpin x n => Sys2Proof.Machine.execRpin x n s
  | .rupn x n => Sys2Proof.Machine.execRupn x n s
  | .rqry d a => Sys2Proof.Machine.execRqry d a s
  | .rmap d a b => Sys2Proof.Machine.execRmap d a b s
  | .cpy d a => Sys2Proof.Machine.execCpy d a s
  | .cpys d a => Sys2Proof.Machine.execCpys d a s
  | .cpyw d a => Sys2Proof.Machine.execCpyw d a s
  | .gath d a => Sys2Proof.Machine.execGath d a s
  | .scat d a => Sys2Proof.Machine.execScat d a s
  | .cpyob d a => Sys2Proof.Machine.execCpyob d a s
  | .fred d a => Sys2Proof.Machine.execFred d a s
  | .cpyq d a => Sys2Proof.Machine.execCpyq d a s
  | .obres d a n fmt => Sys2Proof.Machine.execObres d a n fmt s
  | .obrel n => Sys2Proof.Machine.execObrel n s
  | .crd d r => Sys2Proof.Machine.execCrd d r s
  | .cwr r a => Sys2Proof.Machine.execCwr r a s
  | .trap a => Sys2Proof.Machine.execTrap a s
  | .eret => Sys2Proof.Machine.execEret s
  | .yield => Sys2Proof.Machine.execYield s
  | .exit => Sys2Proof.Machine.execExit s
  | .tmset n item a => Sys2Proof.Machine.execTmset n item a s
  | .tmClear core ctx n => Sys2Proof.Machine.execTmClear core ctx n s
  | .tmget d n item => Sys2Proof.Machine.execTmget d n item s
  | .halt => Sys2Proof.Machine.execHalt s
  | .vadd c d a b o => Sys2Proof.Machine.execVadd c d a b o s
  | .vsub c d a b o => Sys2Proof.Machine.execVsub c d a b o s
  | .vmul c d a b o => Sys2Proof.Machine.execVmul c d a b o s
  | .vfma c d a b e o => Sys2Proof.Machine.execVfma c d a b e o s
  | .vmin c d a b clp => Sys2Proof.Machine.execVmin c d a b clp s
  | .vmax c d a b clp => Sys2Proof.Machine.execVmax c d a b clp s
  | .vrcp c d a o => Sys2Proof.Machine.execVrcp c d a o s
  | .vrsq c d a o => Sys2Proof.Machine.execVrsq c d a o s
  | .vexp2 c d a o => Sys2Proof.Machine.execVexp2 c d a o s
  | .vlog2 c d a o => Sys2Proof.Machine.execVlog2 c d a o s
  | .vflr c d a o => Sys2Proof.Machine.execVflr c d a o s
  | .vcmp c q ty cond a b => Sys2Proof.Machine.execVcmp c q ty cond a b s
  | .vsel c d a b q => Sys2Proof.Machine.execVsel c d a b q s
  | .viadd c d a b => Sys2Proof.Machine.execViadd c d a b s
  | .visub c d a b => Sys2Proof.Machine.execVisub c d a b s
  | .vimul c d a b => Sys2Proof.Machine.execVimul c d a b s
  | .vimulh c d a b => Sys2Proof.Machine.execVimulh c d a b s
  | .vimulhn c d a b => Sys2Proof.Machine.execVimulhn c d a b s
  | .vimad c d a b e => Sys2Proof.Machine.execVimad c d a b e s
  | .vand c d a b => Sys2Proof.Machine.execVand c d a b s
  | .vor c d a b => Sys2Proof.Machine.execVor c d a b s
  | .vxor c d a b => Sys2Proof.Machine.execVxor c d a b s
  | .vshl c d a b => Sys2Proof.Machine.execVshl c d a b s
  | .vshr c d a b => Sys2Proof.Machine.execVshr c d a b s
  | .vsra c d a b => Sys2Proof.Machine.execVsra c d a b s
  | .vimin c d a b => Sys2Proof.Machine.execVimin c d a b s
  | .vimax c d a b => Sys2Proof.Machine.execVimax c d a b s
  | .viminn c d a b => Sys2Proof.Machine.execViminn c d a b s
  | .vimaxn c d a b => Sys2Proof.Machine.execVimaxn c d a b s
  | .vpopc c d a => Sys2Proof.Machine.execVpopc c d a s
  | .vclz c d a => Sys2Proof.Machine.execVclz c d a s
  | .vbfe c d a b e sx => Sys2Proof.Machine.execVbfe c d a b e sx s
  | .vmov c d a => Sys2Proof.Machine.execVmov c d a s
  | .vmovi c d imm => Sys2Proof.Machine.execVmovi c d imm s
  | .vcvt c d a src dst sat rm => Sys2Proof.Machine.execVcvt c d a src dst sat rm s
  | .vpack c d a b ty h sat rm => Sys2Proof.Machine.execVpack c d a b ty h sat rm s
  | .vunpk c d a ty n => Sys2Proof.Machine.execVunpk c d a ty n s
  | .vsclq c d a ty => Sys2Proof.Machine.execVsclq c d a ty s
  | .vshfl c d a b => Sys2Proof.Machine.execVshfl c d a b s
  | .vshup c d a b n => Sys2Proof.Machine.execVshup c d a b n s
  | .vshdn c d a b n => Sys2Proof.Machine.execVshdn c d a b n s
  | .vshxr c d a m => Sys2Proof.Machine.execVshxr c d a m s
  | .vscan c d a op ty rm => Sys2Proof.Machine.execVscan c d a op ty rm s
  | .vred c d a op ty rm => Sys2Proof.Machine.execVred c d a op ty rm s
  | .vreds c a op ty rm => Sys2Proof.Machine.execVreds c a op ty rm s
  | .vbal c q => Sys2Proof.Machine.execVbal c q s
  | .vtopk c d a b k => Sys2Proof.Machine.execVtopk c d a b k s
  | .vlaunch c d m wq => Sys2Proof.Machine.execVlaunch c d m wq s
  | .lend => Sys2Proof.Machine.execLend s
  | .vnop wait => Sys2Proof.Machine.execVnop wait s
  | .vld c d m sz sx sc od => Sys2Proof.Machine.execVld c d m sz sx sc od s
  | .vst c m v sz sc od => Sys2Proof.Machine.execVst c m v sz sc od s
  | .vldro c d m sz sx => Sys2Proof.Machine.execVldro c d m sz sx s
  | .vpf c m sc => Sys2Proof.Machine.execVpf c m sc s
  | .vsld c d m sz sx sc od => Sys2Proof.Machine.execVsld c d m sz sx sc od s
  | .vsst c m v sz sc od => Sys2Proof.Machine.execVsst c m v sz sc od s
  | .vatom c d m v op sc od => Sys2Proof.Machine.execVatom c d m v op sc od s
  | .vredm c m v op sc od => Sys2Proof.Machine.execVredm c m v op sc od s
  | .lkl c d m t => Sys2Proof.Machine.execLkl c d m t s
  | .ulk c m => Sys2Proof.Machine.execUlk c m s
  | .mma c d a v b ty ru => Sys2Proof.Machine.execMma c d a v b ty ru s
  | .mmab c d a v b ru => Sys2Proof.Machine.execMmab c d a v b ru s
  | .mzero c d => Sys2Proof.Machine.execMzero c d s
  | .mdrn c a v g n => Sys2Proof.Machine.execMdrn c a v g n s
  | .mdst c m v n bf16 sc od => Sys2Proof.Machine.execMdst c m v n bf16 sc od s
  | .mpois c q v clr => Sys2Proof.Machine.execMpois c q v clr s
  | .matrixPerform core => Sys2Proof.Machine.execMatrixPerform core s
  | .load g st => Sys2Proof.Machine.execLoad g st s
  | .drain g st => Sys2Proof.Machine.execDrain g st s
  | .atomic g st => Sys2Proof.Machine.execAtomic g st s
  | .renew core line => Sys2Proof.Machine.execRenew core line s
  | .tick core => Sys2Proof.Machine.execTick core s
  | .floorJump t => Sys2Proof.Machine.execFloorJump t s
  | .recall line => Sys2Proof.Machine.execRecall line s
  | .writeback core line why => Sys2Proof.Machine.execWriteback core line why s
  | .engineRead core id va => Sys2Proof.Machine.execEngineRead core id va s
  | .engineWrite core id line => Sys2Proof.Machine.execEngineWrite core id line s
  | .tlbRenew core ctx va => Sys2Proof.Machine.execTlbRenew core ctx va s
  | .recast g => Sys2Proof.Machine.execRecast g s
  | .grant line => Sys2Proof.Machine.execGrant line s
  | .releaseLock g st => Sys2Proof.Machine.execReleaseLock g st s
  | .lockTimeout g => Sys2Proof.Machine.execLockTimeout g s
  | .deadlockProbe => Sys2Proof.Machine.execDeadlockProbe s
  | .tokenTake g cur => Sys2Proof.Machine.execTokenTake g cur s
  | .forkMarkerTake g => Sys2Proof.Machine.execForkMarkerTake g s
  | .joinMarkerTake g => Sys2Proof.Machine.execJoinMarkerTake g s
  | .completionWordWrite grid => Sys2Proof.Machine.execCompletionWordWrite grid s
  | .quarantineRelease ctx => Sys2Proof.Machine.execQuarantineRelease ctx s
  | .sweep t => Sys2Proof.Machine.execSweep t s
  | .faultRecordWrite g => Sys2Proof.Machine.execFaultRecordWrite g s
  | .handlerEntry g => Sys2Proof.Machine.execHandlerEntry g s
  | .watchdog g => Sys2Proof.Machine.execWatchdog g s
  | .gridStart => Sys2Proof.Machine.execGridStart s
  | .queueHeadCheck q => Sys2Proof.Machine.execQueueHeadCheck q s
  | .dependenceRead q => Sys2Proof.Machine.execDependenceRead q s
  | .place q => Sys2Proof.Machine.execPlace q s
  | .teamSave team => Sys2Proof.Machine.execTeamSave team s
  | .teamRestore team core => Sys2Proof.Machine.execTeamRestore team core s
  | .groupPending g => Sys2Proof.Machine.execGroupPending g s
  | .timeSliceExpiry g => Sys2Proof.Machine.execTimeSliceExpiry g s
  | .pendingActivate core => Sys2Proof.Machine.execPendingActivate core s
  | .priorityAging g => Sys2Proof.Machine.execPriorityAging g s
  | .registerFill g reg victim => Sys2Proof.Machine.execRegisterFill g reg victim s
  | .ptsWrite core v => Sys2Proof.Machine.execPtsWrite core v s
  | .leaseWrite v => Sys2Proof.Machine.execLeaseWrite v s
  | .tickWrite v => Sys2Proof.Machine.execTickWrite v s
  | .srseedWrite g v => Sys2Proof.Machine.execSrseedWrite g v s
  | .frposWrite ctx v => Sys2Proof.Machine.execFrposWrite ctx v s
  | .registerWrite r v => Sys2Proof.Machine.execRegisterWrite r v s
  | .doorbell q tail => Sys2Proof.Machine.execDoorbell q tail s
  | .contextOpen ctx => Sys2Proof.Machine.execContextOpen ctx s
  | .contextClose ctx => Sys2Proof.Machine.execContextClose ctx s
  | .contextReset ctx => Sys2Proof.Machine.execContextReset ctx s
  | .closeComplete ctx => Sys2Proof.Machine.execCloseComplete ctx s
  | .drainMarkerReturn ctx gen => Sys2Proof.Machine.execDrainMarkerReturn ctx gen s
  | .pooladd ctx pa => Sys2Proof.Machine.execPooladd ctx pa s
  | .mapcnt v => Sys2Proof.Machine.execMapcnt v s
  | .groupResume ctx v => Sys2Proof.Machine.execGroupResume ctx v s
  | .groupKill ctx v => Sys2Proof.Machine.execGroupKill ctx v s
  | .bandmaxClear => Sys2Proof.Machine.execBandmaxClear s
  | .cool => Sys2Proof.Machine.execCool s
  | .hold => Sys2Proof.Machine.execHold s
  | .resume => Sys2Proof.Machine.execResume s
  | .warm => Sys2Proof.Machine.execWarm s
  | .firmwareVerify image good => Sys2Proof.Machine.execFirmwareVerify image good s
  | .attestation nonce => Sys2Proof.Machine.execAttestation nonce s
  | .powerOn => Sys2Proof.Machine.execPowerOn s
  | .powerOff => Sys2Proof.Machine.execPowerOff s
  | .sensorSample readings => Sys2Proof.Machine.execSensorSample readings s
  | .clockStep => Sys2Proof.Machine.execClockStep s
  | .holdEntry => Sys2Proof.Machine.execHoldEntry s
  | .holdExit => Sys2Proof.Machine.execHoldExit s
  | .coolingTimeout => Sys2Proof.Machine.execCoolingTimeout s
  | .soakComplete => Sys2Proof.Machine.execSoakComplete s
  | .trainComplete failedPairs => Sys2Proof.Machine.execTrainComplete failedPairs s
  | .arrayWalk f => Sys2Proof.Machine.execArrayWalk f s
  | .dramRefresh pair => Sys2Proof.Machine.execDramRefresh pair s
  | .cxlMemRead pa n => Sys2Proof.Machine.execCxlMemRead pa n s
  | .cxlMemWrite pa bytes => Sys2Proof.Machine.execCxlMemWrite pa bytes s
  | .fabricPacket p => Sys2Proof.Machine.execFabricPacket p s
  | .flitReplay f => Sys2Proof.Machine.execFlitReplay f s
  | .portDown l => Sys2Proof.Machine.execPortDown l s
  | .fredReduce tag => Sys2Proof.Machine.execFredReduce tag s
  | .pairLoss k => Sys2Proof.Machine.execPairLoss k s
  | .completionTimeout req => Sys2Proof.Machine.execCompletionTimeout req s

end Sys2Proof.Machine
end

