-- ==== Sys2Proof/Machine/Schedule.lean ====
section
/-!
DEFINITION. Taking a move, and the order in which the model takes moves when its agenda is empty (log 1): by turns, the moves
of the memory and the units, the issue of instructions, and time. The order picks only moves that change the state.
-/
namespace Sys2Proof.Machine

/-- Takes one move. -/
def runMove (m : Move) (s : State) : Host.Outcome State Fault Refusal :=
  match m with
  | .issueA g => match issueArm s g with
    | .run i s' => exec i s'
    | .stop s' => .next s'
  | .issueL g cur => match issueLane s g cur with
    | .run i s' => exec i s'
    | .stop s' => .next s'
  | .act i => exec i s
  | .replace r => .next (replaceMove s r)
  | .miss c ctx va => .next (takeMove s (postMiss c ctx va))
  | .retry req => .next (takeMove s (Machine.retry req))

/-- A move would change the state. -/
def enabled (s : State) (m : Move) : Bool := match runMove m s with
  | .next t => decide (t ≠ s)
  | _ => false

/-! ## Candidates -/

/-- The move that performs the head of a store queue. -/
def storeMove (gid : Nat) (st : Stream) (k : StoreKind) : List Instr :=
  match k with
  | .store | .scratch => [.drain gid st]
  | .atomic .. => [.atomic gid st]
  | .unlock => [.releaseLock gid st]
  | .mdst => []

/-- Moves of a group's accesses, recasts, locks, waits and faults. -/
def groupMoves (gid : Nat) (g : Group) : List Instr :=
  (if g.loads.isEmpty then [] else [.load gid .arm, .load gid .lane]) ++
  [Stream.arm, Stream.lane].flatMap (fun st => match headOf (·.acc) g st g.stores with
    | some e => storeMove gid st e.kind
    | none => []) ++
  (if g.work.recasts.isEmpty then [] else [.recast gid]) ++
  (if g.requests.isEmpty then [] else [.lockTimeout gid]) ++
  (g.requests.filterMap (·.waitsOn)).map (.grant ·) ++
  (if g.faults.isEmpty then [] else [.faultRecordWrite gid]) ++
  (if g.work.bar.isSome then [.barrierWaitEnd gid] else []) ++
  (if g.hold = .vectoring then [.handlerEntry gid] else [])

/-- Moves of a core's engine and matrix unit. -/
def coreMoves (s : State) (core : Nat) (k : Core) : List Instr :=
  k.engine.flatMap (fun c =>
    ((s.unread c).take 1).map (fun (_, va) => Instr.engineRead core c.id (BitVec.ofNat 64 va)) ++
      c.todo.map (Instr.engineWrite core c.id ·)) ++
  (if k.matrix.isEmpty then [] else [.matrixPerform core])

/-- Moves of the scheduler and the distributor. -/
def launchMoves (s : State) : List Instr :=
  s.queues.flatMap (fun (q, x) => if x.entries.isEmpty then [] else [.queueHeadCheck q, .dependenceRead q]) ++ [.gridStart] ++
  s.teams.flatMap (fun (i, t) => match t.saved with
    | some _ => (((List.range Config.cores).find? (s.hasRoom · (s.teamRoom t) [])).map (.teamRestore i ·)).toList
    | none => if t.saving || s.chosen i then [.teamSave i]
      else if t.groups.any fun g => ((s.group? g).map fun x => x.locks.any (!·.pinned)).getD false then [.teamRestore i t.core]
      else []) ++
  s.grids.flatMap fun (i, d) => [.place d.queue, .completionWordWrite i]

/-- Moves of a core's active and pending sets, and the walks that its walker runs. -/
def setMoves (s : State) : List Instr :=
  s.walks.map (fun w => .tlbRenew w.core w.ctx w.va) ++
  (dedup ((Tab.vals s.groups).map (·.core))).map (.pendingActivate ·) ++
  s.groups.flatMap fun (i, g) => [.groupPending i] ++
    ([g.work.cur0, g.work.cur1].filterMap id).flatMap fun c => (missing s g c).map
      (.registerFill i · (if s.fileRoom g.core then none else s.victimOn g.core))

/-- Moves of contexts and of the package. -/
def hostMoves (s : State) : List Instr :=
  (List.range 16).flatMap (fun c =>
    (if (s.ctx c).state = .closing then [.closeComplete c] else []) ++
    (if (s.ctx c).quarantine.isEmpty then [] else [.quarantineRelease c])) ++
  (Tab.keys s.pkg.freds).map (fun t => .fredReduce (BitVec.ofNat 16 t)) ++
  (if s.pkg.power = .hold then [.holdEntry, .holdExit] else []) ++ [.clockStep]

/-- The moves of memory, units and scheduler. -/
def unitMoves (s : State) : List Move :=
  ((s.groups.flatMap fun (i, g) => groupMoves i g) ++ (s.cores.flatMap fun (c, k) => coreMoves s c k) ++ launchMoves s ++
    setMoves s ++ hostMoves s).map Move.act ++ (Tab.keys s.pkg.requests).map Move.retry

/-- A list that starts at another place. -/
def rotate {α : Type} (n : Nat) (l : List α) : List α := l.drop (n % max l.length 1) ++ l.take (n % max l.length 1)

/-- The moves by which instructions issue: groups take turns, and from one round of them to the next so do the streams of each
(R140). -/
def issueMoves (s : State) (n : Nat) : List Move :=
  (rotate n s.groups).flatMap fun (i, g) =>
    if !g.present || !g.sched.active then []
    else [.act (.tokenTake i false), .act (.tokenTake i true), .act (.forkMarkerTake i), .act (.joinMarkerTake i)] ++
      rotate (n / max s.groups.length 1) [.issueL i false, .issueL i true, .issueA i]

/-- The core whose tick ends first. -/
def laggard (s : State) : Nat := (minOf? (fun c => (s.core c).tickEnd) (List.range (Config.hostAgent + 1))).getD 0

/-- The next tick, or what is due before it (R98, R101). -/
def tickMove (s : State) : Move :=
  let c := laggard s
  let t := (s.core c).tickEnd
  match s.floorDue t, s.sweepDue t with
  | some x, _ => .act (.floorJump x)
  | none, some x => .act (.sweep x)
  | none, none => .act (.tick c)

/-- What FLOOR reaches in turn. -/
def floorTarget (n : Nat) : FloorTarget :=
  let k := n % (Config.hostAgent + 1 + 8 * Config.plinthsPerDie)
  if k ≤ Config.hostAgent then .core k else .plinth (k - Config.hostAgent - 1)

/-- What a sweep visits in turn. -/
def sweepTarget (n : Nat) : SweepTarget :=
  let k := n % (Config.hostAgent + 1 + 8 * Config.plinthsPerDie + 8)
  if k ≤ Config.hostAgent then .core k
  else if k ≤ Config.hostAgent + 8 * Config.plinthsPerDie then .plinth (k - Config.hostAgent - 1)
  else .die (k - Config.hostAgent - 8 * Config.plinthsPerDie - 1)

/-- The keys of a table that share a set with at least `ways` keys, their own included. -/
def crowded (ways : Nat) (same : Nat → Nat → Bool) (keys : List Nat) : List Nat :=
  if keys.length < ways then [] else keys.filter fun k => decide (ways ≤ (keys.filter (same k)).length)

/-- Replacements in full sets (R45, R46, R56, R57). -/
def replaceMoves (s : State) : List Move :=
  (s.cores.flatMap fun (c, k) =>
    (crowded Config.l1Ways (fun a b => a % Config.l1Sets == b % Config.l1Sets) (Tab.keys k.l1)).map (.replace <| .l1 c ·)) ++
  (crowded Config.homeWays (fun a b => plinthOf a == plinthOf b && Config.plinthSet a == Config.plinthSet b)
    ((Tab.keys s.homes).filter isLocal)).map (.replace <| .home ·) ++
  (crowded Config.homeWays
      (fun a b => a / 2 ^ 45 == b / 2 ^ 45 && Config.rdcSet (a % 2 ^ 45) == Config.rdcSet (b % 2 ^ 45)) (Tab.keys s.rdc)).map
    fun k => .replace (.rdc (k / 2 ^ 45) (k % 2 ^ 45))

/-- Moves that depend on time alone, and replacements. -/
def slowMoves (s : State) (n : Nat) : List Move :=
  let perGroup : List Instr := s.groups.flatMap fun (i, g) =>
    (if g.handler.isSome then [.watchdog i] else []) ++ [.timeSliceExpiry i, .priorityAging i]
  ([Instr.deadlockProbe] ++ perGroup).map Move.act ++ rotate n (replaceMoves s) ++ [.act (.sweep (sweepTarget n))]

/-- A turn of time: ticks, deliveries of FLOOR, and what depends on time. -/
def timeMove (s : State) (n : Nat) : Move :=
  match n % 8 with
  | 1 | 3 | 5 => .act (.floorJump (floorTarget (n / 8 * 3 + n % 8 / 2)))
  | 7 => ((slowMoves s (n / 8)).find? (enabled s)).getD (tickMove s)
  | _ => tickMove s

/-- The next move when the agenda is empty. -/
def defaultMove (s : State) : Move :=
  let n := s.turn / 4
  let first (l : List Move) : Move := (l.find? (enabled s)).getD (timeMove s n)
  match s.turn % 4 with
  | 0 => first (unitMoves s ++ issueMoves s n)
  | 3 => timeMove s n
  | k => first (issueMoves s (2 * n + k) ++ unitMoves s)

end Sys2Proof.Machine
end

