-- ==== Sys2Proof/Machine/Step.lean ====
section
/-!
DEFINITION. One step of the machine: the move at the head of the agenda, or with an empty agenda the default order's
move. And the state in which the next step fetches and runs a given word.
-/
namespace Sys2Proof.Machine

/-- One step. -/
def step (s : State) : Host.Outcome State Fault Refusal :=
  match s.agenda with
  | m :: rest => runMove m { s with agenda := rest }
  | [] => runMove (defaultMove s) { s with turn := s.turn + 1 }

/-- A state whose next step fetches and runs the word `w`: four bytes of Armature code, or twelve of lane code (log 6). -/
def State.withFetchWord (s : State) (nbits w : Nat) : State :=
  if nbits ≤ 32 then s.placeWord (leBytes 4 w) false else s.placeWord (leBytes 12 w) true

end Sys2Proof.Machine
end

