-- ==== Sys2Proof/Safety.lean ====
section
/-!
DEFINITION. What a safe run is, and the vocabulary in which statements say what one instruction changed and that nothing
else changed.
-/
namespace Sys2Proof.Machine

/-- Every one of the first `n` steps answers a next state. -/
def safeFor : Nat → State → Bool
  | 0, _ => true
  | n + 1, s => match step s with
    | .next s' => safeFor n s'
    | _ => false

end Sys2Proof.Machine

namespace Sys2Proof.Say
open Sys2Proof.Machine

/-! ## Frames -/

/-- Only the work and the time of last issue of one group, and one event counter of its core, have changed: the group ran
one instruction, counted as event `code` (1 an Armature instruction, 2 a lane instruction: R332), and its work is `w`. -/
structure Ran (code : BitVec 8) (s t : State) (gid : Nat) (g : Group) (w : Work) : Prop where
  group  : t.group? gid = some { g with work := w, sched := { g.sched with issuedAt := s.now } }
  others : ∀ j, j ≠ gid → t.group? j = s.group? j
  counts : t.core g.core = (s.core g.core).count g.ctx code 1
  cores  : ∀ c, c ≠ g.core → t.core c = s.core c
  rest   : { t with groups := s.groups, cores := s.cores } = s

/-- The Armature instruction `i` runs in every state in which the group in focus exists and meets `C`, changes nothing but
that group's work, and its work comes out as `P` says. -/
def ArmRunsIf (i : Instr) (C : State → Group → Prop) (P : Work → Work → Prop) : Prop :=
  ∀ s g, s.group? s.focus.group = some g → C s g →
    ∃ t w, exec i s = .next t ∧ Ran 1 s t s.focus.group g w ∧ P g.work w

/-- The same with no condition. -/
def ArmRuns (i : Instr) (P : Work → Work → Prop) : Prop := ArmRunsIf i (fun _ _ => True) P

/-- One s register takes a value (a write to s0 is discarded and s0 reads 0), the pc moves past the instruction, and no
other register of the group changes. -/
def SRegOnly (d : SReg) (v : DWord) (old new : Work) : Prop :=
  (∀ r, new.sreg r = if r = d ∧ d ≠ 0 then v else old.sreg r) ∧ new.sreg 0 = 0 ∧ new.pc = old.pc + 4 ∧
    { new with s := old.s, pc := old.pc } = old

/-- The instruction writes one s register and nothing else. -/
def ArmValue (i : Instr) (d : SReg) (v : Work → DWord) : Prop :=
  ArmRuns i fun old new => SRegOnly d (v old) old new

/-- The instruction writes the pc and nothing else. -/
def ArmJump (i : Instr) (target : Work → DWord) : Prop :=
  ArmRuns i fun old new => new.pc = target old ∧ { new with pc := old.pc } = old

/-- One mask register takes a value, the pc moves past the instruction, and no other register changes. -/
def KRegOnly (d : KReg) (v : Word) (old new : Work) : Prop :=
  (∀ r, new.kreg r = if r = d then v else old.kreg r) ∧ new.pc = old.pc + 4 ∧ { new with k := old.k, pc := old.pc } = old

/-- The state an Armature instruction's own effect starts from: the issue is counted (R332). -/
def issuing (s : State) : State := afterArm s s.focus.group

/-- In one state, with VA and AUX 0. -/
def ArmFaultsAt (i : Instr) (s : State) (g : Group) (cls sub : BitVec 4) : Prop :=
  exec i s = .next (takeMove (issuing s) (raise s.focus.group g.level
    [⟨0, 0, g.work.pc, BitVec.ofNat 32 s.focus.word, 0, 0, false, cls, sub, false, 0, false⟩]))

/-- Where the group in focus meets `C`, the Armature instruction raises one fault with the pc at the instruction and has no
other effect (R166): class, sub-code, VA and AUX. -/
def ArmFaultsIf (i : Instr) (C : State → Group → Prop) (cls sub : BitVec 4) (va aux : Group → DWord) : Prop :=
  ∀ s g, s.group? s.focus.group = some g → C s g →
    exec i s = .next (takeMove (issuing s) (raise s.focus.group g.level
      [⟨va g, aux g, g.work.pc, BitVec.ofNat 32 s.focus.word, 0, 0, false, cls, sub, false, 0, false⟩]))

/-- The same with VA and AUX 0. -/
def ArmStopsIf (i : Instr) (C : State → Group → Prop) (cls sub : BitVec 4) : Prop :=
  ArmFaultsIf i C cls sub (fun _ => 0) (fun _ => 0)

/-- Where the group in focus meets `C`, the Armature instruction waits: the state stays as it was (R67). -/
def ArmWaitsIf (i : Instr) (C : State → Group → Prop) : Prop :=
  ∀ s g, s.group? s.focus.group = some g → C s g → exec i s = .next s

/-! ## Lane instructions -/

/-- The cursor at issue stands at the next lane word; the other cursor is as it was; a group that is not elastic has no
register cache, nor times of use in it, to change (R127, R292). -/
structure Advanced (x : LaneCx) (new : Work) : Prop where
  here   : ∃ wrote, new.cursor x.cur = some { x.cursor with pc := x.cursor.pc + 12, wrote := wrote }
  other  : new.cursor (!x.cur) = x.g.work.cursor (!x.cur)
  cached : x.g.work.elastic = false → new.cached = x.g.work.cached
  used   : x.g.work.elastic = false → new.used = x.g.work.used

/-- The lane instruction `i` with the wait field of `c`, at the cursor in focus: where its checks pass, it runs, changes only
its group's work, and the work comes out as `P` says of the active lanes; where they say wait, nothing changes; where they say
ILLEGAL, that is raised and nothing else happens. -/
def LaneRuns (i : Instr) (c : Ctl) (P : LaneCx → Word → Work → Prop) : Prop :=
  ∀ s x, laneAt s = some x →
    (lanePre s x i c.wait = .go →
      ∃ t w, exec i s = .next t ∧ Ran 2 s t x.gid x.g w ∧ Advanced x w ∧ P x (x.active c) w) ∧
    (lanePre s x i c.wait = .wait → exec i s = .next s) ∧
    (lanePre s x i c.wait = .illegal → exec i s = .next (laneIllegal s x))

/-- A vector register holds `v` and the poison `p` in the active lanes, and in the others what it held (R210, R211). -/
def VRegIs (x : LaneCx) (act : Word) (new : Work) (d : Nat) (v : Fin 32 → Word) (p : Word) : Prop :=
  (∀ l : Fin 32, (new.vreg d).val[l] = if act.getLsbD l.val then v l else (x.g.work.vreg d).val[l]) ∧
  (new.vreg d).poison = ((x.g.work.vreg d).poison &&& ~~~act) ||| (p &&& act)

/-- The same with the poison given lane by lane. -/
def VRegGets (x : LaneCx) (act : Word) (new : Work) (d : Nat) (v : Fin 32 → Word) (p : Fin 32 → Bool) : Prop :=
  ∀ l : Fin 32,
    (new.vreg d).val[l] = (if act.getLsbD l.val then v l else (x.g.work.vreg d).val[l]) ∧
    (new.vreg d).poison.getLsbD l.val = if act.getLsbD l.val then p l else (x.g.work.vreg d).poison.getLsbD l.val

/-- Of the work, only the named vector registers, the generators and what `Advanced` names have changed. -/
def OnlyVGens (x : LaneCx) (new : Work) (ds : List Nat) : Prop :=
  (∀ r, r ∉ ds → new.vreg r = x.g.work.vreg r) ∧
  { new with v := x.g.work.v, gens := x.g.work.gens, cur0 := x.g.work.cur0, cur1 := x.g.work.cur1
             cached := x.g.work.cached, used := x.g.work.used } = x.g.work

/-- The same with no generator changed. -/
def OnlyV (x : LaneCx) (new : Work) (ds : List Nat) : Prop := OnlyVGens x new ds ∧ new.gens = x.g.work.gens

/-- The instruction writes one vector register, lane by lane; the guard's poison joins that of the operands, `p` (R211). -/
def LaneValue (i : Instr) (c : Ctl) (d : VReg) (v : LaneCx → Fin 32 → Word) (p : LaneCx → Word) : Prop :=
  LaneRuns i c fun x act w => VRegIs x act w d.val (v x) (p x ||| x.guardPoison c) ∧ OnlyV x w [d.val]

/-- The number that one rounding in a lane draws: under SR the next of the lane's generator (R201, R202). -/
def drawn (rm : Rm) (x : LaneCx) (l : Fin 32) : Nat := (drawFor rm x.cursor.token l.val x.g.work).2

/-- The instruction writes one vector register, rounding once in each active lane: under SR the generators of the active lanes
step and no other does. -/
def LaneRounded (i : Instr) (c : Ctl) (d : VReg) (rm : Rm) (v : LaneCx → Fin 32 → Nat → Word) (p : LaneCx → Word) : Prop :=
  LaneRuns i c fun x act w =>
    VRegIs x act w d.val (fun l => v x l (drawn rm x l)) (p x ||| x.guardPoison c) ∧ OnlyVGens x w [d.val] ∧
    ∀ l, Tab.find? w.gens l = if l < 32 ∧ act.getLsbD l ∧ rm = .sr then
      Tab.find? (stepGen x.cursor.token l x.g.work).1.gens l else Tab.find? x.g.work.gens l

/-- The number that a lane's generator gives at its step `n`, counted from 0. -/
def drawNo (t : Token) (l : Nat) : Nat → Work → Nat
  | 0, w => (stepGen t l w).2
  | n + 1, w => drawNo t l n (stepGen t l w).1

/-- The first stage of R199 and R201: `n` is m / 2^k rounded to a whole number in a mode, for a value of the sign `neg`; `u` is the
number that SR uses. -/
def FirstStage (rm : Rm) (u : Nat) (neg : Bool) (m k n : Nat) : Prop :=
  let down : Prop := n * 2 ^ k ≤ m ∧ m < (n + 1) * 2 ^ k
  let up : Prop := m ≤ n * 2 ^ k ∧ n * 2 ^ k < m + 2 ^ k
  match rm with
  | .rne => 2 * m ≤ (2 * n + 1) * 2 ^ k ∧ 2 * n * 2 ^ k ≤ 2 * m + 2 ^ k ∧
      (2 * m = (2 * n + 1) * 2 ^ k ∨ 2 * n * 2 ^ k = 2 * m + 2 ^ k → n % 2 = 0)
  | .rz => down
  | .rd => if neg then up else down
  | .ru => if neg then down else up
  | .sr => n * 2 ^ k * 2 ^ 16 ≤ m * 2 ^ 16 + u * 2 ^ k ∧ m * 2 ^ 16 + u * 2 ^ k < (n + 1) * 2 ^ k * 2 ^ 16

/-- The numbers m·2^e and n·2^q in units of the lesser of the two powers. -/
def inUnits (m : Nat) (e q : Int) : Nat := m * 2 ^ (e - min e q).toNat

/-- m·2^e = n·2^q. -/
def SameReal (m : Nat) (e : Int) (n : Nat) (q : Int) : Prop := inUnits m e q = inUnits n q e

/-- The binary tree of R206 over the 2^k lanes from a lane on. A node has the lowest lane under it that has a value, how often
that lane has combined, and the value; `f` combines, given the lane and how often it has done so. -/
def treeOf (f : Nat → Nat → Word → Word → Word) (leaf : Nat → Option Word) : Nat → Nat → Option (Nat × Nat × Word)
  | 0, l => (leaf l).map fun v => (l, 0, v)
  | k + 1, l => match treeOf f leaf k l, treeOf f leaf k (l + 2 ^ k) with
    | none, b => b
    | a, none => a
    | some (m, n, v), some (_, _, u) => some (m, n + 1, f m n v u)

/-- The value at a position after `k` steps of the scan of R207, in a half that begins at `base`. -/
def scanOf (f : Word → Word → Word) (leaf : Nat → Option Word) (base : Nat) : Nat → Nat → Option Word
  | 0, l => leaf l
  | k + 1, l =>
    if l < base + 2 ^ k then scanOf f leaf base k l
    else match scanOf f leaf base k (l - 2 ^ k), scanOf f leaf base k l with
      | none, b => b
      | a, none => a
      | some a, some b => some (f a b)

/-- Each interval of 16,384 cycles that begins at an advance of `log` (latest first, each with its cycle) and has not ended keeps
within R99's 2^11: its advances, and the ticks of `pace` cycles that can still come before its end (log 45). -/
def LeadKeeps (now pace : Nat) (log : List (Nat × Nat)) : Prop :=
  ∀ n a, log[n]? = some a → ((log.take (n + 1)).map (·.2)).sum + (a.1 + 16384 - now + pace - 1) / pace ≤ 2 ^ 11

/-- LEAD can come to a time now, while clocks run: it has been there, or the advances of the last 16,384 cycles and this one leave
every interval within R99's limit. While no clock runs nothing moves LEAD (R107). -/
def LeadTakes (s : State) (t : Time) : Prop :=
  let adv := (serialMax s.lead t - s.lead).toNat
  s.clocked = false ∨ adv = 0 ∨
    LeadKeeps s.now (max s.pace 1) ((s.now, adv) :: s.leadLog.filter fun e => decide (s.now < e.1 + 16384))

/-- A core can take a value of PTS now: a clock runs, the core has taken its tick of the present cycle, and LEAD can come to what it
takes, the serially later of the value and FLOOR (R97, R104, R107, log 45). -/
def PtsTakes (s : State) (c : Nat) (v : DWord) : Prop :=
  s.pkg.clock ≠ .stopped ∧ s.now < (s.core c).cyc.toNat + (s.core c).period ∧
    LeadTakes s (serialMax (v.extractLsb' 0 16) (s.lead - 0x2000))

/-- The period that a write of TICK sets (R106). -/
def tickOf (v : DWord) : BitVec 13 :=
  if (v.extractLsb' 0 13).toNat < 16 then 16 else if 4096 < (v.extractLsb' 0 13).toNat then 4096 else v.extractLsb' 0 13

/-- TICK can take a value now: every core has taken its tick of the present cycle, and the ticks to come at the new period leave LEAD
within R99's limit (R97, R106, log 45). -/
def TickTakes (s : State) (v : DWord) : Prop :=
  (∀ c ≤ 320, s.now < (s.core c).cyc.toNat + (s.core c).period) ∧
    LeadKeeps s.now (max (min s.pace (tickOf v).toNat) 1) ((s.now, 0) :: s.leadLog.filter fun e => decide (s.now < e.1 + 16384))

/-- A Hilbert curve's point after `i` more digits of `d`, two bits each, from the point (u, v) of a square of side `s` (R287). -/
def hilbertFrom : Nat → Nat → Nat → Nat × Nat → Nat × Nat
  | 0, _, _, p => p
  | i + 1, s, d, (u, v) =>
    let rx := d / 2 % 2
    let ry := (d ^^^ rx) % 2
    let (u, v) := if ry = 0 then (if rx = 1 then (s - 1 - v, s - 1 - u) else (v, u)) else (u, v)
    hilbertFrom i (2 * s) (d / 4) (u + s * rx, v + s * ry)

/-- CurvePoint of R287 in a tile of side 2^t: Morton (1), Hilbert (2), boustrophedon (3). -/
def curvePoint (c t d : Nat) : Nat × Nat :=
  let bits (j : Nat) : Nat := ((List.range t).map fun i => if d.testBit (2 * i + j) then 2 ^ i else 0).sum
  let n := 2 ^ t
  if c = 1 then (bits 0, bits 1)
  else if c = 3 then (if d / n % 2 = 1 then n - 1 - d % n else d % n, d / n)
  else hilbertFrom t 1 d (0, 0)

/-- The band that a temperature of `T` eighths of a kelvin takes a band to next, if it leaves that band (R315). -/
def bandStep (c T : Nat) : Option Nat :=
  match c with
  | 0 => if 736 < T then some 1 else none
  | 1 => if 920 < T then some 2 else if T ≤ 712 then some 0 else none
  | 2 => if 1600 < T then some 3 else if T ≤ 896 then some 1 else none
  | _ => if T ≤ 1576 then some 2 else none

/-- The bands that a temperature takes a band through, at most `n` of them. -/
def bandPath : Nat → Nat → Nat → List Nat
  | 0, _, _ => []
  | n + 1, c, T => match bandStep c T with
    | none => []
    | some d => d :: bandPath n d T

/-- An operation runs on each member of a list in turn, and these are its answers. -/
def RunsAll {α β : Type} (f : α → M β) : List α → State → List β → State → Prop
  | [], s, bs, t => bs = [] ∧ t = s
  | a :: l, s, bs, t => ∃ b more s1, f a s = .ok b s1 ∧ RunsAll f l s1 more t ∧ bs = b :: more

/-- A move whose precondition does not hold leaves the whole state as it was (R67). -/
def Waits (i : Instr) (s : State) : Prop := exec i s = .next s

end Sys2Proof.Say
end

