-- ==== Sys2Proof/Certificates/Slice0/Obligations.lean ====
section
/-!
DEFINITION. What the provers are asked to prove. Each obligation's docstring names the rules of spec/ it formalises; the
vocabulary is that of Safety.lean.
-/

open Sys2Proof Sys2Proof.Machine Sys2Proof.Say

/-- R167, R168, R142, R165: every register ALU instruction runs in every state and writes f(S[sa], S[sb]) to S[sd] and
nothing else; the divisions by zero and the most negative number divided by −1 give what R168 says, and a word of the major with fn
above 0x14 decodes to no instruction. -/
def Obligations.ArmRegisterAlu : Prop := ∀ d a b : SReg,
  ArmValue (.sadd d a b) d (fun w => w.sreg a + w.sreg b) ∧
  ArmValue (.ssub d a b) d (fun w => w.sreg a - w.sreg b) ∧
  ArmValue (.smul d a b) d (fun w => BitVec.ofNat 64 ((w.sreg a).toNat * (w.sreg b).toNat)) ∧
  ArmValue (.smulh d a b) d (fun w => BitVec.ofInt 64 ((w.sreg a).toInt * (w.sreg b).toInt / 2 ^ 64)) ∧
  ArmValue (.smulhn d a b) d (fun w => BitVec.ofNat 64 ((w.sreg a).toNat * (w.sreg b).toNat / 2 ^ 64)) ∧
  ArmValue (.sdiv d a b) d (fun w => if w.sreg b = 0 then BitVec.allOnes 64
    else if w.sreg a = 0x8000000000000000 ∧ w.sreg b = BitVec.allOnes 64 then 0x8000000000000000
    else BitVec.ofInt 64 ((w.sreg a).toInt.tdiv (w.sreg b).toInt)) ∧
  ArmValue (.sdivn d a b) d (fun w => if w.sreg b = 0 then BitVec.allOnes 64
    else BitVec.ofNat 64 ((w.sreg a).toNat / (w.sreg b).toNat)) ∧
  ArmValue (.srem d a b) d (fun w => if w.sreg b = 0 then w.sreg a
    else if w.sreg a = 0x8000000000000000 ∧ w.sreg b = BitVec.allOnes 64 then 0
    else BitVec.ofInt 64 ((w.sreg a).toInt.tmod (w.sreg b).toInt)) ∧
  ArmValue (.sremn d a b) d (fun w => if w.sreg b = 0 then w.sreg a
    else BitVec.ofNat 64 ((w.sreg a).toNat % (w.sreg b).toNat)) ∧
  ArmValue (.sand d a b) d (fun w => w.sreg a &&& w.sreg b) ∧
  ArmValue (.sor d a b) d (fun w => w.sreg a ||| w.sreg b) ∧
  ArmValue (.sxor d a b) d (fun w => w.sreg a ^^^ w.sreg b) ∧
  ArmValue (.sshl d a b) d (fun w => w.sreg a <<< ((w.sreg b).extractLsb' 0 6).toNat) ∧
  ArmValue (.sshr d a b) d (fun w => w.sreg a >>> ((w.sreg b).extractLsb' 0 6).toNat) ∧
  ArmValue (.ssra d a b) d (fun w => (w.sreg a).sshiftRight ((w.sreg b).extractLsb' 0 6).toNat) ∧
  ArmValue (.smin d a b) d (fun w => if (w.sreg a).slt (w.sreg b) then w.sreg a else w.sreg b) ∧
  ArmValue (.smax d a b) d (fun w => if (w.sreg a).slt (w.sreg b) then w.sreg b else w.sreg a) ∧
  ArmValue (.sminn d a b) d (fun w => if (w.sreg a).ult (w.sreg b) then w.sreg a else w.sreg b) ∧
  ArmValue (.smaxn d a b) d (fun w => if (w.sreg a).ult (w.sreg b) then w.sreg b else w.sreg a) ∧
  ArmValue (.sslt d a b) d (fun w => if (w.sreg a).slt (w.sreg b) then 1 else 0) ∧
  ArmValue (.ssltn d a b) d (fun w => if (w.sreg a).ult (w.sreg b) then 1 else 0) ∧
  ∀ w < 2 ^ 32, w / 2 ^ 26 = 0x01 → 0x15 ≤ w % 256 → decodeTableWord 32 w = none

/-- R169, R170: every immediate instruction runs in every state and writes only S[sd]: arithmetic with the sign-extended
imm14, shifts by the amount, SLUI, and SAUI from the instruction's own address. -/
def Obligations.ArmImmediates : Prop := ∀ (d a : SReg) (imm : BitVec 14) (n : BitVec 6) (up : BitVec 20),
  ArmValue (.saddi d a imm) d (fun w => w.sreg a + imm.signExtend 64) ∧
  ArmValue (.sandi d a imm) d (fun w => w.sreg a &&& imm.signExtend 64) ∧
  ArmValue (.sori d a imm) d (fun w => w.sreg a ||| imm.signExtend 64) ∧
  ArmValue (.sxori d a imm) d (fun w => w.sreg a ^^^ imm.signExtend 64) ∧
  ArmValue (.sshli d a n) d (fun w => w.sreg a <<< n.toNat) ∧
  ArmValue (.sshri d a n) d (fun w => w.sreg a >>> n.toNat) ∧
  ArmValue (.ssrai d a n) d (fun w => (w.sreg a).sshiftRight n.toNat) ∧
  ArmValue (.sslti d a imm) d (fun w => if (w.sreg a).slt (imm.signExtend 64) then 1 else 0) ∧
  ArmValue (.slui d up) d (fun _ => (up ++ (0 : BitVec 12)).signExtend 64) ∧
  ArmValue (.saui d up) d (fun w => w.pc + (up ++ (0 : BitVec 12)).signExtend 64)

/-- R133, R164, R171, R172: every conditional branch runs in every state and writes only the pc: pc + 4·off14 where its condition
holds, pc + 4 where it does not. A call links pc + 4, records the fork depth in a frame, and jumps to the target read before the
link is written; a jump that links nothing changes only the pc, and a return also takes its frame off. The 257th frame and a
return above open forks raise FORKNEST; a return to 0 with no frame is EXIT. -/
def Obligations.ArmBranchesAndCalls : Prop := (∀ (a b : SReg) (off : BitVec 14),
  let goes (taken : DWord → DWord → Bool) (w : Work) : DWord :=
    if taken (w.sreg a) (w.sreg b) then w.pc + 4 * off.signExtend 64 else w.pc + 4
  ArmJump (.sbeq a b off) (goes fun x y => x == y) ∧
  ArmJump (.sbne a b off) (goes fun x y => x != y) ∧
  ArmJump (.sblt a b off) (goes fun x y => x.slt y) ∧
  ArmJump (.sbge a b off) (goes fun x y => y.sle x) ∧
  ArmJump (.sbltn a b off) (goes fun x y => x.ult y) ∧
  ArmJump (.sbgen a b off) (goes fun x y => y.ule x)) ∧ ∀ (d a : SReg) (imm : BitVec 20),
  let links (target : Work → DWord) (old new : Work) : Prop :=
    SRegOnly d (old.pc + 4) old { new with pc := old.pc + 4, frames := old.frames } ∧ new.pc = target old ∧
      new.frames = old.aForks.length :: old.frames
  let jumps (target : Work → DWord) (old new : Work) : Prop := new.pc = target old ∧ { new with pc := old.pc } = old
  let room (_ : State) (g : Group) : Prop := g.work.frames.length < 256
  let full (_ : State) (g : Group) : Prop := 256 ≤ g.work.frames.length
  (d ≠ 0 → ArmRunsIf (.sjal d imm) room (links fun w => w.pc + 4 * imm.signExtend 64)) ∧
  (d ≠ 0 → ArmStopsIf (.sjal d imm) full 6 0) ∧
  ArmRuns (.sjal 0 imm) (jumps fun w => w.pc + 4 * imm.signExtend 64) ∧
  (d ≠ 0 → ArmRunsIf (.sjr d a) room (links fun w => w.sreg a)) ∧
  (d ≠ 0 → ArmStopsIf (.sjr d a) full 6 0) ∧
  (a ≠ 1 → ArmRuns (.sjr 0 a) (jumps fun w => w.sreg a)) ∧
  (∀ depth rest, ArmRunsIf (.sjr 0 1) (fun _ g => g.work.frames = depth :: rest ∧ g.work.aForks.length ≤ depth)
    fun old new => new.pc = old.sreg 1 ∧ new.frames = rest ∧ { new with pc := old.pc, frames := old.frames } = old) ∧
  (∀ depth rest, ArmStopsIf (.sjr 0 1) (fun _ g => g.work.frames = depth :: rest ∧ depth < g.work.aForks.length) 6 0) ∧
  ArmRunsIf (.sjr 0 1) (fun _ g => g.work.frames = [] ∧ g.work.sreg 1 ≠ 0) (jumps fun w => w.sreg 1) ∧
  ∀ s g, s.group? s.focus.group = some g → g.work.frames = [] → g.work.sreg 1 = 0 → exec (.sjr 0 1) s = exec .exit s

/-- R142, R178, R179, R180: the mask and uniform instructions. Each writes only its destination; a write to k0 raises
ILLEGAL, as does SETW.P with an odd destination. -/
def Obligations.MasksAndUniforms : Prop := ∀ (d a b : KReg) (x : SReg) (u : WReg),
  let writes (i : Instr) (v : Work → Word) : Prop :=
    (d ≠ 0 → ArmRuns i fun old new => KRegOnly d (v old) old new) ∧ (d = 0 → ArmStopsIf i (fun _ _ => True) 5 0)
  writes (.kand d a b) (fun w => w.kreg a &&& w.kreg b) ∧
  writes (.kor d a b) (fun w => w.kreg a ||| w.kreg b) ∧
  writes (.kxor d a b) (fun w => w.kreg a ^^^ w.kreg b) ∧
  writes (.kandn d a b) (fun w => w.kreg a &&& ~~~(w.kreg b)) ∧
  writes (.knot d a) (fun w => ~~~(w.kreg a)) ∧
  writes (.kmov d x) (fun w => (w.sreg x).extractLsb' 0 32) ∧
  ArmValue (.kget x a) x (fun w => (0 : Word) ++ w.kreg a) ∧
  ArmValue (.kpop x a) x (fun w => BitVec.ofNat 64 ((List.range 32).countP (w.kreg a).getLsbD)) ∧
  (ArmRuns (.setw u x false) fun old new =>
    (∀ r, new.wreg r = if r = u then (old.sreg x).extractLsb' 0 32 else old.wreg r) ∧ new.pc = old.pc + 4 ∧
      { new with w := old.w, pc := old.pc } = old) ∧
  (u.toNat % 2 = 0 → ArmRuns (.setw u x true) fun old new =>
    (∀ r, new.wreg r = if r = u then (old.sreg x).extractLsb' 0 32 else if r = u + 1 then (old.sreg x).extractLsb' 32 32
      else old.wreg r) ∧ new.pc = old.pc + 4 ∧ { new with w := old.w, pc := old.pc } = old) ∧
  (u.toNat % 2 = 1 → ArmStopsIf (.setw u x true) (fun _ _ => True) 5 0)

/-- R128, R131, R132, R133, R174, R176: the three pushes. LRUN pushes a token with kM AND the current mask, its trip count and
the snapshot of w0 to w15; LFORK opens a fork with arm masks c AND kM and c AND NOT kM; LJOIN closes the innermost fork. Each
waits while the Sprue holds 16 entries, and raises ILLEGAL or FORKNEST where the rules say so. -/
def Obligations.TokensAndForks : Prop := ∀ (k : KReg) (arm : ArmSel) (tr : SReg) (block : BitVec 15),
  let current (w : Work) : Option Word := match arm with
    | .none => if w.aForks = [] then some (w.kreg 0) else none
    | .a0 => w.aForks.head?.map (·.mask0)
    | .a1 => w.aForks.head?.map (·.mask1)
  let room (g : Group) : Prop := g.work.sprue.length < 16
  let pushes (it : SprueItem) (old new : Work) : Prop := new.sprue = old.sprue ++ [it] ∧ new.pc = old.pc + 4
  (∀ s g m, s.group? s.focus.group = some g → current g.work = some m → room g →
    ∃ t w, exec (.lrun k arm tr block) s = .next t ∧ t.nextSeq = s.nextSeq + 1 ∧
      Ran 1 s { t with nextSeq := s.nextSeq } s.focus.group g w ∧
      pushes (.token { seq := s.nextSeq, block := block, mask := g.work.kreg k &&& m
                       trips := if tr = 0 then 1 else (g.work.sreg tr).extractLsb' 0 32
                       arm := arm, w := g.work.w, epoch := g.work.epoch, seed := g.work.srseed }) g.work w ∧
      { w with sprue := g.work.sprue, pc := g.work.pc } = g.work) ∧
  ArmStopsIf (.lrun k arm tr block) (fun _ g => current g.work = none) 5 0 ∧
  ArmWaitsIf (.lrun k arm tr block) (fun _ g => current g.work ≠ none ∧ ¬ room g) ∧
  (∀ c, ArmRunsIf (.lfork k arm) (fun _ g => current g.work = some c ∧ room g ∧ g.work.aForks.length < 32) fun old new =>
    pushes (.forkMark (c &&& old.kreg k) (c &&& ~~~(old.kreg k))) old new ∧
    new.aForks = ⟨c &&& old.kreg k, c &&& ~~~(old.kreg k), old.frames.length⟩ :: old.aForks ∧
    { new with sprue := old.sprue, pc := old.pc, aForks := old.aForks } = old) ∧
  ArmStopsIf (.lfork k arm) (fun _ g => current g.work = none) 5 0 ∧
  ArmStopsIf (.lfork k arm) (fun _ g => current g.work ≠ none ∧ 32 ≤ g.work.aForks.length) 6 0 ∧
  ArmWaitsIf (.lfork k arm) (fun _ g => current g.work ≠ none ∧ ¬ room g ∧ g.work.aForks.length < 32) ∧
  (∀ f rest, ArmRunsIf .ljoin (fun _ g => g.work.aForks = f :: rest ∧ g.work.frames.length ≤ f.depth ∧ room g) fun old new =>
    pushes .joinMark old new ∧ new.aForks = rest ∧
    { new with sprue := old.sprue, pc := old.pc, aForks := old.aForks } = old) ∧
  ArmStopsIf .ljoin (fun _ g => ∀ f ∈ g.work.aForks.head?, f.depth < g.work.frames.length) 6 0 ∧
  ArmWaitsIf .ljoin (fun _ g => ∃ f rest, g.work.aForks = f :: rest ∧ g.work.frames.length ≤ f.depth ∧ ¬ room g)

/-- R72, R134, R177: LCOND and LGETV take the head entry of the return queue once the lane accesses that issued before its push
have performed: into a mask register, or sign- or zero-extended into an s register. Until then, and while the queue is empty,
they wait. LCOND to k0 raises ILLEGAL. -/
def Obligations.ReturnQueueReads : Prop := ∀ (d : KReg) (x : SReg) (e : RetEntry) (rest : List RetEntry),
  let before (g : Group) (a : Access) : Prop := a.level = g.level ∧ a.stream = .lane ∧ a.seq < e.seq
  let ready (g : Group) : Prop := g.work.retq = e :: rest ∧ (∀ l ∈ g.loads, ¬ before g l.acc) ∧ ∀ q ∈ g.stores, ¬ before g q.acc
  let early (g : Group) : Prop := g.work.retq = [] ∨ g.work.retq = e :: rest ∧ ¬ ready g
  let pops (old new : Work) : Prop := new.retq = rest ∧ new.pc = old.pc + 4
  (d ≠ 0 → ArmRunsIf (.lcond d) (fun _ g => ready g) fun old new =>
    pops old new ∧ (∀ r, new.kreg r = if r = d then e.value else old.kreg r) ∧
      { new with k := old.k, retq := old.retq, pc := old.pc } = old) ∧
  (d ≠ 0 → ArmWaitsIf (.lcond d) (fun _ g => early g)) ∧
  ArmStopsIf (.lcond 0) (fun _ _ => True) 5 0 ∧
  ∀ signed, ArmWaitsIf (.lgetv x signed) (fun _ g => early g) ∧
    ArmRunsIf (.lgetv x signed) (fun _ g => ready g) fun old new =>
      pops old new ∧
      (∀ r, new.sreg r = if r = x ∧ x ≠ 0 then (if signed then e.value.signExtend 64 else e.value.setWidth 64)
        else old.sreg r) ∧ { new with s := old.s, retq := old.retq, pc := old.pc } = old

/-- R69, R173, R181, R241: WAITC and WAITP issue once every earlier token has retired and the counters are at or below their
thresholds, and write nothing; otherwise they wait. WAITP raises ILLEGAL where its selector names no counter. ROINV empties
the core's read-only view and changes nothing else. -/
def Obligations.CounterWaits : Prop := ∀ (a b c e : BitVec 6) (sel : BitVec 3) (x : SReg),
  let retired (w : Work) : Prop := (∀ t, SprueItem.token t ∉ w.sprue) ∧ w.cur0 = none ∧ w.cur1 = none
  let next (old new : Work) : Prop := new = { old with pc := old.pc + 4 }
  let allLow (w : Work) : Prop := w.cnt.ldc ≤ a.toNat ∧ w.cnt.stc ≤ b.toNat ∧ w.cnt.cpc ≤ c.toNat ∧ w.cnt.mxc ≤ e.toNat
  let selected (w : Work) : Option Nat := match sel.toNat with
    | 1 => some w.cnt.ldc | 2 => some w.cnt.stc | 3 => some w.cnt.cpc | 4 => some w.cnt.mxc | 5 => some w.cnt.rcc
    | 6 => some w.cnt.lkc | _ => none
  let low (w : Work) : Prop := ∀ n ∈ selected w, n ≤ min (w.sreg x).toNat 63
  ArmRunsIf (.waitc a b c e) (fun _ g => retired g.work ∧ allLow g.work) next ∧
  ArmWaitsIf (.waitc a b c e) (fun _ g => ¬ (retired g.work ∧ allLow g.work)) ∧
  ArmRunsIf (.waitp sel x) (fun _ g => selected g.work ≠ none ∧ retired g.work ∧ low g.work) next ∧
  ArmWaitsIf (.waitp sel x) (fun _ g => selected g.work ≠ none ∧ ¬ (retired g.work ∧ low g.work)) ∧
  ArmStopsIf (.waitp sel x) (fun _ g => selected g.work = none) 5 0 ∧
  ∀ s g, s.group? s.focus.group = some g → ∃ t w, exec .roinv s = .next t ∧
    (t.core g.core).ro = [] ∧ next g.work w ∧
    Ran 1 s (t.updCore g.core ({ · with ro := (s.core g.core).ro })) s.focus.group g w

/-- R52, R69, R93, R173: a FENCE issues once every earlier token has retired and its kind's older accesses (and, but for an
acquire fence, recasts) have performed. At group and core scope it then changes nothing but the pc. At device and system scope
it also writes home every dirty byte that the core's owned lines and write-back buffer hold: afterwards home memory holds those
bytes (those of the owned line where both have the byte), none is dirty, and no other byte of memory has changed. Where the spec leaves room it follows log 53. Those clauses are the model's reading. -/
def Obligations.Fences : Prop := ∀ (sc : Scope) (kind : FenceKind),
  let mine {α : Type} (g : Group) (acc : α → Access) (l : List α) : List α := l.filter fun e => (acc e).level = g.level
  let retired (w : Work) : Prop := (∀ t, SprueItem.token t ∉ w.sprue) ∧ w.cur0 = none ∧ w.cur1 = none
  let done (g : Group) : Prop := mine g LoadEntry.acc g.loads = [] ∧ match kind with
    | .acq => ∀ e ∈ mine g StoreEntry.acc g.stores, ∀ op n ret, e.kind ≠ .atomic op n ret
    | _ => mine g StoreEntry.acc g.stores = [] ∧ g.work.cnt.rcc = 0
  let dirtyAt (k : Core) (a : Nat) : Prop :=
    (∃ b : WbLine, (a / 128, b) ∈ k.wb ∧ b.dirty.getLsbD (a % 128)) ∨
    ∃ w m p d, (a / 128, (⟨.owned w m p, d⟩ : L1Line)) ∈ k.l1 ∧ m.getLsbD (a % 128)
  ArmWaitsIf (.fence sc kind) (fun _ g => ¬ (retired g.work ∧ done g)) ∧
  (sc = .grp ∨ sc = .core → ArmRunsIf (.fence sc kind) (fun _ g => retired g.work ∧ done g) fun old new =>
    new = { old with pc := old.pc + 4 }) ∧
  (sc = .dev ∨ sc = .sys → ∀ s g s1, Memory.wf s.mem = true → s.group? s.focus.group = some g → retired g.work → done g →
    releaseCore g.core (issuing s) = .ok () s1 →
    ∃ t, exec (.fence sc kind) s = .next t ∧
      t.group? s.focus.group = some { g with work := { g.work with pc := g.work.pc + 4 }
                                             sched := { g.sched with issuedAt := s.now } } ∧
      (∀ j, j ≠ s.focus.group → t.group? j = s.group? j) ∧
      (t.core g.core).wb = [] ∧
      (∀ line w m p d, Tab.find? (t.core g.core).l1 line = some ⟨.owned w m p, d⟩ → m = 0) ∧
      (∀ line w m p d (j : Fin 128), Tab.find? (s.core g.core).l1 line = some ⟨.owned w m p, d⟩ → m.getLsbD j.val = true →
        Memory.get t.mem (line * 128 + j.val) = d.bytes[j]) ∧
      (∀ line (b : WbLine) (j : Fin 128), Tab.find? (s.core g.core).wb line = some b → b.dirty.getLsbD j.val = true →
        (∀ w m p d, Tab.find? (s.core g.core).l1 line = some ⟨.owned w m p, d⟩ → m.getLsbD j.val = false) →
        Memory.get t.mem (line * 128 + j.val) = b.data.bytes[j]) ∧
      (∀ a, ¬ dirtyAt (s.core g.core) a → Memory.get t.mem a = Memory.get s.mem a))

/-- R60, R137, R138, R139, R182: BARA, BARR and BARW on a listed barrier word. An arrival with n live lanes registers the group; on an
abandoned word it gives status 1; where ARR + n reaches EXP the word flips (PH inverted, ARR 0, EXP less the deferred count);
else ARR rises by n. BARA gives its status at once. BARR ends at once on a flip or an abandoned word, and otherwise waits for
the phase to change; BARW waits for the phase to differ from bit 0 of sa. BARRIER_WAIT_END ends such a wait with the status. No
byte of the scratchpad but the word's eight changes, and no other register of the group. A word that is not listed, or an index
above 15, raises ILLEGAL; a word in a poisoned sector raises POISON, with the scratchpad address of the sector in AUX, and so does a
wait on one that is poisoned meanwhile; the word is left as it was. Those clauses are the model's reading (log 92). At EXIT a registered group deducts its live lanes from a word that is not abandoned: deferred to the
next flip where the group has arrived in this phase, else at once, with a flip where ARR then reaches EXP; a killed group's words
become abandoned. -/
def Obligations.BarrierWords : Prop := (∀ (d a : SReg) (i : BitVec 14) (s : State) (g : Group) (T : Team) (G : Grid),
  s.group? s.focus.group = some g → Tab.find? s.teams g.team = some T → Tab.find? s.grids T.grid = some G →
  let gid := s.focus.group
  let word := G.packet.bar + 8 * i.toNat
  let b := T.bar G.packet i.toNat
  let f := T.flags i.toNat
  let n := popcount (g.work.kreg 0)
  let listed : Prop := i.toNat < 16 ∧ G.packet.bar + 128 ≤ G.packet.scratch
  let free : Prop := (∀ e ∈ g.loads, e.acc.level = g.level → e.acc.stream ≠ .arm) ∧
    ∀ e ∈ g.stores, e.acc.level = g.level → e.acc.stream ≠ .arm
  let clean : Prop := ∀ x, word ≤ x → x < word + 8 → x / 32 ∉ T.bad
  let poisons (t : State) (code : Nat) : State := takeMove t (raise gid g.level
    [⟨0, BitVec.ofNat 64 (word / 32 * 32), g.work.pc, BitVec.ofNat 32 code, 0, 0, false, 8, 0, false, 0, false⟩])
  let ends (st : DWord) (t : State) : Prop := ∃ w, Ran 1 s { t with teams := s.teams } gid g w ∧ SRegOnly d st g.work w
  let waits (ph : Bool) (t : State) : Prop :=
    Ran 1 s { t with teams := s.teams } gid g { g.work with bar := some ⟨i.toNat, ph, d, s.focus.word⟩ }
  let teamIs (b' : BarWord) (arrived : List Nat) (deferred : Nat) (t : State) : Prop := ∃ T',
    Tab.find? t.teams g.team = some T' ∧ (∀ j, j ≠ g.team → Tab.find? t.teams j = Tab.find? s.teams j) ∧
    T'.bar G.packet i.toNat = b' ∧ (∀ x, Tab.get T'.scratch x 0 = Tab.get T.scratch x 0 ∨ word ≤ x ∧ x < word + 8) ∧
    (T'.flags i.toNat).arrived = arrived ∧ (T'.flags i.toNat).deferred = deferred ∧
    (∀ j, j ∈ (T'.flags i.toNat).reg ↔ j = gid ∨ j ∈ f.reg) ∧ (∀ j, j ≠ i.toNat → T'.flags j = T.flags j) ∧
    { T' with scratch := T.scratch, bars := T.bars } = T
  let abandoned : Prop := b.exp = 0xFFFFFFFF
  let reached : Prop := ¬ abandoned ∧ b.exp ≤ b.arr + n
  let short : Prop := ¬ abandoned ∧ b.arr + n < b.exp
  let flipped (t : State) : Prop := teamIs ⟨!b.ph, 0, b.exp - f.deferred⟩ [] 0 t
  let counts (t : State) : Prop := teamIs ⟨b.ph, (b.arr + n) % 2 ^ 31, b.exp⟩ (gid :: f.arrived) f.deferred t
  let kept (t : State) : Prop := teamIs b f.arrived f.deferred t
  (listed → free → clean → abandoned → ∃ t, exec (.bara d i) s = .next t ∧ ends 1 t ∧ kept t) ∧
  (listed → free → clean → reached → ∃ t, exec (.bara d i) s = .next t ∧ ends 0 t ∧ flipped t) ∧
  (listed → free → clean → short → ∃ t, exec (.bara d i) s = .next t ∧ ends 0 t ∧ counts t) ∧
  (listed → free → clean → abandoned → ∃ t, exec (.barr d i) s = .next t ∧ ends 1 t ∧ kept t) ∧
  (listed → free → clean → reached → ∃ t, exec (.barr d i) s = .next t ∧ ends 0 t ∧ flipped t) ∧
  (listed → free → clean → short → ∃ t, exec (.barr d i) s = .next t ∧ waits b.ph t ∧ counts t) ∧
  (listed → clean → abandoned → ∃ t, exec (.barw d a i) s = .next t ∧ ends 1 t ∧ t.teams = s.teams) ∧
  (listed → clean → ¬ abandoned → b.ph ≠ (g.work.sreg a).getLsbD 0 → ∃ t, exec (.barw d a i) s = .next t ∧ ends 0 t ∧ t.teams = s.teams) ∧
  (listed → clean → ¬ abandoned → b.ph = (g.work.sreg a).getLsbD 0 →
    ∃ t, exec (.barw d a i) s = .next t ∧ waits b.ph t ∧ t.teams = s.teams) ∧
  (listed → free → ¬ clean → exec (.bara d i) s = .next (poisons (issuing s) s.focus.word) ∧
    exec (.barr d i) s = .next (poisons (issuing s) s.focus.word)) ∧
  (listed → ¬ clean → exec (.barw d a i) s = .next (poisons (issuing s) s.focus.word)) ∧
  (listed → ¬ free → exec (.bara d i) s = .next s ∧ exec (.barr d i) s = .next s) ∧
  (¬ listed → ArmFaultsAt (.bara d i) s g 5 0 ∧ ArmFaultsAt (.barr d i) s g 5 0 ∧ ArmFaultsAt (.barw d a i) s g 5 0) ∧
  (∀ ph code, g.work.bar = some ⟨i.toNat, ph, d, code⟩ → g.present → g.hold = .none → g.sched.active →
    (¬ clean → exec (.barrierWaitEnd gid) s = .next (poisons s code)) ∧
    (clean → b.ph ≠ ph ∨ abandoned →
      ∃ t w, exec (.barrierWaitEnd gid) s = .next t ∧
        SRegOnly d (if b.exp = 0xFFFFFFFF then 1 else 0) g.work { w with bar := g.work.bar } ∧ w.bar = none ∧
        t.group? gid = some { g with work := w } ∧ (∀ j, j ≠ gid → t.group? j = s.group? j) ∧ { t with groups := s.groups } = s) ∧
    (clean → b.ph = ph ∧ ¬ abandoned → Waits (.barrierWaitEnd gid) s))) ∧ ∀ (T : Team) (p : LaunchPacket) (gid n i : Nat),
  let b := T.bar p i
  let f := T.flags i
  let e := b.exp - n
  (gid ∉ f.reg ∨ b.exp = 0xFFFFFFFF → T.deduct p gid n i = T) ∧
  (gid ∈ f.reg → b.exp ≠ 0xFFFFFFFF → gid ∈ f.arrived →
    (T.deduct p gid n i).bar p i = b ∧ (T.deduct p gid n i).flags i = { f with deferred := f.deferred + n }) ∧
  (gid ∈ f.reg → b.exp ≠ 0xFFFFFFFF → gid ∉ f.arrived → b.arr = 0 ∨ b.arr < e →
    (T.deduct p gid n i).bar p i = { b with exp := e } ∧ (T.deduct p gid n i).flags i = f) ∧
  (gid ∈ f.reg → b.exp ≠ 0xFFFFFFFF → gid ∉ f.arrived → 0 < b.arr → e ≤ b.arr →
    (T.deduct p gid n i).bar p i = ⟨!b.ph, 0, e - f.deferred⟩ ∧
    (T.deduct p gid n i).flags i = { f with arrived := [], deferred := 0 }) ∧
  (gid ∈ f.reg → (T.abandon p gid i).bar p i = ⟨b.ph, 0, 0xFFFFFFFF⟩ ∧ (T.abandon p gid i).flags i = f) ∧
  (gid ∉ f.reg → T.abandon p gid i = T)

/-- R190, R291: YIELD without privilege sends the group from the active to the pending set, ready, at its launch priority, with the pc past
the instruction and nothing else of the group changed; with privilege it suspends the group, not ready, and signals the host driver
on vector 64 + context. -/
def Obligations.Yield : Prop := ∀ s g, s.group? s.focus.group = some g →
  let after (ready : Bool) (hold : Hold) (t : State) : Prop :=
    t.group? s.focus.group = some { g with
      work := { g.work with pc := g.work.pc + 4 }, hold := hold
      sched := { g.sched with active := false, ready := ready, since := s.now, readyAt := s.now, issuedAt := s.now
                              prio := if g.sched.active then s.launchPrio g else g.sched.prio } } ∧
    (∀ j, j ≠ s.focus.group → t.group? j = s.group? j) ∧
    t.core g.core = (s.core g.core).count g.ctx 1 1 ∧ (∀ c, c ≠ g.core → t.core c = s.core c)
  (g.work.priv = false → ∃ t, exec .yield s = .next t ∧ after true g.hold t ∧
    { t with groups := s.groups, cores := s.cores } = s) ∧
  (g.work.priv = true → ∃ t, exec .yield s = .next t ∧ after false .suspended t ∧
    t.pkg.msix = s.pkg.msix ++ [64 + g.ctx] ∧
    { t with groups := s.groups, cores := s.cores, pkg := { t.pkg with msix := s.pkg.msix } } = s)

/-- R60, R121, R133, R136, R139, R191, R192, R310: EXIT retires the group once every token has retired, LDC, STC, MXC, LKC and RCC
are 0 and every access and recast has performed, those that its handlers have left among them: the group is gone, its barrier deductions are made, and its team goes with its last
group. Until then it waits. A fork still open raises FORKNEST and privilege raises ILLEGAL with sub-code 1, before any wait. A
group with a listed barrier word to deduct from that stands in a poisoned sector raises POISON for the first such word (log 92). A
group that holds locks also frees them with orphan marks, once their write-backs can be made. HALT in a handler is a
single-group kill: the group is gone, each barrier word it is registered in is abandoned, and the grid remembers, if it is the
grid's first kill, the class of the first record of the entry that the handler was serving. HALT without privilege raises
ILLEGAL with sub-code 1. Where the spec leaves room it follows logs 40 and 92. Those clauses are the model's reading. -/
def Obligations.ExitAndHalt : Prop := (∀ s g (T : Team) (G : Grid),
  s.group? s.focus.group = some g → Tab.find? s.teams g.team = some T → Tab.find? s.grids T.grid = some G →
  let gid := s.focus.group
  let drained : Prop := (∀ t, SprueItem.token t ∉ g.work.sprue) ∧ g.work.cur0 = none ∧ g.work.cur1 = none ∧
    g.work.cnt.ldc = 0 ∧ g.work.cnt.stc = 0 ∧ g.work.cnt.mxc = 0 ∧ g.work.cnt.lkc = 0 ∧ g.work.cnt.rcc = 0 ∧
    g.loads = [] ∧ g.stores = [] ∧ g.work.recasts = []
  let bad (i : Nat) : Prop := G.packet.bar + 128 ≤ G.packet.scratch ∧ gid ∈ (T.flags i).reg ∧
    ∃ x, G.packet.bar + 8 * i ≤ x ∧ x < G.packet.bar + 8 * i + 8 ∧ x / 32 ∈ T.bad
  let user : Prop := g.work.priv = false ∧ g.work.aForks = []
  let deducted : Team := if G.packet.bar + 128 ≤ G.packet.scratch then
    (List.range 16).foldl (fun t i => t.deduct G.packet gid (popcount (g.work.kreg 0)) i) T else T
  let gone (t : State) : Prop := t.group? gid = none ∧ ∀ j, j ≠ gid → t.group? j = s.group? j
  (user → drained → (∀ i < 16, ¬ bad i) → g.locks = [] → g.requests = [] → ∃ t, exec .exit s = .next t ∧ gone t ∧
    Tab.find? t.teams g.team = (if T.groups.filter (· != gid) = [] then none
      else some { deducted with groups := T.groups.filter (· != gid) }) ∧
    (∀ j, j ≠ g.team → Tab.find? t.teams j = Tab.find? s.teams j) ∧
    (∀ c, t.core c = if c = g.core then (s.core c).count g.ctx 1 1 else s.core c) ∧
    { t with groups := s.groups, teams := s.teams, grids := s.grids, cores := s.cores, ctxs := s.ctxs } = s) ∧
  (user → drained → ∀ i < 16, bad i → (∀ j < i, ¬ bad j) → exec .exit s = .next (takeMove (issuing s) (raise gid g.level
    [⟨0, BitVec.ofNat 64 ((G.packet.bar + 8 * i) / 32 * 32), g.work.pc, BitVec.ofNat 32 s.focus.word, 0, 0, false, 8, 0, false, 0,
      false⟩]))) ∧
  (user → drained → (∀ i < 16, ¬ bad i) → g.requests = [] → ∀ t, exec .exit s = .next t → gone t → ∀ h ∈ g.locks,
    (t.home h.line).holder = none ∧ (t.home h.line).orphan = true) ∧
  (user → ¬ drained → exec .exit s = .next s) ∧
  (g.work.priv = true → ArmFaultsAt .exit s g 5 1) ∧
  (g.work.priv = false → g.work.aForks ≠ [] → ArmFaultsAt .exit s g 6 0)) ∧ ∀ s g (T : Team) (G : Grid),
  s.group? s.focus.group = some g → Tab.find? s.teams g.team = some T → Tab.find? s.grids T.grid = some G →
  let gid := s.focus.group
  (g.work.priv = false → ArmFaultsAt .halt s g 5 1) ∧
  let copies : Prop := ∀ K ∈ s.cores, ∀ k ∈ K.2.engine, k.group = gid → k.stalled = true → k.lastWts = none
  (g.work.priv = true → g.locks = [] → g.requests = [] → copies →
    ∃ t, exec .halt s = .next t ∧ t.group? gid = none ∧ (∀ j, j ≠ gid → t.group? j = s.group? j) ∧
      t.mem = s.mem ∧ t.poison = s.poison ∧
      (∃ G', Tab.find? t.grids T.grid = some G' ∧ G'.killed = true ∧
        G'.firstKill = if G.killed then G.firstKill else g.handler.map (·.first.cls)) ∧
      (T.groups.filter (· != gid) ≠ [] → G.packet.bar + 128 ≤ G.packet.scratch →
        ∃ T', Tab.find? t.teams g.team = some T' ∧ T'.groups = T.groups.filter (· != gid) ∧
          ∀ i < 16, gid ∈ (T.flags i).reg → T'.bar G.packet i = ⟨(T.bar G.packet i).ph, 0, 0xFFFFFFFF⟩))

/-- R188, R291, R296, R303: TRAP by unprivileged code takes the exception: the pc moves past the TRAP, the group stops issuing, at its
launch priority, and is vectored for one ILLEGAL record of sub-code 2 whose AUX is S[sa]. Where its older accesses are still in flight it stays
vectoring, and nothing else has changed; where the record can be written and the handler entered, both have been done. Where
the spec leaves room it follows log 93. Those clauses are the model's reading. -/
def Obligations.TrapTakesException : Prop := ∀ (a : SReg) (s : State) (g : Group), s.group? s.focus.group = some g →
  g.work.priv = false → g.handler = none → g.present → g.hold ≠ .suspended → g.faults = [] → g.entry = none →
  let gid := s.focus.group
  let r : Rec := { va := 0, aux := g.work.sreg a, pc := g.work.pc, word := BitVec.ofNat 32 s.focus.word, src := 0, lane := 0
                   nest := false, cls := 5, sub := 2, byLane := false, seq := s.nextSeq, alone := false }
  let begun : Group := { g with
    work := { g.work with pc := g.work.pc + 4 }, hold := .vectoring, faults := [r]
    entry := some { tail := none, count := 0, cls := 5, sub := 2, lanes := 0, fatal := false }
    sched := { g.sched with active := false, ready := false, since := s.now, readyAt := s.now, issuedAt := s.now
                            prio := if g.sched.active then s.launchPrio g else g.sched.prio } }
  ((∃ e ∈ g.loads, e.kind ≠ .lock ∧ e.acc.seq < s.nextSeq) → ∃ t, exec (.trap a) s = .next t ∧ t.group? gid = some begun ∧
    (∀ j, j ≠ gid → t.group? j = s.group? j) ∧ { t with groups := s.groups, cores := s.cores } = s) ∧
  (
    let s1 := ((issuing s).updWork gid 0 fun w => { w with pc := w.pc + 4 }).updGroup gid fun x =>
      { x.toPending false s.now (s.launchPrio x) with
        faults := x.faults ++ [r], hold := .vectoring, entry := some (Entry.add x.entry r) }
    s1.group? gid = some begun ∧
    ∀ s2 g2 s3, faultRecordWrite gid s1 = .ok () s2 → s2.group? gid = some g2 → g2.faults = [] →
      handlerEntry gid s2 = .ok () s3 → exec (.trap a) s = .next s3)

/-- R297, R298, R299, R300, R301, R302, R307: FAULT_RECORD_WRITE writes the next record to BASE + 32·(TAIL mod size) of the
context's ring, in the layout of R297 and R298 with the lap phase of R301, raises TAIL, and counts the record in the coming entry;
a CONT record that follows it is written with it. Where the ring is full the record is dropped: OVF set, DROPS up, ERRLOG kind 3,
TAIL as before, and the group goes on as if it had been written. It waits while a load of the group that is older than the fault and
no lock request is in flight. After the last record of a fault in privileged code the group is suspended, not ready, and the host
driver signalled on vector 64 + context. Where the spec leaves room it follows logs 18, 23 and 93. Those clauses are the model's
reading. -/
def Obligations.FaultRecordWrite : Prop := ∀ (gid : Nat) (s : State) (g : Group) (r : Rec) (rest : List Rec),
  s.group? gid = some g → g.faults = r :: rest → g.ctx < 16 → Memory.wf s.mem →
  let x := s.ctx g.ctx
  let bits := min (x.fring.extractLsb' 0 4).toNat 8 + 7
  let n := x.tail.toNat
  let at_ : DWord := BitVec.ofNat 64 ((x.fring.extractLsb' 12 45).toNat * 4096 + 32 * (n % 2 ^ bits))
  let info : BitVec 32 := (if n.testBit bits then 0#1 else 1#1) ++ r.src ++ r.lane ++ BitVec.ofNat 4 g.number ++
    BitVec.ofNat 3 (g.core / 40) ++ BitVec.ofNat 6 (g.core % 40) ++ BitVec.ofBool r.nest ++ 0#1 ++ r.sub ++ r.cls
  let bytes := leBytesOf 8 r.va.toNat ++ leBytesOf 8 r.aux.toNat ++ leBytesOf 8 r.pc.toNat ++ leBytesOf 4 info.toNat ++
    leBytesOf 4 r.word.toNat
  let ready : Prop := ∀ e ∈ g.loads, e.kind = .lock ∨ r.seq ≤ e.acc.seq
  let single : Prop := ∀ c ∈ rest.head?, c.cls ≠ 14
  let joins : Prop := r.nest = false ∧ r.alone = false
  let dropped (t : State) : Prop := t.mem = s.mem ∧ (t.ctx g.ctx).tail = x.tail ∧ (t.ctx g.ctx).ovf = true ∧
    (t.ctx g.ctx).drops = (if x.drops = 0x7FFF then 0x7FFF else x.drops + 1) ∧ (t.ctx g.ctx).errKind = 3
  let blockedPath : Bool := ((s.peek g.ctx at_).map fun p => lineOf p.2.1).any s.stalledOn ||
    ((s.peekPa g.ctx at_).toList.map lineOf).any s.stalledOn
  let room : Prop := (x.tail - x.head).toNat < 2 ^ bits
  let noted (wrote : Bool) (t : State) : Prop := ∃ g', t.group? gid = some g' ∧ g'.faults = rest ∧
    g'.entry = some { Entry.add g.entry r with
      tail := some (((g.entry.bind (·.tail))).getD x.tail)
      count := (g.entry.map (·.count)).getD 0 + if wrote then 1 else 0 } ∧
    { g' with faults := g.faults, entry := g.entry } = g ∧ ∀ j, j ≠ gid → t.group? j = s.group? j
  (¬ ready → Waits (.faultRecordWrite gid) s) ∧
  (ready → single → joins → ¬ room → ∃ t, exec (.faultRecordWrite gid) s = .next t ∧ noted false t ∧ dropped t) ∧
  (ready → single → r.nest = true → r.cls ≠ 13 → (∀ y ∈ rest, y.nest = false ∨ y.cls = 13) → ¬ room → ∃ t g', exec (.faultRecordWrite gid) s = .next t ∧ dropped t ∧
    t.group? gid = some g' ∧ g'.hold = .suspended ∧ g'.sched.active = false ∧ g'.sched.ready = false ∧ g'.faults = rest ∧
    { g' with hold := g.hold, sched := g.sched, faults := g.faults } = g ∧ (∀ j, j ≠ gid → t.group? j = s.group? j) ∧
    t.pkg.msix = s.pkg.msix ++ [64 + g.ctx]) ∧
  (ready → joins → ∀ c rest', rest = c :: rest' → c.cls = 14 → c.nest = false → (∀ d ∈ rest'.head?, d.cls ≠ 14) → ∀ s1 s2,
    writeEntryRec gid r s = .ok () s1 → writeEntryRec gid c s1 = .ok () s2 → c.alone = false →
    exec (.faultRecordWrite gid) s = .next (s2.updGroup gid fun g => { g with faults := rest' })) ∧
  (ready → single → joins → room → blockedPath = false → ∀ s1 s2 s3 s4 p q lines, releaseCore g.core s = .ok () s1 →
    accessAt g.core g.ctx at_ .store (some .dev) false false s1 = .ok (.ok p) s2 → p.cls = .dev →
    accessAt g.core g.ctx at_ .store (some .dev) false false s2 = .ok (.ok q) s3 → q.cls ≠ .sys → q.pa % 128 % 32 = 0 →
    partStore g.core g.ctx at_ bytes s2 = .ok (.ok lines) s4 →
    ∃ t, exec (.faultRecordWrite gid) s = .next t ∧ noted true t ∧ Memory.getBytes t.mem q.pa 32 = bytes ∧
      (∀ a, a < q.pa ∨ q.pa + 32 ≤ a → Memory.get t.mem a = Memory.get s3.mem a) ∧
      (t.ctx g.ctx).tail = x.tail + 1 ∧ { t.ctx g.ctx with tail := x.tail } = s4.ctx g.ctx)

/-- R303, R304, R305, R309: HANDLER_ENTRY, once the records are written and everything issued before has performed. The state
is saved, its 0x270 bytes go to the base of the group's record, and the handler starts at FHND.ENTRY, privileged, with the
registers of R304 and every other register zero. Where a fatal record stands and FHND.RECOV is 0, the group ends instead, and
so it does, with kind 5 in ERRLOG, where the block cannot be written. Where the spec leaves room it follows logs 7, 18 and 39. Those clauses are the model's reading. -/
def Obligations.HandlerEntry : Prop := ∀ (gid : Nat) (s : State) (g : Group) (e : Entry),
  s.group? gid = some g → g.hold = .vectoring → g.entry = some e → g.faults = [] →
  let x := s.ctx g.ctx
  let block := savedBlock g
  (e.fatal = true → x.fhnd.getLsbD 0 = false →
    exec (.handlerEntry gid) s = .next (takeMove s (killGroup gid (some e.cls)))) ∧
  (e.fatal = false ∨ x.fhnd.getLsbD 0 = true → s.quiet gid g = false → Waits (.handlerEntry gid) s) ∧
  (e.fatal = false ∨ x.fhnd.getLsbD 0 = true → s.quiet gid g = true → ∀ s1 lines,
    partStore g.core g.ctx g.record block s = .ok (.ok lines) s1 → s1.group? gid = some g →
    ∃ t g', exec (.handlerEntry gid) s = .next t ∧ t.group? gid = some g' ∧
      (∀ j, j ≠ gid → t.group? j = s1.group? j) ∧ { t with groups := s1.groups } = s1 ∧
      g'.handler = some { entryNo := g.nextEntry, saved := { g.work with list := none }, first := e, ran := 0 } ∧
      g'.hold = .none ∧ g'.entry = none ∧ g'.nextEntry = g.nextEntry + 1 ∧ g'.present = g.present ∧ g'.locks = g.locks ∧
      g'.work.pc = (x.fhnd &&& 0x01FFFFFFFFFFFFFC) ∧ g'.work.priv = true ∧
      g'.work.sreg 2 = g.record + 0x2000 ∧
      g'.work.sreg 3 = (e.tail.getD x.tail).setWidth 64 ∧
      g'.work.sreg 4 = BitVec.ofNat 64 e.count ∧ g'.work.sreg 5 = BitVec.ofNat 64 (e.sub.toNat * 16 + e.cls.toNat) ∧
      g'.work.sreg 6 = g.work.pc ∧ g'.work.sreg 8 = g.record ∧
      (∀ r : SReg, r ≠ 2 → r ≠ 3 → r ≠ 4 → r ≠ 5 → r ≠ 6 → r ≠ 8 → g'.work.sreg r = 0) ∧
      g'.work.kreg 0 = g.work.kreg 0 ∧ g'.work.kreg 7 = e.lanes ∧ (∀ k : KReg, k ≠ 0 → k ≠ 7 → g'.work.kreg k = 0) ∧
      (∀ u, g'.work.wreg u = 0) ∧ (∀ q, g'.work.qreg q = ⟨0, 0⟩) ∧ (∀ n, g'.work.vreg n = VVal.zero) ∧
      g'.work.cnt = Counters.zero ∧ g'.work.sprue = [] ∧ g'.work.cur0 = none ∧ g'.work.cur1 = none ∧ g'.work.retq = [] ∧
      g'.work.aForks = [] ∧ g'.work.latch = none ∧ g'.work.srseed = g.work.srseed ∧ g'.work.epoch = g.work.epoch + 1 ∧
      g'.work.budget = 32 ∧ g'.work.elastic = true) ∧
  (e.fatal = false ∨ x.fhnd.getLsbD 0 = true → s.quiet gid g = true → ∀ s1 s2 f,
    partStore g.core g.ctx g.record block s = .ok (.error f) s1 →
    (logError g.ctx 5 f.va.toNat >>= fun _ => killGroup gid (some e.cls)) s1 = .ok () s2 →
    exec (.handlerEntry gid) s = .next s2) ∧
  block.length = 0x270 ∧
  (∀ r : SReg, (block.drop (8 * r.toNat)).take 8 = leBytesOf 8 (g.work.s[r.toNat]'(r.isLt)).toNat) ∧
  (∀ k : KReg, (block.drop (0x200 + 4 * k.toNat)).take 4 = leBytesOf 4 (g.work.kreg k).toNat) ∧
  (∀ u : WReg, (block.drop (0x220 + 4 * u.toNat)).take 4 = leBytesOf 4 (g.work.wreg u).toNat) ∧
  (block.drop 0x260).take 8 = leBytesOf 8 g.work.pc.toNat

/-- R189, R305, R308: ERET in a handler, once everything the handler issued has performed, restores the saved state with what
the saved-state block now holds (every s register but s0, every mask but k0, w0 to w15, the resume address), clears the
privilege, and leaves the handler; a wait of a BARR or BARW goes on unless the resume address has been changed. Until then it
waits. Where the block cannot be read the group ends, with kind 5 in ERRLOG. ERET without privilege raises ILLEGAL with sub-code 1.
Where the spec leaves room it follows log 7. Those clauses are the model's reading. -/
def Obligations.Eret : Prop := ∀ (s : State) (g : Group) (h : Handler), s.group? s.focus.group = some g →
  g.handler = some h →
  let gid := s.focus.group
  let ready : Prop := (∀ e ∈ g.loads, e.acc.level ≠ g.level) ∧ (∀ e ∈ g.stores, e.acc.level ≠ g.level) ∧
    g.work.recasts = [] ∧ (∀ t, SprueItem.token t ∉ g.work.sprue) ∧ g.work.cur0 = none ∧ g.work.cur1 = none
  (g.work.priv = false → ArmFaultsAt .eret s g 5 1) ∧
  (g.work.priv = true → ¬ ready → exec .eret s = .next s) ∧
  (g.work.priv = true → ready → g.hold = .none → g.entry = none → g.faults = [] → ∀ s1 bs w,
    partLoad g.core g.ctx g.record 0x270 (issuing s) = .ok (.ok (bs, w)) s1 → s1.groups = (issuing s).groups →
    ∃ t g', exec .eret s = .next t ∧ t.group? gid = some g' ∧ (∀ j, j ≠ gid → t.group? j = s.group? j) ∧
      g'.handler = none ∧ g'.hold = .none ∧ g'.work.priv = false ∧
      { g' with work := g.work, handler := g.handler, sched := g.sched } = g ∧
      (∀ r : SReg, r ≠ 0 → g'.work.sreg r = BitVec.ofNat 64 (leVal ((bs.drop (8 * r.toNat)).take 8))) ∧
      (∀ k : KReg, g'.work.kreg k =
        if k = 0 then h.saved.kreg 0 else BitVec.ofNat 32 (leVal ((bs.drop (0x200 + 4 * k.toNat)).take 4))) ∧
      (∀ u : WReg, g'.work.wreg u = BitVec.ofNat 32 (leVal ((bs.drop (0x220 + 4 * u.toNat)).take 4))) ∧
      g'.work.pc = BitVec.ofNat 64 (leVal ((bs.drop 0x260).take 8)) ∧
      (g'.work.bar = if g'.work.pc = h.saved.pc then h.saved.bar else none) ∧
      { g'.work with s := h.saved.s, k := h.saved.k, w := h.saved.w, pc := h.saved.pc, priv := h.saved.priv
                     bar := h.saved.bar } = h.saved) ∧
  (g.work.priv = true → ready → g.entry = none → ∀ s1 s2 f,
    partLoad g.core g.ctx g.record 0x270 (issuing s) = .ok (.error f) s1 →
    (logError g.ctx 5 f.va.toNat >>= fun _ => killGroup gid none) s1 = .ok () s2 → exec .eret s = .next s2)

/-- R10, R104, R105, R106, R115, R185, R186, R187, R202, R300, R301, R306, R312, R316, R317, R332: CRD runs with or without
privilege, writes only sd, and reads each register in its layout, reserved bits zero (an EVCNT with the CRD itself counted).
CYC reads the counted cycles plus cycles of the tick in progress, at or after those already shown (log 4: the spec does not
place a CRD inside a tick). Where the spec leaves room it follows log 14. Those clauses are the model's reading. -/
def Obligations.ControlRegisterReads : Prop := ∀ (d : SReg) (s : State) (g : Group), s.group? s.focus.group = some g →
  let x := s.ctx g.ctx
  let k := s.core g.core
  let p := s.pkg
  let reads (r : CReg) (v : DWord) : Prop := ∃ t w, exec (.crd d r) s = .next t ∧ Ran 1 s t s.focus.group g w ∧
    SRegOnly d v g.work w
  reads .ctx (0#36 ++ x.gen ++ 0#11 ++ BitVec.ofBool g.work.priv ++ BitVec.ofNat 4 g.ctx) ∧
  reads .fring x.fring ∧ reads .fhnd x.fhnd ∧
  reads .frpos (BitVec.ofBool x.ovf ++ x.drops ++ 0#16 ++ x.head ++ x.tail) ∧
  reads .errlog (x.errKind ++ x.errCount ++ x.errAddr) ∧
  reads .pts (0#48 ++ k.pts) ∧ reads .lease (0#56 ++ s.lease) ∧ reads .tick (0#51 ++ s.tick) ∧
  reads .rhor (0#48 ++ (issuing s).horizon) ∧
  reads .lkquota (0#35 ++ BitVec.ofNat 13 x.used ++ 0#3 ++ BitVec.ofNat 13 x.quota) ∧
  reads .srseed (0#32 ++ g.work.srseed) ∧
  reads .band (0#24 ++ p.seq ++ BitVec.ofNat 4 p.power.code ++ 0#2 ++ p.code ++ p.tmax ++ p.tmin) ∧
  reads .bandmax (p.exc3 ++ p.exc2 ++ p.exc1 ++ 0#2 ++ p.peakBand ++ p.peak ++ p.rate ++ 0#12) ∧
  (∀ n : BitVec 3, reads (.evsel n) (k.evsel[n.toNat]'(n.isLt)) ∧ reads (.evcnt n) ((k.count g.ctx 1 1).evcnt[n.toNat]'(n.isLt))) ∧
  ∃ t w n, exec (.crd d .cyc) s = .next t ∧ t.draws = s.draws + 1 ∧ (t.core g.core).seen = n ∧ k.seen ≤ n ∧
    (n < k.period ∨ n = k.seen) ∧ SRegOnly d (k.cyc + BitVec.ofNat 64 n) g.work w ∧
    Ran 1 s { t.updCore g.core ({ · with seen := k.seen }) with draws := s.draws } s.focus.group g w

/-- R185, R186: CWR of a register that only the host writes raises ILLEGAL; of a privileged register without privilege, or of
PTS, LEASE and TICK without the clock-control grant, ILLEGAL with sub-code 1; any other does exactly what that register's write
step does with S[sa], for the group's own context and core, and moves the pc past the instruction. A write of PTS waits while LEAD
cannot follow it, the core's tick of the present cycle is still to come, or the clocks stand; one of TICK waits while a core's tick is
to come or LEAD would pass R99's limit. Where the spec leaves room it follows log 45. Those clauses are the model's reading. -/
def Obligations.ControlRegisterWrites : Prop := ∀ (a : SReg) (s : State) (g : Group), s.group? s.focus.group = some g →
  let gid := s.focus.group
  let v := g.work.sreg a
  let host (r : CReg) : Prop := r = .ctx ∨ r = .cyc ∨ r = .fring ∨ r = .fhnd ∨ r = .rhor ∨ r = .lkquota ∨ r = .band ∨
    r = .bandmax
  let clock (r : CReg) : Prop := r = .pts ∨ r = .lease ∨ r = .tick
  let writes (r : CReg) (i : Instr) : Prop := ∃ t, exec i (issuing s) = .next t ∧
    exec (.cwr r a) s = .next (t.updWork gid g.level fun w => { w with pc := w.pc + 4 })
  (∀ r, host r → ArmFaultsAt (.cwr r a) s g 5 0) ∧
  (∀ r, ¬ host r → r ≠ .srseed → g.work.priv = false → ArmFaultsAt (.cwr r a) s g 5 1) ∧
  (∀ r, clock r → g.work.priv = true → (s.ctx g.ctx).grants = false → ArmFaultsAt (.cwr r a) s g 5 1) ∧
  writes .srseed (.srseedWrite gid v) ∧
  (g.work.priv = true →
    writes .frpos (.frposWrite g.ctx v) ∧ writes .errlog (.registerWrite (.errlog g.ctx) v) ∧
    (g.core < 320 → ∀ n, writes (.evsel n) (.registerWrite (.evsel g.core g.ctx n) v) ∧
      writes (.evcnt n) (.registerWrite (.evcnt g.core n) v)) ∧
    ((s.ctx g.ctx).grants = true →
      writes .lease (.leaseWrite v) ∧
      (TickTakes s v → writes .tick (.tickWrite v)) ∧ (¬ TickTakes s v → exec (.cwr .tick a) s = .next s) ∧
      (g.core < 320 → PtsTakes s g.core v → writes .pts (.ptsWrite g.core v)) ∧
      (¬ PtsTakes s g.core v → exec (.cwr .pts a) s = .next s)))

/-- R5, R96, R98, R99, R104, R105, R106, R107, R115, R186, R202, R300, R301, R305, R306, R312, R324, R326, R332: the register-write
steps. PTS takes the serially later of the value and FLOOR, LEAD follows it, and a move back drops the core's leased copies and TLB
entries; it waits while LEAD cannot follow, the core's tick is still to come or the clocks stand; LEASE takes 1 for 0; TICK is held
between 16 and 4,096, and waits while a core's tick is to come or LEAD would pass R99's limit; SRSEED begins an epoch; FRPOS adds to HEAD and clears OVF and
DROPS. REGISTER_WRITE puts the value into the named register, in its layout (reserved bits stay zero), and changes nothing
else. A queue that still holds entries, and a size outside 4 to 12, keep the binding as it was, and a window of the HDM decoder above
1,528 GiB is ignored (log 60, the model's choice). Where the spec leaves room it follows logs 45, 46 and 83. Those clauses are the model's reading. -/
def Obligations.RegisterWrites : Prop := (∀ (s : State) (v : DWord),
  (∀ c < 320, ¬ PtsTakes s c v → Waits (.ptsWrite c v) s) ∧
  (∀ c < 320, PtsTakes s c v → ∃ t, exec (.ptsWrite c v) s = .next t ∧
    (t.core c).pts = serialMax (v.extractLsb' 0 16) (s.lead - 0x2000) ∧
    t.lead = serialMax s.lead (t.core c).pts ∧
    (serialLe (s.core c).pts (t.core c).pts → { t.core c with pts := (s.core c).pts } = s.core c) ∧
    (serialLe (s.core c).pts (t.core c).pts = false → (t.core c).tlb = [] ∧
      (∀ line w r d, Tab.find? (t.core c).l1 line ≠ some ⟨.leased w r, d⟩) ∧
      ∀ line w m p d, Tab.find? (s.core c).l1 line = some ⟨.owned w m p, d⟩ →
        Tab.find? (t.core c).l1 line = some ⟨.owned w m p, d⟩) ∧
    (∀ k, k ≠ c → t.core k = s.core k) ∧ { t with cores := s.cores, lead := s.lead, leadLog := s.leadLog } = s) ∧
  exec (.leaseWrite v) s = .next { s with lease := if v.extractLsb' 0 8 = 0 then 1 else v.extractLsb' 0 8 } ∧
  (TickTakes s v → exec (.tickWrite v) s = .next { s with tick := tickOf v }) ∧ (¬ TickTakes s v → Waits (.tickWrite v) s) ∧
  (∀ gid g, s.group? gid = some g → ∃ t, exec (.srseedWrite gid v) s = .next t ∧
    t.group? gid = some { g with work := { g.work with srseed := v.extractLsb' 0 32, epoch := g.work.epoch + 1 } } ∧
    (∀ j, j ≠ gid → t.group? j = s.group? j) ∧ { t with groups := s.groups } = s) ∧
  ∀ c < 16, ∃ t, exec (.frposWrite c v) s = .next t ∧
    t.ctx c = { s.ctx c with head := (s.ctx c).head + v.extractLsb' 16 16
                             ovf := (s.ctx c).ovf && !v.getLsbD 63
                             drops := if v.getLsbD 63 then 0 else (s.ctx c).drops } ∧
    (∀ k, k ≠ c → t.ctx k = s.ctx k) ∧ { t with ctxs := s.ctxs } = s) ∧ ∀ (s : State) (v : DWord),
  let select (ctx : Nat) : DWord := 0#43 ++ BitVec.ofNat 4 ctx ++ v.extractLsb' 16 1 ++ 0#8 ++ v.extractLsb' 0 8
  let ctxIs (r : RegTarget) (c : Nat) (x' : Ctx) : Prop := ∃ t, exec (.registerWrite r v) s = .next t ∧
    t.ctx c = x' ∧ (∀ k, k ≠ c → t.ctx k = s.ctx k) ∧ { t with ctxs := s.ctxs } = s
  (∀ c < 16,
    let x := s.ctx c
    ctxIs (.errlog c) c { x with errKind := v.extractLsb' 60 4, errCount := v.extractLsb' 52 8, errAddr := v.extractLsb' 0 52 } ∧
    ctxIs (.root c) c { x with root := v.extractLsb' 0 52 } ∧
    ctxIs (.fring c) c { x with fring := 0#7 ++ v.extractLsb' 12 45 ++ 0#8 ++ v.extractLsb' 0 4 } ∧
    ctxIs (.fhnd c) c { x with fhnd := 0#7 ++ v.extractLsb' 2 55 ++ 0#1 ++ v.extractLsb' 0 1 } ∧
    ctxIs (.lkquota c) c { x with quota := (v.extractLsb' 0 13).toNat } ∧
    ctxIs (.grants c) c { x with grants := v.getLsbD 0 } ∧
    ctxIs (.savebase c) c { x with savebase := 0#7 ++ v.extractLsb' 21 36 ++ 0#5 ++ v.extractLsb' 0 16 }) ∧
  (∀ core < 320, ∀ (ctx : Nat) (n : BitVec 3), ∃ t u, exec (.registerWrite (.evsel core ctx n) v) s = .next t ∧
    t.core core = { s.core core with evsel := (s.core core).evsel.setIfInBounds n.toNat (select ctx) } ∧
    exec (.registerWrite (.evcnt core n) v) s = .next u ∧
    u.core core = { s.core core with evcnt := (s.core core).evcnt.setIfInBounds n.toNat v } ∧
    (∀ k, k ≠ core → t.core k = s.core k ∧ u.core k = s.core k) ∧
    { t with cores := s.cores } = s ∧ { u with cores := s.cores } = s) ∧
  exec (.registerWrite .hdm v) s =
    .next { s with pkg := { s.pkg with hdm := if v.toNat ≤ 6112 then v.toNat else s.pkg.hdm } } ∧
  ∀ q < 64, ∃ t, exec (.registerWrite (.queueBase q) v) s = .next t ∧ t.queue q = { s.queue q with base := v } ∧
    (∀ j, j ≠ q → t.queue j = s.queue j) ∧ { t with queues := s.queues } = s ∧
    ∀ ctx < 16, ∀ c, ∃ u, exec (.registerWrite (.queueBind q ctx c) v) s = .next u ∧
      u.queue q = (if 4 ≤ c ∧ c ≤ 12 ∧ (s.queue q).entries = [] then
        { ctx := some ctx, c := c, base := (s.queue q).base, head := 0, tail := 0, entries := [], lastGrid := none }
        else s.queue q) ∧ (∀ j, j ≠ q → u.queue j = s.queue j) ∧ { u with queues := s.queues } = s

/-- R69, R109, R166, R233, R238, R239: SLD, SST and SAMO. Once no older acquire of the stream is in flight and the address
passes its checks, the instruction appends one entry with the translated address, its size, its data and its order, moves the
pc past itself, and writes no register; an address that is not a multiple of the size raises ALIGN with that address, and any
other fault of the check is raised precisely. While an older acquire is in flight it waits. `s1` is the state after the check,
which differs from the issuing state only by what a translation does. Where the spec leaves room it follows logs 24 and 41.
Those clauses are the model's reading. -/
def Obligations.ArmMemoryIssue : Prop := ∀ (d a b : SReg) (sz : Size) (op : AtomOp) (sc : Scope) (od : Order) (imm : BitVec 7)
    (s : State) (g : Group), s.group? s.focus.group = some g → sz ≠ .q →
  let gid := s.focus.group
  let va := g.work.sreg a + imm.signExtend 64 * BitVec.ofNat 64 sz.bytes
  let free : Prop := ∀ acc : Access, (acc ∈ g.loads.map (·.acc) ∨ acc ∈ g.stores.map (·.acc)) →
    acc.level = g.level → acc.stream = .arm → acc.key = 0 → acc.order ≠ .acq ∧ acc.order ≠ .ar
  let acc (s1 : State) (x : Xlat) : Access :=
    { seq := s1.nextSeq + 1, key := 0, iseq := s1.nextSeq, stream := .arm, level := g.level, scope := sc, order := od
      cls := x.cls, pts := x.pts, pc := g.work.pc, word := s.focus.word, cur := false, counter := none, pair := false }
  let adds (i : Instr) (va : DWord) (right : Right) (n : Nat) (load : State → Xlat → List LoadEntry)
      (store : State → Xlat → List StoreEntry) : Prop :=
    (free → va.toNat % n = 0 → ∀ x s1, accessAt g.core g.ctx va right (some sc) false false (issuing s) = .ok (.ok x) s1 →
      s1.groups = (issuing s).groups → ∃ t, exec i s = .next t ∧
        t.group? gid = some { g with
          loads := g.loads ++ load s1 x, stores := g.stores ++ store s1 x, work := { g.work with pc := g.work.pc + 4 }
          sched := { g.sched with issuedAt := s.now } } ∧
        (∀ j, j ≠ gid → t.group? j = s.group? j) ∧
        { t with groups := s1.groups, nextSeq := s1.nextSeq } = s1 ∧ t.nextSeq = s1.nextSeq + 2) ∧
    (free → va.toNat % n = 0 → ∀ f s1, accessAt g.core g.ctx va right (some sc) false false (issuing s) = .ok (.error f) s1 →
      exec i s = .next (takeMove s1 (raise gid g.level
        [⟨f.va, f.aux, g.work.pc, BitVec.ofNat 32 s.focus.word, 0, 0, false, f.cls, f.sub, false, 0, false⟩]))) ∧
    (free → va.toNat % n ≠ 0 → exec i s = .next (takeMove (issuing s) (raise gid g.level
        [⟨va, 0, g.work.pc, BitVec.ofNat 32 s.focus.word, 0, 0, false, 4, 0, false, 0, false⟩]))) ∧
    (¬ free → exec i s = .next s)
  let m := if op = .fadd ∨ op = .bfadd then 4 else 8
  adds (.sld d a sz sc od imm) va .load sz.bytes
    (fun s1 x => [⟨acc s1 x, .load, [⟨0, va, x.pa, sz.bytes, false⟩], .sreg d false⟩]) (fun _ _ => []) ∧
  adds (.sst b a sz sc od imm) va .store sz.bytes (fun _ _ => [])
    (fun s1 x => [⟨acc s1 x, .store, [⟨0, va, x.pa, leBytesOf sz.bytes (g.work.sreg b).toNat, 0, 0, false⟩]⟩]) ∧
  adds (.samo d a b op sc od) (g.work.sreg a) .store m (fun _ _ => [])
    (fun s1 x => [⟨acc s1 x, .atomic op m (some (.sreg d false)),
      [⟨0, g.work.sreg a, x.pa, [], g.work.sreg b, g.work.sreg d, false⟩]⟩])

/-- R29, R37, R69, R247: a recast issues once RCC is below 63 and no older acquire of the Armature stream is in flight. It joins
the group's pending recasts with the values of its registers, raises RCC, moves the pc past itself, and changes nothing else;
otherwise it waits. -/
def Obligations.RecastIssue : Prop := ∀ (x y n : SReg) (s : State) (g : Group), s.group? s.focus.group = some g →
  let gid := s.focus.group
  let free : Prop := ∀ acc : Access, (acc ∈ g.loads.map (·.acc) ∨ acc ∈ g.stores.map (·.acc)) →
    acc.level = g.level → acc.stream = .arm → acc.key = 0 → acc.order ≠ .acq ∧ acc.order ≠ .ar
  let joins (i : Instr) (y : SReg) : Prop :=
    (free ∧ g.work.cnt.rcc < 63 → ∃ t w, exec i s = .next t ∧ t.nextSeq = s.nextSeq + 1 ∧
      Ran 1 s { t with nextSeq := s.nextSeq } gid g w ∧
      w.recasts = g.work.recasts ++ [{ seq := s.nextSeq, instr := i, x := g.work.sreg x, y := g.work.sreg y
                                       n := g.work.sreg n, pc := g.work.pc, word := s.focus.word, level := g.level }] ∧
      w.cnt = { g.work.cnt with rcc := g.work.cnt.rcc + 1 } ∧ w.pc = g.work.pc + 4 ∧
      { w with recasts := g.work.recasts, cnt := g.work.cnt, pc := g.work.pc } = g.work) ∧
    (¬ (free ∧ g.work.cnt.rcc < 63) → exec i s = .next s)
  joins (.rxch x y n) y ∧ joins (.rcat x y n) y ∧ joins (.rspl x y n) y ∧ joins (.rprm x y n) y ∧ joins (.rals x y n) y ∧
  joins (.ralsRw x y n) y ∧ joins (.runm x n) 0 ∧ joins (.rpin x n) 0 ∧ joins (.rupn x n) 0

/-- R30, R31, R32, R34, R39: what a recast plans, once its ranges pass the checks common to all (`rangesM`): which entries it
writes with what, for each form, the lines it holds (those of every entry of its ranges), and the fault where the form's own
condition fails. An RSPL inside a page also takes the next frame of the pool, to which the engine copies the page, and an empty pool
faults. RPRM reads its list once, line by line, holding the lines that are local, and gives each page the entry that the list names
for it. RALS raises the count of each local frame by the number of pages that it aliases, and the first page that would take one past
255 faults; RUNM lowers them, and a frame whose count comes to 0 is freed. Zero pages plan nothing; more than 65,536 pages and operands
off a page boundary fault first. Then the ranges come in the order of R30: their ends, their paths, large pages, and the class of
every valid entry. Where the spec leaves room it follows logs 49, 51 and 100. Those clauses are the model's reading. -/
def Obligations.RecastPlans : Prop := ∀ (core ctx : Nat) (r : Recast) (s s1 : State) (a b : List PageEntry),
  let n := r.n.toNat
  let frame (p : PageEntry) : Nat := bitsOf p.e 51 16
  let localFrame (f : Nat) : Prop := region (f * 65536) = .local_
  let times (f : Nat) (l : List PageEntry) : Nat := l.countP fun p => frame p == f
  let fails (f : XFault) (s' : State) : Prop := planRecast core ctx r s = .error (.faults [(0, f)]) s'
  let plan (es : List PageEntry) (writes : List (Nat × DWord)) : Plan :=
    { writes := writes, held := es.map fun e => lineOf e.pa, dup := none, counts := [], freed := [] }
  let plans (es : List PageEntry) (writes : List (Nat × DWord)) : Prop :=
    planRecast core ctx r s = .ok (some (plan es writes)) s1
  let two : Prop := 0 < n ∧ n ≤ 65536 ∧ r.x.toNat % 65536 = 0 ∧ r.y.toNat % 65536 = 0 ∧
    rangesM core ctx n [r.x, r.y] s = .ok [a, b] s1
  let one : Prop := 0 < n ∧ n ≤ 65536 ∧ r.x.toNat % 65536 = 0 ∧ rangesM core ctx n [r.x] s = .ok [a] s1
  let valid (l : List PageEntry) : Prop := ∀ p ∈ l, p.e.getLsbD 0 = true
  let zero (l : List PageEntry) : Prop := ∀ p ∈ l, p.e = 0
  (65536 < n → fails ⟨2, 2, 0, 0⟩ s) ∧
  (∀ x y c, r.instr = .rxch x y c →
    (n = 0 → r.x.toNat % 65536 = 0 → r.y.toNat % 65536 = 0 → planRecast core ctx r s = .ok none s) ∧
    (n ≤ 65536 → r.x.toNat % 65536 ≠ 0 → fails ⟨4, 0, r.x, 0⟩ s) ∧
    (two → r.x.toNat + n * 65536 ≤ r.y.toNat ∨ r.y.toNat + n * 65536 ≤ r.x.toNat →
      plans (a ++ b) ((a.zip b).map (fun (p, q) => (p.pa, q.e)) ++ (a.zip b).map fun (p, q) => (q.pa, p.e))) ∧
    (two → r.x.toNat < r.y.toNat + n * 65536 → r.y.toNat < r.x.toNat + n * 65536 → fails ⟨2, 2, r.y, 0⟩ s1)) ∧
  (∀ x y c, r.instr = .rcat x y c →
    (two → valid b → zero a → plans (a ++ b) ((a.zip b).map (fun (p, q) => (p.pa, q.e)) ++ b.map fun q => (q.pa, 0))) ∧
    (two → ∀ p ∈ b.find? (fun p => p.e.getLsbD 0 = false), fails ⟨1, 0, p.va, p.e⟩ s1) ∧
    (two → valid b → ∀ p ∈ a.find? (fun p => p.e ≠ 0), fails ⟨2, 2, p.va, p.e⟩ s1)) ∧
  (∀ x y c, r.instr = .rspl x y c →
    let off := r.x.toNat % 65536
    let split : Prop := 0 < n ∧ n ≤ 65536 ∧ r.y.toNat % 65536 = 0 ∧ off ≠ 0 ∧
      rangesM core ctx n [r.x - BitVec.ofNat 64 off, r.y] s = .ok [a, b] s1 ∧ valid a ∧ zero b
    (n = 0 → r.y.toNat % 65536 = 0 → planRecast core ctx r s = .ok none s) ∧
    (∀ p ps q qs f rest, split → a = p :: ps → b = q :: qs → ctx < 16 → (s1.ctx ctx).pool = { pfn := f, fill := none } :: rest →
      ∃ t, planRecast core ctx r s = .ok (some { plan (a ++ b) ((q.pa, (p.e &&& 0xFFF000000000FFFF) ||| BitVec.ofNat 64 (f * 65536)) ::
          ((qs.zip ps).map (fun (d, e) => (d.pa, e.e)) ++ ps.map fun e => (e.pa, 0))) with
        dup := some (bitsOf p.e 51 16, f), counts := [(f, 1)] }) t ∧
        t.ctx ctx = { s1.ctx ctx with pool := rest } ∧ { t with ctxs := s1.ctxs } = s1) ∧
    (split → a ≠ [] → (s1.ctx ctx).pool = [] → fails ⟨1, 4, r.y, 0⟩ s1)) ∧
  (∀ x y c, r.instr = .rspl x y c → two → valid a → zero b →
    plans (a ++ b) ((b.zip a).map (fun (p, q) => (p.pa, q.e)) ++ a.map fun q => (q.pa, 0))) ∧
  (∀ x c, r.instr = .rpin x c → one → valid a → plans a (a.map fun p => (p.pa, p.e ||| 0x20))) ∧
  (∀ x c, r.instr = .rupn x c → one → valid a → plans a (a.map fun p => (p.pa, p.e &&& 0xFFFFFFFFFFFFFFDF))) ∧
  (∀ x c, r.instr = .runm x c → one → valid a → (∀ p ∈ a, p.e.getLsbD 5 = false) →
    ∃ pl, planRecast core ctx r s = .ok (some pl) s1 ∧ pl.writes = a.map (fun p => (p.pa, 0)) ∧
      pl.held = a.map (fun p => lineOf p.pa) ∧ pl.dup = none ∧ (pl.counts.map (·.1)).Nodup ∧ pl.freed.Nodup ∧
      ∀ f, (localFrame f ∧ times f a ≠ 0 → Tab.find? pl.counts f = some (s1.mapCount f - times f a)) ∧
        (¬ (localFrame f ∧ times f a ≠ 0) → Tab.find? pl.counts f = none) ∧
        (f ∈ pl.freed ↔ localFrame f ∧ times f a ≠ 0 ∧ s1.mapCount f ≤ times f a)) ∧
  (∀ x c, r.instr = .runm x c → one → valid a → ∀ p ∈ a.find? (fun p => p.e.getLsbD 5 = true), fails ⟨2, 2, p.va, p.e⟩ s1) ∧
  (∀ x y c, r.instr = .rals x y c ∨ r.instr = .ralsRw x y c → two → valid b → zero a →
    (r.instr = .ralsRw x y c → ∀ p ∈ b, p.e.getLsbD 1 = true) →
    ((∀ p ∈ b, localFrame (frame p) → s1.mapCount (frame p) + times (frame p) b ≤ 255) →
      ∃ pl, planRecast core ctx r s = .ok (some pl) s1 ∧ pl.writes = (a.zip b).map (fun (p, q) => (p.pa,
          ((q.e ||| 0x40) &&& 0xFFFFFFFFFFFFFFDF &&& 0xFFFFFFFFFFFFFFFD) ||| (if r.instr = .ralsRw x y c then 2 else 0))) ∧
        pl.held = (a ++ b).map (fun e => lineOf e.pa) ∧ pl.dup = none ∧ pl.freed = [] ∧ (pl.counts.map (·.1)).Nodup ∧
        ∀ f, (localFrame f ∧ times f b ≠ 0 → Tab.find? pl.counts f = some (s1.mapCount f + times f b)) ∧
          (¬ (localFrame f ∧ times f b ≠ 0) → Tab.find? pl.counts f = none)) ∧
    (∀ l q more, b = l ++ q :: more → localFrame (frame q) → 255 ≤ s1.mapCount (frame q) + times (frame q) l →
      (∀ p ∈ l, localFrame (frame p) → s1.mapCount (frame p) + times (frame p) l ≤ 255) → fails ⟨2, 2, q.va, q.e⟩ s1)) ∧
  (∀ x y c, r.instr = .ralsRw x y c → two → valid b → zero a → ∀ p ∈ b.find? (fun p => p.e.getLsbD 1 = false),
    fails ⟨2, 2, p.va, p.e⟩ s1) ∧
  (∀ x y c, r.instr = .rprm x y c →
    (n = 0 → r.x.toNat % 65536 = 0 → planRecast core ctx r s = .ok none s) ∧
    (one → r.y.toNat % 2 = 1 → fails ⟨4, 0, r.y, 0⟩ s1) ∧
    (one → r.y.toNat % 2 = 0 → ∀ bs lines s2, listBytes core ctx (lineRuns (2 * n / 128 + 2) r.y.toNat (2 * n)) s1 = .ok (bs, lines) s2 →
      let names := (List.range n).map fun i => leVal ((bs.drop (2 * i)).take 2)
      (names.Perm (List.range n) → ∃ writes, planRecast core ctx r s = .ok (some { plan a writes with
          held := lines ++ a.map fun e => lineOf e.pa }) s2 ∧ writes.map (·.1) = a.map (·.pa) ∧
        ∀ (i j : Nat) (p q : PageEntry), a[i]? = some p → names[i]? = some j → a[j]? = some q → writes[i]? = some (p.pa, q.e)) ∧
      (¬ names.Perm (List.range n) → fails ⟨2, 2, r.x, 0⟩ s2))) ∧
  listBytes core ctx [] s = .ok ([], []) s ∧
  (∀ at_ k m rest x s2 s3 s4 s5 bs lines, accessAt core ctx (BitVec.ofNat 64 at_) .load (some .dev) false false s = .ok (.ok x) s2 →
    s2.place x.pa = .here → (if isLocal (x.pa / 128) then takeLine (x.pa / 128) s2 = .ok () s3 ∧
        jump core (s3.home (x.pa / 128)).wts s3 = .ok () s4 else s4 = s2) →
    x.pa % 128 + m ≤ 128 → Memory.wf s4.mem → (∀ i < m, (x.pa + i) / 32 ∉ s4.poison) → listBytes core ctx rest s4 = .ok (bs, lines) s5 →
    listBytes core ctx ((at_, k, m) :: rest) s = .ok (Memory.getBytes s4.mem x.pa m ++ bs,
      if isLocal (x.pa / 128) then x.pa / 128 :: lines else lines) s5) ∧
  ∀ (ranges : List DWord) (m : Nat), let fault (f : XFault) (s' : State) : Prop := rangesM core ctx m ranges s = .error (.faults [(0, f)]) s'
    let chunks := ranges.flatMap fun v => rangeChunks v m
    (∀ v ∈ ranges.find? (fun v => 2 ^ 57 < v.toNat + m * 65536), fault ⟨1, 3, v, 0⟩ s) ∧
    ((∀ v ∈ ranges, v.toNat + m * 65536 ≤ 2 ^ 57) →
      ∀ ends s2, RunsAll (fun (c : Nat × Nat) => pathOf core ctx (BitVec.ofNat 64 c.1)) chunks s ends s2 →
      (∀ f ∈ ends.findSome? PathEnd.fault?, fault f s2) ∧
      ((∀ e ∈ ends, e.fault? = none) →
        (∀ c ∈ (chunks.zip ends).find? (fun c => c.2 = .big), fault ⟨4, 0, BitVec.ofNat 64 c.1.1, 0⟩ s2) ∧
        ∀ tables es s3, ends = tables.map PathEnd.table →
          RunsAll (fun (c : (Nat × Nat) × Nat) => tableEntries c.2 c.1.1 c.1.2) (chunks.zip tables) s2 es s3 →
          let sys (p : PageEntry) : Bool := p.e.getLsbD 0 && bitsOf p.e 4 3 == 2
          (∀ p ∈ es.flatten.find? sys, fault ⟨3, 0, p.va, p.e⟩ s3) ∧
          (es.flatten.find? sys = none →
            ∃ l, rangesM core ctx m ranges s = .ok l s3 ∧ l.flatten = es.flatten ∧ l.length = ranges.length)))

/-- R38, R39, R41, R43, R82, R299: the RECAST move performs the oldest pending recast once its release condition holds: every
planned entry is written with one common wts, the serially latest of the core's pts and one more than the rts of every line held, to
which the core's pts and the held lines' rts go; the mapping counts and the quarantine take what the plan says, and no other byte of
memory changes. RCC falls, but for an RSPL that copies a frame: that puts the copy of its 64 KiB into the engine, with a range record
at each line of the new frame, and RCC stays; a full engine makes it wait. A recast that fails its checks writes
nothing and raises its fault with a CONT record after it. `s1` is the state after the release condition's write-backs, `s2`
after the checks. Where the spec leaves room it follows logs 11, 47, 50 and 51. Those clauses are the model's reading. -/
def Obligations.RecastPerforms : Prop := ∀ (gid : Nat) (s : State) (g : Group) (r : Recast) (rest : List Recast),
  s.group? gid = some g → g.present → g.work.recasts = r :: rest → r.level = g.level →
  ∀ s1, recastReady g r s = .ok () s1 → s1.groups = s.groups →
  let s1' := s1.updWork gid r.level fun w => { w with recasts := rest }
  (∀ p s2 s3 t0, planRecast g.core g.ctx r s1' = .ok (some p) s2 → s2.groups = s1'.groups → Memory.wf s2.mem →
    (∀ w ∈ p.writes, w.1 % 8 = 0) → (p.writes.map (·.1)).Nodup → (p.counts.map (·.1)).Nodup → (p.freed = [] ∨ g.ctx < 16) →
    let held := sortNat (dedup (p.writes.map (fun w => lineOf w.1) ++ p.held))
    commitLines g.core held p.writes (s2.event g.core g.ctx 7) = .ok t0 s3 →
    let done (t : State) (rcc : Nat) : Prop := t0 = (held.map fun l => (s2.home l).rts + 1).foldl serialMax (s2.core g.core).pts ∧
      s2.pkg.clock ≠ .stopped ∧ (t.core g.core).pts = serialMax (s2.core g.core).pts t0 ∧
      (∀ w ∈ p.writes, t.entryAt w.1 = w.2 ∧ (stale t0 (s2.leadView (lineOf w.1)) = false → (t.home (lineOf w.1)).wts = t0)) ∧
      (∀ l ∈ held, stale t0 (s2.leadView l) = false → (t.home l).rts = t0) ∧
      (∀ a, (∀ w ∈ p.writes, a < w.1 ∨ w.1 + 8 ≤ a) → Memory.get t.mem a = Memory.get s2.mem a) ∧
      (∀ c ∈ p.counts, t.mapCount c.1 = c.2) ∧ (∀ f, f ∉ p.counts.map (·.1) → t.mapCount f = s2.mapCount f) ∧
      (t.ctx g.ctx).quarantine = (s3.ctx g.ctx).quarantine ++ p.freed.map (fun f => ⟨f, t0, false⟩) ∧
      t.group? gid = some { g with work := { g.work with recasts := rest, cnt := { g.work.cnt with rcc := rcc } } } ∧
      ∀ j, j ≠ gid → t.group? j = s.group? j
    (p.dup = none → ∃ t, exec (.recast gid) s = .next t ∧ done t (g.work.cnt.rcc - 1)) ∧
    (∀ src dst T, p.dup = some (src, dst) → Tab.find? s3.teams g.team = some T →
      (16 ≤ (s3.core g.core).engine.length → Waits (.recast gid) s) ∧
      ((s3.core g.core).engine.length < 16 → (∀ l, l / 512 = dst → (s3.home l).owner = none) → ∃ t, exec (.recast gid) s = .next t ∧
        done t g.work.cnt.rcc ∧
        let id := (s3.core g.core).nextId
        let lines := (List.range 512).map (dst * 512 + ·)
        (t.core g.core).engine = (s3.core g.core).engine ++ [{
          id := id, ctx := g.ctx, group := gid, level := r.level, kind := .dup
          block := ⟨BitVec.ofNat 64 (src * 65536), 0, BitVec.ofNat 64 (dst * 65536), 0, 0, 0, 0, 0⟩
          at_ := 0, iseq := s3.nextSeq, index := [], oor := 0, pages := [], todo := lines, done := [], read := [], lastWts := none
          running := false, stalled := false, err := false, until_ := 0, sent := false, team := g.team, grid := T.grid }] ∧
        (t.core g.core).nextId = (if id = 0xFFFF then 1 else id + 1) ∧
        ∀ l ∈ lines, isLocal l → (t.home l).records = (s3.home l).records ++ [(g.core, id)]))) ∧
  (∀ s2, planRecast g.core g.ctx r s1' = .ok none s2 → ∃ t, exec (.recast gid) s = .next t ∧
    t = (s2.event g.core g.ctx 7).updWork gid r.level fun w => { w with cnt := { w.cnt with rcc := w.cnt.rcc - 1 } }) ∧
  (∀ f s2 s3, planRecast g.core g.ctx r s1' = .error (.faults [(0, f)]) s2 →
    raise gid r.level
      [⟨f.va, f.aux, r.pc, BitVec.ofNat 32 r.word, 0, 0, false, f.cls, f.sub, false, 0, false⟩,
       ⟨r.x, r.y, r.n, BitVec.ofNat 32 r.word, 0, 0, false, 14, 0, false, 0, false⟩]
      (s2.updWork gid r.level fun w => { w with cnt := { w.cnt with rcc := w.cnt.rcc - 1 } }) = .ok () s3 →
    exec (.recast gid) s = .next s3)

/-- R35, R36, R248: RQRY writes the entry its walk stops at to sd, and nothing else of the group. RMAP needs privilege; where
its mapping succeeds it writes the number of leaves to sd. Within one table it gives the zero entries, in ascending order, the
pool's frames in order, with V and bits 4:1 of sb, until the pool runs dry; entries that are not zero stay. Where the spec
leaves room it follows logs 11 (RQRY's CONT record), 48, 51, 94 and 101. Those clauses are the model's reading. -/
def Obligations.QueryAndMap : Prop := ∀ (d a b : SReg) (s : State) (g : Group), s.group? s.focus.group = some g →
  let gid := s.focus.group
  let va := g.work.sreg a
  let writes (s1 : State) (v : DWord) (t : State) : Prop := ∃ w, SRegOnly d v g.work w ∧
    t.group? gid = some { g with work := w, sched := { g.sched with issuedAt := s.now } } ∧
    (∀ j, j ≠ gid → t.group? j = s.group? j) ∧ { t with groups := s1.groups } = s1
  let idle : Prop := g.loads = [] ∧ g.stores = [] ∧ g.work.recasts = [] ∧ (∀ t, SprueItem.token t ∉ g.work.sprue) ∧
    g.work.cur0 = none ∧ g.work.cur1 = none
  (∀ e s1, g.loads = [] → g.stores = [] → va.toNat < 2 ^ 57 →
    queryLevels g.core va [4, 3, 2, 1, 0] (s.ctx g.ctx).root.toNat (issuing s) = .ok e s1 → s1.groups = (issuing s).groups →
    ∃ t, exec (.rqry d a) s = .next t ∧ writes s1 e t) ∧
  (∀ s1, g.loads = [] → g.stores = [] → 2 ^ 57 ≤ va.toNat →
    raise gid g.level
      [⟨va, 0, g.work.pc, BitVec.ofNat 32 s.focus.word, 0, 0, false, 1, 3, false, 0, false⟩,
       ⟨va, 0, g.work.sreg d, BitVec.ofNat 32 s.focus.word, 0, 0, false, 14, 0, false, 0, false⟩] (issuing s) = .ok () s1 →
    exec (.rqry d a) s = .next s1) ∧
  (g.work.priv = false → ArmFaultsAt (.rmap d a b) s g 5 1) ∧
  (g.work.priv = true → idle → ∀ n s1 s2, releaseCore g.core (issuing s) = .ok () s1 →
    mapRange g.core g.ctx va (g.work.sreg b) s1 = .ok n s2 → s2.groups = (issuing s).groups →
    ∃ t, exec (.rmap d a b) s = .next t ∧ writes (s2.event g.core g.ctx 7) (BitVec.ofNat 64 n) t) ∧
  (∀ core ctx flags es m, ctx < 16 → m.dry = false → (∀ f ∈ (s.ctx ctx).pool, f.fill = none) →
    let zeros := es.filter fun p => p.e == 0
    let frames := (s.ctx ctx).pool.map (·.pfn)
    ∃ t, mapEntries core ctx flags es m s = .ok
      { writes := m.writes ++ (zeros.zip frames).map fun (p, f) => (p.pa, BitVec.ofNat 64 (f * 65536) ||| flags ||| 1)
        held := m.held, leaves := m.leaves ++ frames.take zeros.length, dry := decide (frames.length < zeros.length) } t ∧
      (t.ctx ctx).pool = (s.ctx ctx).pool.drop zeros.length) ∧
  (∀ core va level rest table, let pa := table + 8 * (if level = 0 then bitsOf va 20 16 else bitsOf va (9 * level + 20) (9 * level + 12))
    let leafAt (e : DWord) : Prop := level = 0 ∨ level = 1 ∧ e.getLsbD 0 = true ∧ e.getLsbD 7 = true
    let next (e : DWord) : Prop := e.getLsbD 0 = true ∧ descWellFormed e level = true
    let query := queryLevels core va (level :: rest) table s
    (∀ k, s.place pa = .lost k → query = .error (.faults [(0, ⟨10, 0, va, BitVec.ofNat 64 k⟩)]) s) ∧
    (s.place pa = .error → query = .error (.faults [(0, ⟨11, 0, va, BitVec.ofNat 64 pa⟩)]) s) ∧
    (∀ w r s1 s2, s.place pa = .here → readHome core (pa / 128) s = .ok (w, r) s1 → jump core w s1 = .ok () s2 →
      let e := s2.entryAt pa
      (pa / 32 ∈ s2.poison → query = .error (.faults [(0, ⟨8, 0, va, BitVec.ofNat 64 (pa / 32 * 32)⟩)]) s2) ∧
      (pa / 32 ∉ s2.poison → leafAt e → query = .ok e s2) ∧
      (pa / 32 ∉ s2.poison → ¬ leafAt e → ¬ next e → query = .ok 0 s2) ∧
      (pa / 32 ∉ s2.poison → ¬ leafAt e → next e → query = queryLevels core va rest (bitsOf e 51 8 * 256) s2))) ∧
  (∀ core va rmap level rest table s0, let pa := table + 8 * (if level = 0 then bitsOf va 20 16 else bitsOf va (9 * level + 20) (9 * level + 12))
    let path := pathLevels core va rmap (level :: rest) table s
    let ends (p : PathEnd) (s' : State) : Prop := path = .ok p s'
    let serves : Prop := rmap = true ∧ level = 1
    (∀ f ∈ placeFault va pa (s.place pa), ends (.bad f) s) ∧
    (s.place pa = .here → (serves → takeLine (pa / 128) s = .ok () s0) → (¬ serves → s0 = s) →
      let gap : Prop := serves ∧ s0.entryAt pa = 0 ∧ pa / 32 ∉ s0.poison
      (gap → ends (.gap pa) s0) ∧
      (¬ gap → ∀ w r s1 s2, readHome core (pa / 128) s0 = .ok (w, r) s1 → jump core w s1 = .ok () s2 →
        let e := s2.entryAt pa
        let big : Prop := level = 1 ∧ e.getLsbD 7 = true
        (pa / 32 ∈ s2.poison → ends (.bad ⟨8, 0, va, BitVec.ofNat 64 (pa / 32 * 32)⟩) s2) ∧
        (pa / 32 ∉ s2.poison →
          (e.getLsbD 0 = false → ends (.bad ⟨1, 0, va, e⟩) s2) ∧
          (e.getLsbD 0 = true → big → (rmap = true → leafWellFormed e 1 = true) → ends .big s2) ∧
          (e.getLsbD 0 = true → big → rmap = true → leafWellFormed e 1 = false → ends (.bad ⟨1, 2, va, e⟩) s2) ∧
          (e.getLsbD 0 = true → ¬ big → descWellFormed e level = false → ends (.bad ⟨1, 2, va, e⟩) s2) ∧
          (e.getLsbD 0 = true → ¬ big → descWellFormed e level = true →
            path = pathLevels core va rmap rest (bitsOf e 51 8 * 256) s2))))) ∧
  (∀ core ctx (l : List (Nat × Nat)) hs s1,
    RunsAll (fun (c : Nat × Nat) => pathLevels core (BitVec.ofNat 64 c.1) true [4, 3, 2] (s.ctx ctx).root.toNat) l s hs s1 →
    (∀ f ∈ hs.findSome? PathEnd.fault?, mapPaths core ctx l s = .error (.faults [(0, f)]) s1) ∧
    ∀ tables ls s2, hs = tables.map PathEnd.table →
      RunsAll (fun (c : (Nat × Nat) × Nat) => pathLevels core (BitVec.ofNat 64 c.1.1) true [1] c.2) (l.zip tables) s1 ls s2 →
      (∀ f ∈ ls.findSome? PathEnd.fault?, mapPaths core ctx l s = .error (.faults [(0, f)]) s2) ∧
      ((∀ p ∈ ls, p.fault? = none) → mapPaths core ctx l s = .ok (l.zip ls) s2)) ∧
  (∀ core ctx (x y : DWord), let n := bitsOf y 63 32
    let fails (f : XFault) : Prop := mapRange core ctx x y s = .error (.faults [(0, f)]) s
    let counted : Prop := 0 < n ∧ n ≤ 65536
    (¬ counted → fails ⟨2, 2, x, 0⟩) ∧
    (counted → bitsOf y 4 3 = 3 → fails ⟨2, 2, x, 0⟩) ∧
    (counted → bitsOf y 4 3 ≠ 3 → x.toNat % 65536 ≠ 0 → fails ⟨4, 0, x, 0⟩) ∧
    (counted → bitsOf y 4 3 ≠ 3 → x.toNat % 65536 = 0 → 2 ^ 57 < x.toNat + n * 65536 → fails ⟨1, 3, x, 0⟩) ∧
    (counted → bitsOf y 4 3 ≠ 3 → x.toNat % 65536 = 0 → x.toNat + n * 65536 ≤ 2 ^ 57 →
      ((rangeChunks x n).flatMap fun c => (List.range c.2).map fun i => c.1 + 65536 * i) =
        (List.range n).map (fun i => x.toNat + 65536 * i) ∧
      (∀ c ∈ rangeChunks x n, 0 < c.2 ∧ c.1 % 2 ^ 21 + 65536 * c.2 ≤ 2 ^ 21) ∧
      (∀ f s1, mapPaths core ctx (rangeChunks x n) s = .error f s1 → mapRange core ctx x y s = .error f s1) ∧
      (∀ ps s1 m s2 t s3, mapPaths core ctx (rangeChunks x n) s = .ok ps s1 →
        mapChunks core ctx (y &&& 0x1E) ps ⟨[], [], [], false⟩ s1 = .ok m s2 →
        commitLines core (sortNat (dedup (m.writes.map (fun w => lineOf w.1) ++ m.held))) m.writes s2 = .ok t s3 →
        ∃ s4, mapRange core ctx x y s = .ok m.leaves.length s4 ∧ { s4 with mapcnt := s3.mapcnt } = s3 ∧
          ∀ f, s4.mapCount f = if f ∈ m.leaves then 1 else s3.mapCount f))) ∧
  ∀ core ctx flags (va n : Nat) rest (m : Mapped),
    let mapped (p : PathEnd) : M Mapped := mapChunks core ctx flags (((va, n), p) :: rest) m
    mapChunks core ctx flags [] m s = .ok m s ∧
    (∀ p, m.dry = true → mapped p s = .ok m s) ∧
    (m.dry = false → mapped .big s = mapChunks core ctx flags rest m s) ∧
    (∀ table es s1 m2 s2, m.dry = false → tableEntries table va n s = .ok es s1 →
      mapEntries core ctx flags es { m with held := m.held ++ es.map fun e => lineOf e.pa } s1 = .ok m2 s2 →
      mapped (.table table) s = mapChunks core ctx flags rest m2 s2) ∧
    (∀ pa, m.dry = false → (s.ctx ctx).pool = [] → mapped (.gap pa) s = .ok { m with dry := true } s) ∧
    (∀ pa f pool es s1 m2 s2, m.dry = false → (s.ctx ctx).pool = { pfn := f, fill := none } :: pool →
      tableEntries (f * 65536) va n (s.updCtx ctx ({ · with pool := pool })) = .ok es s1 →
      mapEntries core ctx flags es { m with writes := m.writes ++ [(pa, BitVec.ofNat 64 (f * 65536) ||| 1)] } s1 = .ok m2 s2 →
      mapped (.gap pa) s = mapChunks core ctx flags rest m2 s2) ∧
    ∀ table, let l := (List.range n).map fun i => (BitVec.ofNat 64 (va + 65536 * i), table + 8 * bitsOf (BitVec.ofNat 64 (va + 65536 * i)) 20 16)
      (∀ f ∈ l.findSome? (fun (a, pa) => placeFault a pa (s.place pa)), tableEntries table va n s = .error (.faults [(0, f)]) s) ∧
      ((∀ x ∈ l, s.place x.2 = .here) → ∀ s1, each (sortNat (dedup (l.map fun x => lineOf x.2))) takeLine s = .ok () s1 →
        (∀ x ∈ l.find? (fun x => x.2 / 32 ∈ s1.poison),
          tableEntries table va n s = .error (.faults [(0, ⟨8, 0, x.1, BitVec.ofNat 64 (x.2 / 32 * 32)⟩)]) s1) ∧
        ((∀ x ∈ l, x.2 / 32 ∉ s1.poison) →
          tableEntries table va n s = .ok (l.map fun (a, pa) => ⟨a, pa, s1.entryAt pa⟩) s1))

/-- R67, R80, R270, R271, R276, R278, R281: a copy command at issue. Once the engine has room, CPC is below 63, the block is a
multiple of 64, its fields are legal and its pages translate, the command joins the engine with the next identifier, a range
record stands at each local destination line, sd takes the identifier, CPC rises, and memory is as the loads and walks of the
issue left it (`s4`); a command with nothing to write has ended at once. The loads of a GATH's or SCAT's index list are moves of
their own, line by line, after that of the block: each leaves the instruction at issue with the bytes it has read, and the step
after the last issues the command. Which fields are legal is said for each command. With FLT set, an index out of
range raises PERMISSION with sub-code 5; a misaligned block raises ALIGN; illegal fields raise ILLEGAL; a full engine or counter
waits. Where the spec leaves room it follows logs 71, 72 and 75. Those clauses are the model's reading. -/
def Obligations.CopyIssue : Prop := ∀ (kind : CmdKind) (d a : SReg) (s : State) (g : Group) (T : Team),
  s.group? s.focus.group = some g → kind ≠ .dup →
  let gid := s.focus.group
  let c := g.core
  let i : Instr := match kind with
    | .cpy => .cpy d a | .cpys => .cpys d a | .cpyw => .cpyw d a | .gath => .gath d a | .scat => .scat d a
    | .cpyob => .cpyob d a | .fred => .fred d a | .dup => .cpy d a
  let va := g.work.sreg a
  let room : Prop := (s.core c).engine.length < 16 ∧ g.work.cnt.cpc < 63
  let faults (s' : State) (va : DWord) (cls sub : BitVec 4) : Prop := exec i s = .next (takeMove (afterArm s' gid) (raise gid g.level
    [⟨va, 0, g.work.pc, BitVec.ofNat 32 s.focus.word, 0, 0, false, cls, sub, false, 0, false⟩]))
  (¬ room → exec i s = .next s) ∧
  (room → va.toNat % 64 ≠ 0 → faults s va 4 0) ∧
  (room → va.toNat % 64 = 0 → ∀ b got s1, (match g.work.list with
      | some p => b = p.block ∧ got = p.got ∧ s1 = s
      | none => ∃ bs, groupLoad g va 64 64 s = .ok bs s1 ∧ b = Block.ofBytes bs ∧ got = []) → s1.groups = s.groups →
    Tab.find? s1.teams g.team = some T →
    let slot := Tab.find? T.slots (b.dst.toNat % 64)
    let n := bitsOf b.arg 63 32
    let s2 : State := { s1 with nextSeq := s1.nextSeq + 1 }
    let k0 : Cmd :=
      { id := 0, ctx := g.ctx, group := gid, level := g.level, kind := kind, block := b, at_ := va, iseq := s1.nextSeq
        index := List.replicate (if kind = .gath then n else 0) 0, oor := 0, pages := [], todo := [], done := [], read := []
        lastWts := none, running := false, stalled := false, err := false, until_ := 0, sent := false, team := g.team
        grid := T.grid }
    let pagesOf (k : Cmd) : M (List DstPage) := dstPages g (b.shd && kind == .cpys && bitsOf b.ext0 17 16 != 0)
      (firstInPage (k.pieces.flatMap fun p => pageStarts p.dst.toNat p.n) [])
    let runs := if kind = .gath ∨ kind = .scat then (lineRuns (4 * n / 128 + 2) b.ext0.toNat (4 * n)).filter fun r =>
      decide (b.ext0.toNat + got.length ≤ r.1) else []
    let index : List Word := (List.range n).map fun j => BitVec.ofNat 32 (leVal ((got.drop (4 * j)).take 4))
    let prepared (k : Cmd) (s3 : State) : Prop := runs = [] ∧ match kind with
      | .gath => ∃ pages, pagesOf k0 s2 = .ok pages s3 ∧ k = { k0 with index := index, pages := pages }
      | .scat => ∃ pages, pagesOf { k0 with index := index } s2 = .ok pages s3 ∧ k = { k0 with index := index, pages := pages }
      | .cpyob => s3 = s2 ∧ k = { k0 with todo := [b.dst.toNat % 64] }
      | .fred => if b.ext0.extractLsb' 24 8 = s2.pkg.fabricNo then
            ∃ pages, pagesOf k0 s2 = .ok pages s3 ∧ k = { k0 with pages := pages }
          else s3 = s2 ∧ k = k0
      | _ => ∃ pages, pagesOf k0 s2 = .ok pages s3 ∧ k = { k0 with pages := pages }
    (b.legal kind slot = false → faults s1 0 5 0) ∧
    (b.legal kind slot = true → ∀ r more, runs = r :: more → ∀ s2' s3 bs,
      (kind = .gath ∧ (∃ pages, pagesOf k0 s2 = .ok pages s2') ∨ kind = .scat ∧ s2' = s2) →
      (if g.work.list = none then bs = [] ∧ s3 = s2' else groupLoad g (BitVec.ofNat 64 r.1) r.2.2 4 s2' = .ok bs s3) →
      exec i s = .next (s3.updWork gid g.level fun w => { w with list := some ⟨b, got ++ bs⟩ })) ∧
    (b.legal kind slot = true → ∀ k s3 s4, prepared k s3 →
      checkSources g (firstInPage ((k.sources ((slot.map (·.fmt)).getD .e4m3)).flatMap fun r => pageStarts r.1.toNat r.2.2) [])
        s3 = .ok () s4 → s4.groups = s.groups →
      let oor := k.index.countP fun x => x.getLsbD 31 || decide (bitsOf b.ext1 31 0 ≤ x.toNat)
      let lines := if kind = .cpyob then k.todo else
        sortNat (dedup ((k.runs s4.pkg.fabricNo.toNat).map (·.line)))
      let id := (s4.core c).nextId
      let issued (t : State) (w : Work) (cpc : Nat) : Prop := exec i s = .next t ∧
        SRegOnly d (0#48 ++ id) g.work { w with cnt := g.work.cnt, list := g.work.list } ∧ w.list = none ∧
        w.cnt = { g.work.cnt with cpc := cpc } ∧
        t.group? gid = some { g with work := w, sched := { g.sched with issuedAt := s4.now } } ∧
        (∀ j, j ≠ gid → t.group? j = s.group? j) ∧ t.mem = s4.mem ∧ t.poison = s4.poison
      (b.flags.getLsbD 0 = true → 0 < oor → faults s4 0 2 5) ∧
      (b.flags.getLsbD 0 = false ∨ oor = 0 → lines ≠ [] ∨ kind = .fred → ∃ t w, issued t w (g.work.cnt.cpc + 1) ∧
        (t.core c).engine = (s4.core c).engine ++ [{ k with id := id, oor := oor, todo := lines }] ∧
        (t.core c).nextId = (if id = 0xFFFF then 1 else id + 1) ∧
        (kind ≠ .cpyob → ∀ l ∈ lines, isLocal l → (t.home l).records = (s4.home l).records ++ [(c, id)])) ∧
      (b.flags.getLsbD 0 = false ∨ oor = 0 → lines = [] → kind ≠ .fred → (∀ k ∈ (s4.core c).engine, k.id ≠ id) →
        ∃ t w, issued t w g.work.cnt.cpc ∧ (t.core c).engine = (s4.core c).engine))) ∧
  ∀ (b : Block) (slot : Option SlotRec),
    (b.legal .cpy slot = true ↔ b.arg.toNat ≤ 2 ^ 32) ∧
    (b.legal .cpys slot = true ↔
      (∀ v ∈ [b.src.toNat, b.dst.toNat, bitsOf b.arg 31 0, bitsOf b.ext1 31 0, bitsOf b.ext1 63 32, bitsOf b.ext2 31 0,
        bitsOf b.ext2 63 32, bitsOf b.ext3 31 0, bitsOf b.ext3 63 32], v % 16 = 0) ∧
      (bitsOf b.ext0 17 16 ≠ 0 → bitsOf b.ext0 47 32 ≠ 0)) ∧
    (b.legal .cpyw slot = true ↔
      let pad := 2 * bitsOf b.arg 55 52
      bitsOf b.arg 57 56 ≤ 2 ∧ 1 ≤ bitsOf b.arg 51 48 ∧ 1 ≤ bitsOf b.arg 39 32 ∧ 1 ≤ bitsOf b.arg 47 40 ∧
      bitsOf b.arg 39 32 ≤ bitsOf b.arg 31 16 + pad ∧ bitsOf b.arg 47 40 ≤ bitsOf b.arg 15 0 + pad) ∧
    (∀ kind, kind = .gath ∨ kind = .scat → (b.legal kind slot = true ↔
      1 ≤ bitsOf b.arg 31 0 ∧ bitsOf b.arg 31 0 ≤ 65536 ∧ bitsOf b.arg 63 32 ≤ 65536 ∧ b.ext0.toNat % 4 = 0)) ∧
    (b.legal .cpyob slot = true ↔ bitsOf b.dst 63 6 = 0 ∧ b.src.toNat % 16 = 0 ∧ bitsOf b.arg 31 0 % 16 = 0 ∧
      ∃ r, slot = some r ∧ r.fmt ≠ .acc ∧ (b.flags.getLsbD 1 = true → r.fmt ≠ .bf16)) ∧
    (b.legal .fred slot = true ↔ 1 ≤ bitsOf b.arg 31 0 ∧ bitsOf b.arg 31 0 ≤ 2 ^ 20 ∧ 1 ≤ bitsOf b.ext0 23 16 ∧
      (bitsOf b.arg 35 32 = 0 ∨ bitsOf b.arg 35 32 = 1 ∨ bitsOf b.arg 35 32 = 6))

/-- R250, R251, R252, R265, R267, R281: the register-like accesses of the copy engine, the operand buffer and the tensor monitors.
CPYQ reads the status of one of the context's 64 most recent commands at the engine; OBRES reserves a slot or gives a status 1 to 3;
OBREL frees a slot once no matrix instruction and no CPYOB, at whichever core, names it; TMSET,
TMGET and TM_CLEAR write, read and clear a monitor, which another context's use resets first. Each writes only what is named. -/
def Obligations.UnitRegisters : Prop := ∀ (d a : SReg) (n : Slot) (fmt : SlotFmt) (m : BitVec 4) (item : TmItem) (s : State)
    (g : Group), s.group? s.focus.group = some g →
  let gid := s.focus.group
  let k := s.core g.core
  let id := (g.work.sreg a).extractLsb' 0 16
  let status (oor : Nat) (st : BitVec 2) (flt err : Bool) : DWord :=
    id ++ BitVec.ofNat 16 (min oor 65535) ++ st ++ BitVec.ofBool flt ++ BitVec.ofBool err ++ 0#28
  let reads (i : Instr) (v : DWord) : Prop := ∃ t w, exec i s = .next t ∧ Ran 1 s t gid g w ∧ SRegOnly d v g.work w
  let recent (n : Nat) : Prop := k.engine.countP (fun y => y.ctx == g.ctx && decide (n < y.iseq)) +
    k.status.countP (fun y => y.ctx == g.ctx && decide (n < y.iseq)) < 64
  let mine (x : Cmd) : Bool := x.id == id && x.ctx == g.ctx && decide (recent x.iseq)
  let ended (x : CmdStatus) : Bool := x.id == id && x.ctx == g.ctx
  let start (x : Monitor) (ctx : Nat) : Monitor := if x.ctx = some ctx then x else
    { ctx := some ctx, act := 0, lo := 0xFF800000, hi := 0x7F800000, nan := 0, flag := 0, bins := Vector.replicate 32 0 }
  let set (x : Monitor) (v : Word) : Monitor := match item with
    | .cfg => { x with act := v.extractLsb' 0 2 } | .lo => { x with lo := v } | .hi => { x with hi := v }
    | .nancnt => { x with nan := v } | .flagcnt => { x with flag := v }
    | .clear => { x with nan := 0, flag := 0, bins := Vector.replicate 32 0 }
    | .bin b => { x with bins := x.bins.set b.toNat v b.isLt }
  let get (x : Monitor) : DWord := match item with
    | .cfg => 0#62 ++ x.act | .lo => 0#32 ++ x.lo | .hi => 0#32 ++ x.hi | .nancnt => 0#32 ++ x.nan
    | .flagcnt => 0#32 ++ x.flag | .clear => 0 | .bin b => 0#32 ++ x.bins[b.toNat]'(b.isLt)
  let mon := start (k.mons[m.toNat]'(m.isLt)) g.ctx
  let monIs (x : Monitor) (t : State) (w : Work) : Prop :=
    (t.core g.core).mons = k.mons.set m.toNat x m.isLt ∧
    Ran 1 s (t.updCore g.core ({ · with mons := k.mons })) gid g w
  (∀ x, k.engine.find? mine = some x → reads (.cpyq d a) (status x.oor (if x.running then 2 else 1) x.stalled x.err)) ∧
  (k.engine.find? mine = none → ∀ x, k.status.find? ended = some x → reads (.cpyq d a) (status x.oor 3 x.flt x.err)) ∧
  (k.engine.find? mine = none → k.status.find? ended = none → reads (.cpyq d a) (status 0 0 false false)) ∧
  (∀ T G, Tab.find? s.teams g.team = some T → Tab.find? s.grids T.grid = some G →
    let st : DWord := if g.work.sreg a ≠ 16384 then 3 else if (Tab.find? T.slots n.toNat).isSome then 2
      else if G.packet.obuf / 16384 ≤ T.slots.length then 1 else 0
    ∃ t w, exec (.obres d a n fmt) s = .next t ∧ SRegOnly d st g.work w ∧ Ran 1 s { t with teams := s.teams } gid g w ∧
      (st ≠ 0 → t.teams = s.teams) ∧
      (st = 0 → ∃ T', Tab.find? t.teams g.team = some T' ∧
        Tab.find? T'.slots n.toNat = some { fmt := fmt, data := [], scale := 0x3F800000, tpois := false, rpois := 0 } ∧
        (∀ j, j ≠ n.toNat → Tab.find? T'.slots j = Tab.find? T.slots j) ∧ { T' with slots := T.slots } = T ∧
        ∀ j, j ≠ g.team → Tab.find? t.teams j = Tab.find? s.teams j)) ∧
  (∀ T, Tab.find? s.teams g.team = some T →
    let retired : Prop := (∀ t, SprueItem.token t ∉ g.work.sprue) ∧ g.work.cur0 = none ∧ g.work.cur1 = none
    let unused : Prop := ∀ c ∈ s.cores, (∀ x ∈ c.2.matrix, x.team = g.team → n ∉ x.op.names) ∧
      ∀ x ∈ c.2.engine, ¬ (x.kind = .cpyob ∧ x.team = g.team ∧ x.block.dst.toNat % 64 = n.toNat)
    (¬ (retired ∧ unused) → exec (.obrel n) s = .next s) ∧
    (retired → unused → ∃ t T', exec (.obrel n) s = .next t ∧
      Ran 1 s { t with teams := s.teams } gid g { g.work with pc := g.work.pc + 4 } ∧
      Tab.find? t.teams g.team = some T' ∧ Tab.find? T'.slots n.toNat = none ∧
      (∀ j, j ≠ n.toNat → Tab.find? T'.slots j = Tab.find? T.slots j) ∧ { T' with slots := T.slots } = T)) ∧
  (item = .cfg → (g.work.sreg a).extractLsb' 0 2 = 3 → ArmFaultsAt (.tmset m item a) s g 5 0) ∧
  (item ≠ .cfg ∨ (g.work.sreg a).extractLsb' 0 2 ≠ 3 → ∃ t, exec (.tmset m item a) s = .next t ∧
    monIs (set mon ((g.work.sreg a).extractLsb' 0 32)) t { g.work with pc := g.work.pc + 4 }) ∧
  (∃ t w, exec (.tmget d m item) s = .next t ∧ SRegOnly d (get mon) g.work w ∧ monIs mon t w) ∧
  (∀ core < 320, ∀ ctx, ∃ t, exec (.tmClear core ctx m) s = .next t ∧
    (t.core core).mons = (s.core core).mons.set m.toNat
      { start ((s.core core).mons[m.toNat]'(m.isLt)) ctx with nan := 0, flag := 0, bins := Vector.replicate 32 0 } m.isLt ∧
    { t.core core with mons := (s.core core).mons } = s.core core ∧ (∀ j, j ≠ core → t.core j = s.core j) ∧
    { t with cores := s.cores } = s)

/-- R69, R126, R148, R149, R152, R211, R255, R292, R311: what a lane instruction sees and when it may issue. A source reads a
vector register, a uniform of the token's snapshot, the lane, group or team number or the role (the lane number modulo 16 in
paired mode); a lane is active where the token's mask and the guard's bit say so; the checks pass exactly where the encoding is
legal, every register named lies below the budget, the wait field's counter is at or below its threshold, no unperformed MDRN or
MPOIS will write its destination, and an elastic group holds the registers named. -/
def Obligations.LaneOperandsAndChecks : Prop := ∀ (s : State) (x : LaneCx) (i : Instr) (c : Ctl) (l : Fin 32),
  let named := (laneRegs i).1 ++ (laneRegs i).2
  let legal : Prop := i.wf = true ∧ ∀ r ∈ named, r < x.g.work.budget
  let counterOk : Prop := ∀ k t, c.wait = some (k, t) → x.g.work.cnt.get k ≤ t.toNat
  let mine (m : MatInstr) : Prop := (∃ k ∈ s.cores, m ∈ k.2.matrix) ∧ m.group = x.gid ∧ m.level = x.g.level
  let clear : Prop := (∀ m, mine m → ∀ va sl g n, m.op = .mdrn va sl g n →
      ∀ r ∈ (laneRegs i).2, r < va.val ∨ va.val + 32 ≤ r) ∧
    ∀ m, mine m → ∀ q sl clr, m.op = .mpois q sl clr → laneQ i ≠ some q
  let held : Prop := x.g.work.elastic = true → ∀ r ∈ named, r ∈ x.g.work.cached
  (∀ r, x.src (.v r) = x.g.work.vreg r.val) ∧
  (∀ u : WReg, (x.src (.w u)).val[l] = x.cursor.token.w[u.toNat]'(u.isLt) ∧ (x.src (.w u)).poison = 0) ∧
  (x.src .lane).val[l] = BitVec.ofNat 32 (if x.packet.flags.getLsbD 4 then l.val % 16 else l.val) ∧
  (x.src .group).val[l] = BitVec.ofNat 32 x.g.number ∧ (x.src .team).val[l] = BitVec.ofNat 32 x.index ∧
  (x.src .role).val[l] = BitVec.ofNat 32 x.g.role ∧
  ((x.active c).getLsbD l.val = (x.cursor.token.mask.getLsbD (if x.packet.flags.getLsbD 4 then l.val % 16 else l.val) &&
    match c.guard with
      | none => true
      | some g => (x.g.work.qreg g.q).bits.getLsbD l.val != g.inv)) ∧
  (lanePre s x i c.wait = .illegal ↔ ¬ legal) ∧
  (lanePre s x i c.wait = .go ↔ legal ∧ counterOk ∧ clear ∧ held)

/-- R150, R197, R198, R199, R201, R205, R213, R214, R215: lane floating point. Each instruction computes its exact result from its
modified operands, scales it, rounds it once in its mode and clamps it where CLP is set; VMIN and VMAX select a value; in active
lanes only, with the operands' poison. Under SR exactly the active lanes' generators step, once. The functions give the special values
of R215 in every mode; a reciprocal is exact to the last of its 72 or more bits and says whether more follow, and a floor is the
floor. The minimum, the maximum and the clamp are as R205 and R150 say. -/
def Obligations.LaneFloat : Prop := ∀ (c : Ctl) (d : VReg) (a b e : MSrc) (o : FOpt) (clp : Bool),
  let val (x : LaneCx) (m : MSrc) (l : Fin 32) : Word :=
    let v := (x.src m.src).val[l]
    let v := if m.abs then v &&& 0x7FFFFFFF else v
    if m.neg then v ^^^ 0x80000000 else v
  let num (x : LaneCx) (m : MSrc) (l : Fin 32) : FVal := Fmt.f32.value (val x m l).toNat
  let poison (x : LaneCx) (m : MSrc) : Word := (x.src m.src).poison
  let clampIf (b : Bool) (w : Word) : Word := if b then clamp01 w else w
  let result (v : FVal) (u : Nat) : Word :=
    clampIf o.clp (BitVec.ofNat 32 (Fmt.f32.round o.rm u false (v.scale o.scl.toInt)))
  let rd := o.rm == .rd
  let two (i : Instr) (f : FVal → FVal → FVal) : Prop :=
    LaneRounded i c d o.rm (fun x l u => result (f (num x a l) (num x b l)) u) (fun x => poison x a ||| poison x b)
  let one (i : Instr) (f : FFun) : Prop := LaneRounded i c d o.rm (fun x l u => result (f.apply (num x a l)) u) (poison · a)
  two (.vadd c d a b o) (fun p q => p.add rd q) ∧ two (.vsub c d a b o) (fun p q => p.add rd q.neg) ∧
  two (.vmul c d a b o) (fun p q => p.mul q) ∧
  LaneRounded (.vfma c d a b e o) c d o.rm (fun x l u => result (((num x a l).mul (num x b l)).add rd (num x e l)) u)
    (fun x => poison x a ||| poison x b ||| poison x e) ∧
  one (.vrcp c d a o) .rcp ∧ one (.vrsq c d a o) .rsq ∧ one (.vexp2 c d a o) .exp2 ∧ one (.vlog2 c d a o) .log2 ∧
  one (.vflr c d a o) .flr ∧
  LaneValue (.vmin c d a b clp) c d (fun x l => clampIf clp (f32MinMax true (val x a l) (val x b l)))
    (fun x => poison x a ||| poison x b) ∧
  LaneValue (.vmax c d a b clp) c d (fun x l => clampIf clp (f32MinMax false (val x a l) (val x b l)))
    (fun x => poison x a ||| poison x b) ∧
  (∀ (rm : Rm) (u : Nat),
    let gives (f : FFun) (w r : Word) : Prop := BitVec.ofNat 32 (Fmt.f32.round rm u false (f.apply (Fmt.f32.value w.toNat))) = r
    gives .rcp 0 0x7F800000 ∧ gives .rcp 0x80000000 0xFF800000 ∧ gives .rcp 0x7F800000 0 ∧ gives .rcp 0xFF800000 0x80000000 ∧
    gives .rsq 0 0x7F800000 ∧ gives .rsq 0x80000000 0xFF800000 ∧ gives .rsq 0x7F800000 0 ∧ gives .rsq 0xFF800000 0x7FC00000 ∧
    gives .exp2 0 0x3F800000 ∧ gives .exp2 0x80000000 0x3F800000 ∧ gives .exp2 0x7F800000 0x7F800000 ∧ gives .exp2 0xFF800000 0 ∧
    gives .log2 0 0xFF800000 ∧ gives .log2 0x80000000 0xFF800000 ∧ gives .log2 0x7F800000 0x7F800000 ∧
    gives .log2 0xFF800000 0x7FC00000 ∧ gives .flr 0 0 ∧ gives .flr 0x80000000 0x80000000 ∧
    gives .flr 0x7F800000 0x7F800000 ∧ gives .flr 0xFF800000 0xFF800000 ∧
    ∀ w : Word, (Fmt.f32.value w.toNat = .nan → ∀ f, gives f w 0x7FC00000) ∧
      (∀ y : Exact, Fmt.f32.value w.toNat = .fin y → y.neg = true → y.m ≠ 0 → gives .rsq w 0x7FC00000 ∧ gives .log2 w 0x7FC00000)) ∧
  (∀ y : Exact, y.m ≠ 0 → y.sticky = false → ∃ r, FFun.rcp.apply (.fin y) = .fin r ∧ r.neg = y.neg ∧ r.e = -96 - y.e ∧
    r.m * y.m ≤ 2 ^ 96 ∧ 2 ^ 96 < (r.m + 1) * y.m ∧ (r.sticky = false ↔ r.m * y.m = 2 ^ 96)) ∧
  (∀ y : Exact, y.e < 0 → ∃ n, FFun.flr.apply (.fin y) = .fin ⟨y.neg, n, 0, false⟩ ∧
    (y.neg = false → n * 2 ^ (-y.e).toNat ≤ y.m ∧ y.m < (n + 1) * 2 ^ (-y.e).toNat) ∧
    (y.neg = true → y.m ≤ n * 2 ^ (-y.e).toNat ∧ n * 2 ^ (-y.e).toNat < y.m + 2 ^ (-y.e).toNat)) ∧
  (∀ y : Exact, 0 ≤ y.e → FFun.flr.apply (.fin y) = .fin y) ∧
  ∀ u v : Word,
    (isNan u = true → isNan v = false → f32MinMax true u v = v ∧ f32MinMax false u v = v ∧ f32MinMax true v u = v ∧
      f32MinMax false v u = v) ∧
    (isNan u = true → isNan v = true → f32MinMax true u v = 0x7FC00000 ∧ f32MinMax false u v = 0x7FC00000) ∧
    (f32Lt u v = true ∨ u = 0x80000000 ∧ v = 0 → f32MinMax true u v = u ∧ f32MinMax true v u = u ∧ f32MinMax false u v = v ∧
      f32MinMax false v u = v) ∧
    (isNan u = false → f32MinMax true u u = u ∧ f32MinMax false u u = u) ∧
    (clamp01 u = if isNan u = true ∨ f32Lt u 0 = true ∨ u = 0x80000000 then 0 else if f32Lt 0x3F800000 u = true then 0x3F800000 else u)

/-- R194, R195, R197, R198, R199, R200, R201, R215: rounding, in each of the four formats and every mode. The value of a finite or infinite encoding
rounds to that encoding (a zero keeps its sign), and a NaN to the canonical one. Any other number m·2^e rounds to the grid of the
format at its magnitude, as the first stage of its mode says: to the nearest with ties to even, toward zero, down, up, or by the draw.
Where what comes out is above the largest finite value, the result is that value or the infinity (E4M3: the NaN), as R200's table
says, and otherwise it is that number. An infinity stays one, but for E4M3 and for SAT. A sum and a product are exact, with the zeros,
infinities and NaNs of R197 and R198. A reciprocal root is exact to the last of its bits and says whether more follow. 2^a is a power of
two at a whole number, in the binade of the floor of a elsewhere, and rises with a; log2 a is whole at a power of two, between the whole
numbers of its binade elsewhere, and rises with a; and each of the three gives the correctly rounded value at the listed operands. -/
def Obligations.ExactValuesRoundToThemselves : Prop :=
  (∀ (rd p n : Bool) (x y : Exact), x.sticky = false → y.sticky = false →
    let e := min x.e y.e
    let signed (z : Exact) : Int := if z.neg then -(z.m * 2 ^ (z.e - e).toNat : Nat) else (z.m * 2 ^ (z.e - e).toNat : Nat)
    let v := signed x + signed y
    (v ≠ 0 → FVal.add rd (.fin x) (.fin y) = .fin ⟨decide (v < 0), v.natAbs, e, false⟩) ∧
    (v = 0 → ∃ q, FVal.add rd (.fin x) (.fin y) = .fin ⟨if x.neg = y.neg then x.neg else rd, 0, q, false⟩) ∧
    FVal.add rd (.inf p) (.fin y) = .inf p ∧ FVal.add rd (.fin x) (.inf p) = .inf p ∧
    FVal.add rd (.inf p) (.inf n) = (if p = n then .inf p else .nan) ∧
    FVal.mul (.fin x) (.fin y) = .fin ⟨x.neg != y.neg, x.m * y.m, x.e + y.e, false⟩ ∧
    FVal.mul (.inf p) (.inf n) = .inf (p != n) ∧
    (x.m = 0 → FVal.mul (.inf p) (.fin x) = .nan ∧ FVal.mul (.fin x) (.inf p) = .nan) ∧
    (x.m ≠ 0 → FVal.mul (.inf p) (.fin x) = .inf (p != x.neg) ∧ FVal.mul (.fin x) (.inf p) = .inf (x.neg != p)) ∧
    ∀ z : FVal, FVal.add rd .nan z = .nan ∧ FVal.add rd z .nan = .nan ∧ FVal.mul .nan z = .nan ∧ FVal.mul z .nan = .nan) ∧
  (∀ y : Exact, y.neg = false → y.m ≠ 0 →
    let even : Prop := y.e % 2 = 0
    let m := if even then y.m else 2 * y.m
    ∃ r, FFun.rsq.apply (.fin y) = .fin r ∧ r.neg = false ∧ r.e = -96 - (if even then y.e else y.e - 1) / 2 ∧
      r.m ^ 2 * m ≤ 2 ^ 192 ∧ 2 ^ 192 < (r.m + 1) ^ 2 * m ∧ (r.sticky = false ↔ r.m ^ 2 * m = 2 ^ 192)) ∧
  (∀ y : Exact, y.sticky = false → y.m ≠ 0 → (Nat.log2 y.m : Int) + y.e < 12 →
    let d := (-(min y.e 0)).toNat
    let v : Int := if y.neg then -(y.m * 2 ^ (y.e + d).toNat : Nat) else (y.m * 2 ^ (y.e + d).toNat : Nat)
    (∀ n : Int, v = n * 2 ^ d → FFun.exp2.apply (.fin y) = .fin ⟨false, 1, n, false⟩) ∧
    (∀ n : Int, n * 2 ^ d < v → v < (n + 1) * 2 ^ d → ∃ r, FFun.exp2.apply (.fin y) = .fin ⟨false, r, n - 320, true⟩ ∧
      2 ^ 320 ≤ r ∧ r < 2 ^ 321 ∧ ∀ (k : Nat) (r' : Exact), (v : Int) + k < (n + 1) * 2 ^ d → y.neg = false →
        FFun.exp2.apply (.fin { y with m := (v + k).toNat, e := -d }) = .fin r' → r ≤ r'.m)) ∧
  (∀ y : Exact, y.sticky = false → y.m ≠ 0 → 12 ≤ (Nat.log2 y.m : Int) + y.e → ∃ r, FFun.exp2.apply (.fin y) = .fin r ∧ r.neg = false ∧
    r.m ≠ 0 ∧ (y.neg = false → 4096 ≤ r.e) ∧ (y.neg = true → (Nat.log2 r.m : Int) + r.e ≤ -4096)) ∧
  (∀ y : Exact, y.sticky = false → y.neg = false → y.m ≠ 0 → y.m < 2 ^ 24 →
    let l := Nat.log2 y.m
    let k := (l : Int) + y.e
    (y.m = 2 ^ l → FFun.log2.apply (.fin y) = .fin ⟨decide (k < 0), k.natAbs, 0, false⟩) ∧
    (y.m ≠ 2 ^ l → ∃ r, FFun.log2.apply (.fin y) = .fin r ∧ r.e = -320 ∧ r.sticky = true ∧ r.neg = decide (k < 0) ∧
      (if k < 0 then -k - 1 else k).toNat * 2 ^ 320 ≤ r.m ∧ r.m < ((if k < 0 then -k - 1 else k).toNat + 1) * 2 ^ 320 ∧
      ∀ (m : Nat) (r' : Exact), y.m ≤ m → m < 2 ^ (l + 1) → FFun.log2.apply (.fin { y with m := m }) = .fin r' →
        if k < 0 then r'.m ≤ r.m else r.m ≤ r'.m)) ∧
  (∀ (f : FFun) (w near down up : Word), (f, w, near, down, up) ∈ ([
      (.rsq, 0x40000000, 0x3F3504F3, 0x3F3504F3, 0x3F3504F4), (.rsq, 0x40400000, 0x3F13CD3A, 0x3F13CD3A, 0x3F13CD3B),
      (.rsq, 0x3DCCCCCD, 0x404A62C2, 0x404A62C1, 0x404A62C2), (.rsq, 0x00000001, 0x64B504F3, 0x64B504F3, 0x64B504F4),
      (.rsq, 0x7F7FFFFF, 0x1F800000, 0x1F800000, 0x1F800001),
      (.exp2, 0x3E800000, 0x3F9837F0, 0x3F9837F0, 0x3F9837F1), (.exp2, 0x3F000000, 0x3FB504F3, 0x3FB504F3, 0x3FB504F4),
      (.exp2, 0x3F400000, 0x3FD744FD, 0x3FD744FC, 0x3FD744FD), (.exp2, 0x3DCCCCCD, 0x3F892FDF, 0x3F892FDF, 0x3F892FE0),
      (.exp2, 0xBF000000, 0x3F3504F3, 0x3F3504F3, 0x3F3504F4), (.exp2, 0xC2FE6666, 0x0037B721, 0x0037B721, 0x0037B722),
      (.exp2, 0xC3133333, 0x00000003, 0x00000003, 0x00000004),
      (.log2, 0x3FA00000, 0x3EA4D3C2, 0x3EA4D3C2, 0x3EA4D3C3), (.log2, 0x3FC00000, 0x3F15C01A, 0x3F15C01A, 0x3F15C01B),
      (.log2, 0x3FE00000, 0x3F4EAED0, 0x3F4EAECF, 0x3F4EAED0), (.log2, 0x40400000, 0x3FCAE00D, 0x3FCAE00D, 0x3FCAE00E),
      (.log2, 0x3DCCCCCD, 0xC0549A78, 0xC0549A79, 0xC0549A78), (.log2, 0x3F800001, 0x3438AA3A, 0x3438AA3A, 0x3438AA3B),
      (.log2, 0x00000003, 0xC3136A40, 0xC3136A40, 0xC3136A3F)] : List (FFun × Word × Word × Word × Word)) →
    let gives (rm : Rm) : Word := BitVec.ofNat 32 (Fmt.f32.round rm 0 false (f.apply (Fmt.f32.value w.toNat)))
    gives .rne = near ∧ gives .rd = down ∧ gives .ru = up ∧ gives .rz = if near.msb then up else down) ∧
  (∀ (f : Fmt), f ∈ [Fmt.f32, Fmt.bf16, Fmt.e4m3, Fmt.e5m2] →
    ∀ (n : Nat) (rm : Rm) (u : Nat), n < 2 * 2 ^ (f.eb + f.mb) → u < 2 ^ 16 →
      (f.value n ≠ .nan → f.round rm u false (f.value n) = n) ∧ (f.value n = .nan → f.round rm u false (f.value n) = f.nan)) ∧
  -- a format, its p, its emin, its largest finite value as mMax·2^qMax, and the bits of that, of the infinity, of the NaN and of the sign
  ∀ (f : Fmt) (p : Nat) (emin : Int) (mMax : Nat) (qMax : Int) (top inf nan signBit : Nat),
    (f, p, emin, mMax, qMax, top, inf, nan, signBit) ∈
      [(Fmt.f32, 24, -126, 2 ^ 24 - 1, 104, 0x7F7FFFFF, 0x7F800000, 0x7FC00000, 0x80000000),
       (Fmt.bf16, 8, -126, 2 ^ 8 - 1, 120, 0x7F7F, 0x7F80, 0x7FC0, 0x8000),
       (Fmt.e4m3, 4, -6, 14, 5, 0x7E, 0x7F, 0x7F, 0x80), (Fmt.e5m2, 3, -14, 7, 13, 0x7B, 0x7C, 0x7E, 0x80)] →
    ∀ (neg : Bool) (m : Nat) (e : Int) (rm : Rm) (u : Nat) (sat : Bool), u < 2 ^ 16 →
      let sign := if neg then signBit else 0
      let infinite := if f = Fmt.e4m3 then nan else sign + inf
      let toMax : Prop := sat = true ∨ rm = .rz ∨ rm = .rd ∧ neg = false ∨ rm = .ru ∧ neg = true
      f.round rm u sat .nan = nan ∧ f.round rm u sat (.inf neg) = (if sat then sign + top else infinite) ∧
      f.round rm u sat (.fin ⟨neg, 0, e, false⟩) = sign ∧
      (m ≠ 0 →
        let q : Int := max ((Nat.log2 m : Int) + e) emin - (p - 1)
        let r := f.round rm u sat (.fin ⟨neg, m, e, false⟩)
        ∃ n, (e < q → FirstStage rm u neg m (q - e).toNat n) ∧ (q ≤ e → n = m * 2 ^ (e - q).toNat) ∧
          (inUnits mMax qMax q < inUnits n q qMax → r = if toMax then sign + top else infinite) ∧
          (inUnits n q qMax ≤ inUnits mMax qMax q →
            r / signBit % 2 = (if neg then 1 else 0) ∧ ∃ y, f.value r = .fin y ∧ y.neg = neg ∧ SameReal y.m y.e n q))

/-- R211, R216, R217, R218, R219, R220: lane compares, selects, integers and moves. Each writes its destination in the active
lanes, lane by lane, with the poison of its operands; VSEL passes only the chosen value's. The conditions of VCMP are those of R216
for each of the three types: two F32 numbers compare by sign and magnitude, minus zero equal to plus zero, and a NaN with nothing. -/
def Obligations.LaneIntegersAndMoves : Prop := ∀ (c : Ctl) (d : VReg) (q : QReg) (a b e : Src) (m n : MSrc) (ty : CmpTy)
    (cond : Cond) (imm : Word),
  let p1 (x : LaneCx) : Word := (x.src a).poison
  let p2 (x : LaneCx) : Word := (x.src a).poison ||| (x.src b).poison
  let p3 (x : LaneCx) : Word := (x.src a).poison ||| (x.src b).poison ||| (x.src e).poison
  let two (i : Instr) (f : Word → Word → Word) : Prop :=
    LaneValue i c d (fun x l => f (x.src a).val[l] (x.src b).val[l]) p2
  two (.viadd c d a b) (fun x y => x + y) ∧ two (.visub c d a b) (fun x y => x - y) ∧
  two (.vimul c d a b) (fun x y => BitVec.ofNat 32 (x.toNat * y.toNat)) ∧
  two (.vimulh c d a b) (fun x y => BitVec.ofInt 32 (x.toInt * y.toInt / 2 ^ 32)) ∧
  two (.vimulhn c d a b) (fun x y => BitVec.ofNat 32 (x.toNat * y.toNat / 2 ^ 32)) ∧
  LaneValue (.vimad c d a b e) c d (fun x l => (x.src a).val[l] * (x.src b).val[l] + (x.src e).val[l]) p3 ∧
  two (.vand c d a b) (fun x y => x &&& y) ∧ two (.vor c d a b) (fun x y => x ||| y) ∧ two (.vxor c d a b) (fun x y => x ^^^ y) ∧
  two (.vshl c d a b) (fun x y => x <<< (y.extractLsb' 0 5).toNat) ∧
  two (.vshr c d a b) (fun x y => x >>> (y.extractLsb' 0 5).toNat) ∧
  two (.vsra c d a b) (fun x y => x.sshiftRight (y.extractLsb' 0 5).toNat) ∧
  two (.vimin c d a b) (fun x y => if x.slt y then x else y) ∧ two (.vimax c d a b) (fun x y => if x.slt y then y else x) ∧
  two (.viminn c d a b) (fun x y => if x.ult y then x else y) ∧ two (.vimaxn c d a b) (fun x y => if x.ult y then y else x) ∧
  LaneValue (.vpopc c d a) c d (fun x l => BitVec.ofNat 32 ((List.range 32).countP (x.src a).val[l].getLsbD)) p1 ∧
  LaneValue (.vclz c d a) c d (fun x l => (x.src a).val[l].clz) p1 ∧
  (∀ sx, LaneValue (.vbfe c d a b e sx) c d (fun x l =>
    let w := min ((x.src e).val[l].extractLsb' 0 6).toNat 32
    let f := ((x.src a).val[l] >>> ((x.src b).val[l].extractLsb' 0 5).toNat) &&& BitVec.ofNat 32 (2 ^ w - 1)
    if sx ∧ 0 < w ∧ f.getLsbD (w - 1) then f ||| ~~~(BitVec.ofNat 32 (2 ^ w - 1)) else f) p3) ∧
  LaneValue (.vmov c d a) c d (fun x l => (x.src a).val[l]) p1 ∧ LaneValue (.vmovi c d imm) c d (fun _ _ => imm) (fun _ => 0) ∧
  LaneRuns (.vsel c d a b q) c (fun x act w =>
    let k := x.g.work.qreg q
    VRegIs x act w d.val (fun l => if k.bits.getLsbD l.val then (x.src a).val[l] else (x.src b).val[l])
      (((x.src a).poison &&& k.bits) ||| ((x.src b).poison &&& ~~~k.bits) ||| k.poison ||| x.guardPoison c) ∧
    OnlyV x w [d.val]) ∧
  LaneRuns (.vcmp c q ty cond m n) c (fun x act w =>
    (∀ l : Fin 32, (w.qreg q).bits.getLsbD l.val = if act.getLsbD l.val then
      condOf ty cond ((x.msrc m).val[l]) ((x.msrc n).val[l]) else (x.g.work.qreg q).bits.getLsbD l.val) ∧
    (w.qreg q).poison = ((x.g.work.qreg q).poison &&& ~~~act) |||
      (((x.src m.src).poison ||| (x.src n.src).poison ||| x.guardPoison c) &&& act) ∧
    (∀ r, r ≠ q → w.qreg r = x.g.work.qreg r) ∧
    { w with q := x.g.work.q, cur0 := x.g.work.cur0, cur1 := x.g.work.cur1, cached := x.g.work.cached, used := x.g.work.used } =
      x.g.work) ∧
  (∀ u v : Word,
    let nan (w : Word) : Bool := w.extractLsb' 23 8 == 0xFF && w.extractLsb' 0 23 != 0
    let mag (w : Word) : BitVec 31 := w.extractLsb' 0 31
    let neg (w : Word) : Bool := w.getLsbD 31
    let same : Bool := u == v || (mag u == 0 && mag v == 0)
    let less (u v : Word) : Bool := if neg u then (if neg v then (mag v).ult (mag u) else mag u != 0 || mag v != 0)
      else !neg v && (mag u).ult (mag v)
    (∀ t, t = .i32 ∨ t = .n32 → condOf t .eq u v = (u == v) ∧ condOf t .ne u v = (u != v)) ∧
    condOf .i32 .lt u v = u.slt v ∧ condOf .i32 .le u v = u.sle v ∧ condOf .i32 .gt u v = v.slt u ∧ condOf .i32 .ge u v = v.sle u ∧
    condOf .n32 .lt u v = u.ult v ∧ condOf .n32 .le u v = u.ule v ∧ condOf .n32 .gt u v = v.ult u ∧ condOf .n32 .ge u v = v.ule u ∧
    condOf .f32 .uno u v = (nan u || nan v) ∧ condOf .f32 .ord u v = (!nan u && !nan v) ∧
    condOf .f32 .ne u v = !condOf .f32 .eq u v ∧
    (nan u = true ∨ nan v = true → condOf .f32 .eq u v = false ∧ condOf .f32 .lt u v = false ∧ condOf .f32 .le u v = false ∧
      condOf .f32 .gt u v = false ∧ condOf .f32 .ge u v = false) ∧
    (nan u = false → nan v = false → condOf .f32 .eq u v = same ∧ condOf .f32 .lt u v = less u v ∧
      condOf .f32 .le u v = (less u v || same) ∧ condOf .f32 .gt u v = less v u ∧ condOf .f32 .ge u v = (less v u || same)))

/-- R204, R209, R221, R222, R223: conversions, packing and block scales. VCVT rounds once in the destination's format; VPACK
packs two elements, drawing twice in a lane under SR, first for a; VUNPK takes element i out exactly; VSCLQ writes the block's
scale and its reciprocal in every active lane, poisoned where any element it reads is; in paired mode each half is a block. The scale is
2^e for the least e with A ≤ M·2^e, between −126 and 127. `convert` is each row of R204: exact to FP32, rounded (as the statement of
R199 and R200 says) to another float, rounded and clamped to an integer, and between integers extended, cut or clamped. That SAT leaves
an infinity that goes to FP32, as R204's row says and R200 does not, is the model's reading (log 112). -/
def Obligations.LaneConversions : Prop := ∀ (c : Ctl) (d : VReg) (v : VReg) (a b : Src) (src dst : LTy) (sat h : Bool) (rm : Rm)
    (ty : PTy) (i : BitVec 2) (f8 : F8),
  let lty : LTy := match ty with
    | .bf16 => .bf16 | .e4m3 => .e4m3 | .e5m2 => .e5m2
  LaneRounded (.vcvt c d a src dst sat rm) c d rm (fun x l u => convert src dst sat rm u (x.src a).val[l])
    (fun x => (x.src a).poison) ∧
  (rm ≠ .sr → LaneValue (.vpack c d a b ty h sat rm) c d (fun x l =>
      let p := convert .f32 lty sat rm 0 (x.src a).val[l]
      let q := convert .f32 lty sat rm 0 (x.src b).val[l]
      let old := (x.g.work.vreg d.val).val[l]
      if ty = .bf16 then (q.setWidth 16 ++ p.setWidth 16 : Word)
      else if h then (q.setWidth 8 ++ p.setWidth 8 ++ old.extractLsb' 0 16 : Word)
      else (old.extractLsb' 16 16 ++ q.setWidth 8 ++ p.setWidth 8 : Word))
    (fun x => (x.src a).poison ||| (x.src b).poison ||| (if ty = .bf16 then 0 else (x.g.work.vreg d.val).poison))) ∧
  (LaneRuns (.vpack c d a b ty h sat .sr) c fun x act w =>
    let one (l : Nat) := stepGen x.cursor.token l x.g.work
    let two (l : Nat) := stepGen x.cursor.token l (one l).1
    VRegIs x act w d.val (fun l => packWord ty h (x.g.work.vreg d.val).val[l]
        (convert .f32 lty sat .sr (one l).2 (x.src a).val[l]) (convert .f32 lty sat .sr (two l).2 (x.src b).val[l]))
      ((x.src a).poison ||| (x.src b).poison ||| (if ty = .bf16 then 0 else (x.g.work.vreg d.val).poison) |||
        x.guardPoison c) ∧
    OnlyVGens x w [d.val] ∧
    ∀ l, Tab.find? w.gens l = if l < 32 ∧ act.getLsbD l then Tab.find? (two l).1.gens l else Tab.find? x.g.work.gens l) ∧
  LaneValue (.vunpk c d a ty i) c d (fun x l =>
      let n := if ty = .bf16 then 16 else 8
      convert lty .f32 false .rne 0 ((x.src a).val[l] >>> (n * i.toNat))) (fun x => (x.src a).poison) ∧
  (LaneRuns (.vsclq c d v f8) c fun x act w =>
    let block (l : Nat) : List Nat :=
      (List.range 32).filter fun k => act.getLsbD k && (!x.packet.flags.getLsbD 4 || k / 16 == l / 16)
    let mags (l : Nat) : List Word := (block l).flatMap fun k =>
      (upFrom v.val 4).map fun r => ((x.g.work.vreg r).val.toList[k]?).getD 0 &&& 0x7FFFFFFF
    let top (l : Nat) : Word := (mags l).foldl (fun m v => if m.toNat < v.toNat then v else m) 0
    let s (l : Nat) := blockScale f8 ((mags l).any fun m => decide (0x7F800000 ≤ m.toNat)) (top l)
    let p (l : Fin 32) : Bool := (upFrom v.val 4).any (fun r => (block l.val).any (x.g.work.vreg r).poison.getLsbD) ||
      (x.guardPoison c).getLsbD l.val
    VRegGets x act w d.val (fun l => (s l.val).1) p ∧ VRegGets x act w (d.val + 1) (fun l => (s l.val).2.1) p ∧
      OnlyV x w [d.val, d.val + 1]) ∧
  ((∀ top, blockScale f8 true top = (0x7FC00000, 0x7FC00000, 0)) ∧ blockScale f8 false 0 = (0x3F800000, 0x3F800000, 0)) ∧
  (∀ (top : Word) (y : Exact), Fmt.f32.value top.toNat = .fin y → y.m ≠ 0 →
    let largest : Nat := match f8 with | .e4m3 => 448 | .e5m2 => 57344
    let r := blockScale f8 false top
    let e := r.2.2
    let fits (e : Int) : Prop := inUnits y.m y.e e ≤ inUnits largest e y.e
    let isPower (w : Word) (e : Int) : Prop := ∃ z, Fmt.f32.value w.toNat = .fin z ∧ z.neg = false ∧ SameReal z.m z.e 1 e
    (-126 : Int) ≤ e ∧ e ≤ 127 ∧ (e < 127 → fits e) ∧ (-126 < e → ¬ fits (e - 1)) ∧ isPower r.1 e ∧ isPower r.2.1 (-e)) ∧
  ∀ (u : Nat) (w : Word), u < 2 ^ 16 →
    let fmt (t : LTy) : Option Fmt := match t with
      | .f32 => some Fmt.f32 | .bf16 => some Fmt.bf16 | .e4m3 => some Fmt.e4m3 | .e5m2 => some Fmt.e5m2 | _ => none
    let width (t : LTy) : Nat := match t with
      | .f32 | .i32 | .n32 => 32 | .bf16 | .i16 | .n16 => 16 | _ => 8
    let signed (t : LTy) : Bool := t == .i8 || t == .i16 || t == .i32
    let num (t : LTy) (w : Word) : Int := if signed t then (w.setWidth (width t)).toInt else (w.setWidth (width t)).toNat
    let least (t : LTy) : Int := if signed t then -(2 ^ (width t - 1)) else 0
    let most (t : LTy) : Int := if signed t then 2 ^ (width t - 1) - 1 else 2 ^ width t - 1
    let held (t : LTy) (v : Int) : Word := BitVec.ofInt 32 (max (least t) (min (most t) v))
    let low (t : LTy) (v : Int) : Word := if signed t then (BitVec.ofInt (width t) v).signExtend 32 else (BitVec.ofInt (width t) v).setWidth 32
    let out : Word := convert src dst sat rm u w
    (∀ f, fmt src = some f → dst = .f32 → src ≠ .f32 → match f.value (w.toNat % 2 ^ width src) with
      | .nan => out = 0x7FC00000
      | .inf n => out = if n then 0xFF800000 else 0x7F800000
      | .fin y => ∃ z, Fmt.f32.value out.toNat = .fin z ∧ z.neg = y.neg ∧ SameReal z.m z.e y.m y.e) ∧
    (∀ f g, fmt src = some f → fmt dst = some g → dst ≠ .f32 ∨ src = .f32 →
      out = BitVec.ofNat 32 (g.round rm u sat (f.value (w.toNat % 2 ^ width src)))) ∧
    (∀ f, fmt src = some f → fmt dst = none → match f.value (w.toNat % 2 ^ width src) with
      | .nan => out = 0
      | .inf n => out = BitVec.ofInt 32 (if n then least dst else most dst)
      | .fin y => ∃ n, (0 ≤ y.e → n = y.m * 2 ^ y.e.toNat) ∧ (y.e < 0 → FirstStage rm u y.neg y.m (-y.e).toNat n) ∧
          out = held dst (if y.neg then -n else n)) ∧
    (∀ g, fmt src = none → fmt dst = some g →
      out = BitVec.ofNat 32 (g.round rm u sat (.fin ⟨decide (num src w < 0), (num src w).natAbs, 0, false⟩))) ∧
    (fmt src = none → fmt dst = none →
      out = if signed src = signed dst ∧ width src ≤ width dst then BitVec.ofInt 32 (num src w)
        else if sat then held dst (num src w) else low dst (num src w))

/-- R211, R224, R311: the shuffles. Within its half, each active lane takes the value and the poison of the source lane, or
its own b where the source lies outside; VSHFL also passes the poison of the index. Where the spec leaves room it follows log
43. Those clauses are the model's reading. -/
def Obligations.LaneShuffles : Prop := ∀ (c : Ctl) (d : VReg) (a b : Src) (n : BitVec 5),
  let size (x : LaneCx) : Nat := if x.packet.flags.getLsbD 4 then 16 else 32
  let moves (i : Instr) (source : LaneCx → Nat → Option Nat) (index : LaneCx → Nat → Bool) : Prop :=
    LaneRuns i c fun x act w =>
      VRegGets x act w d.val
        (fun l => match source x l.val with
          | some k => (x.src a).get k
          | none => (x.src b).get l.val)
        (fun l => (match source x l.val with
          | some k => (x.src a).poison.getLsbD k
          | none => (x.src b).poison.getLsbD l.val) || index x l.val || (x.guardPoison c).getLsbD l.val) ∧
      OnlyV x w [d.val]
  moves (.vshfl c d a b) (fun x l => some (l / size x * size x + ((x.src b).get l).toNat % size x))
    (fun x l => (x.src b).poison.getLsbD l) ∧
  moves (.vshup c d a b n) (fun x l => if n.toNat ≤ l % size x then some (l - n.toNat) else none) (fun _ _ => false) ∧
  moves (.vshdn c d a b n) (fun x l => if l % size x + n.toNat < size x then some (l + n.toNat) else none)
    (fun _ _ => false) ∧
  moves (.vshxr c d a n) (fun x l => some (l / size x * size x + ((l % size x) ^^^ n.toNat) % size x)) (fun _ _ => false)

/-- R206, R207, R208, R225, R226, R227, R228, R311: scans, reductions and ballots. VRED writes the tree's result of each half
in its active lanes, drawing from the lowest active lane under each node; VSCAN writes the inclusive scan (its value is stated for
every mode but SR); VREDS and VBAL push one entry, wait while the return queue is full, and raise instead of pushing: POISON where an
active lane is poisoned, else PAIR where a lane is active in one half only or the halves differ. That the POISON of every lane comes
before PAIR is the model's choice (log 34), and that each poisoned lane has a record (log 17). Those clauses are the model's reading. -/
def Obligations.LaneReductions : Prop := ∀ (c : Ctl) (d : VReg) (a : Src) (q : QReg) (op : ScanOp) (ty : CmpTy) (rm : Rm),
  let exact : Prop := rm ≠ .sr ∨ ¬ (op = .add ∧ ty = .f32)
  let levels (x : LaneCx) : Nat := if x.packet.flags.getLsbD 4 then 4 else 5
  let base (x : LaneCx) (l : Nat) : Nat := l / 2 ^ levels x * 2 ^ levels x
  let leaf (x : LaneCx) (l : Nat) : Option Word := if (x.active c).getLsbD l then some ((x.src a).get l) else none
  let tree (x : LaneCx) (l : Nat) : Option Word :=
    (treeOf (fun m n => combine op ty rm (if rm = .sr then drawNo x.cursor.token m n x.g.work else 0)) (leaf x) (levels x)
      (base x l)).map fun r => r.2.2
  let seen (x : LaneCx) (l : Nat) (m : Word) : Bool :=
    (List.range 32).any fun k => base x k == base x l && (x.active c).getLsbD k && m.getLsbD k
  let pushes (i : Instr) (ok : LaneCx → Prop) (bad : LaneCx → List Nat) (v : LaneCx → Word) (keeps : Prop) : Prop :=
    ∀ s x, laneAt s = some x → lanePre s x i c.wait = .go →
      let uneven := (List.range 16).filter fun l => (x.active c).getLsbD l != (x.active c).getLsbD (l + 16)
      (8 ≤ x.g.work.retq.length → exec i s = .next s) ∧
      (x.g.work.retq.length < 8 → bad x ≠ [] →
        exec i s = .next (laneFault (afterLane s x) x ((bad x).map fun l => (l, ⟨8, 0, 0, 0⟩)))) ∧
      (x.g.work.retq.length < 8 → bad x = [] → x.packet.flags.getLsbD 4 = true → uneven ≠ [] ∨ ¬ ok x →
        ∃ fs, fs ≠ [] ∧ (∀ f ∈ fs, f.2.cls = 9 ∧ f.1 < 16) ∧ exec i s = .next (laneFault (afterLane s x) x fs)) ∧
      (x.g.work.retq.length < 8 → bad x = [] → (x.packet.flags.getLsbD 4 = true → uneven = [] ∧ ok x) →
        ∃ t w, exec i s = .next t ∧ t.nextSeq = s.nextSeq + 1 ∧ Ran 2 s { t with nextSeq := s.nextSeq } x.gid x.g w ∧
          Advanced x w ∧ w.retq = x.g.work.retq ++ [⟨s.nextSeq, x.cursor.token.seq, v x⟩] ∧
          { w with retq := x.g.work.retq, gens := x.g.work.gens, cur0 := x.g.work.cur0, cur1 := x.g.work.cur1
                   cached := x.g.work.cached, used := x.g.work.used } = x.g.work ∧ (keeps → w.gens = x.g.work.gens))
  LaneRuns (.vred c d a op ty rm) c (fun x act w =>
    VRegGets x act w d.val (fun l => (tree x l.val).getD 0)
      (fun l => seen x l.val (x.src a).poison || (x.guardPoison c).getLsbD l.val) ∧
    OnlyVGens x w [d.val] ∧ (exact → w.gens = x.g.work.gens)) ∧
  LaneRuns (.vscan c d a op ty rm) c (fun x act w =>
    (∃ v, VRegGets x act w d.val v (fun l => (List.range 32).any (fun k => base x k == base x l.val && decide (k ≤ l.val) &&
        act.getLsbD k && (x.src a).poison.getLsbD k) || (x.guardPoison c).getLsbD l.val) ∧
      (exact → ∀ l : Fin 32, act.getLsbD l.val → some (v l) = scanOf (combine op ty rm 0) (leaf x) (base x l.val) 5 l.val)) ∧
    OnlyVGens x w [d.val] ∧ (exact → w.gens = x.g.work.gens)) ∧
  pushes (.vreds c a op ty rm) (fun x => (tree x 0).getD (identity op ty) = (tree x 16).getD (identity op ty))
    (fun x => (List.range 32).filter fun l => (x.active c).getLsbD l && ((x.src a).poison.getLsbD l || (x.guardPoison c).getLsbD l))
    (fun x => (tree x 0).getD (identity op ty)) exact ∧
  pushes (.vbal c q)
    (fun x => ∀ l < 16, (x.active c &&& (x.g.work.qreg q).bits).getLsbD l = (x.active c &&& (x.g.work.qreg q).bits).getLsbD (l + 16))
    (fun x => (List.range 32).filter fun l =>
      (x.active c).getLsbD l && ((x.g.work.qreg q).poison.getLsbD l || (x.guardPoison c).getLsbD l))
    (fun x => x.active c &&& (x.g.work.qreg q).bits &&& (if x.packet.flags.getLsbD 4 then 0xFFFF else 0xFFFFFFFF)) True ∧
  (∀ v w : Word, combine .add .i32 rm 0 v w = v + w ∧ combine .min .i32 rm 0 v w = (if w.slt v then w else v) ∧
    combine .max .n32 rm 0 v w = (if v.ult w then w else v) ∧ combine .and ty rm 0 v w = v &&& w ∧
    combine .or ty rm 0 v w = v ||| w ∧ combine .xor ty rm 0 v w = v ^^^ w ∧
    combine .min .f32 rm 0 v w = f32MinMax true v w ∧
    ∀ u, combine .add .f32 rm u v w = BitVec.ofNat 32 (Fmt.f32.round rm u false
      ((Fmt.f32.value v.toNat).add (rm == .rd) (Fmt.f32.value w.toNat)))) ∧
  (identity .add ty = 0 ∧ identity .or ty = 0 ∧ identity .xor ty = 0 ∧ identity .min .f32 = 0x7FC00000 ∧
    identity .max .f32 = 0x7FC00000 ∧ identity .min .i32 = 0x7FFFFFFF ∧ identity .max .i32 = 0x80000000 ∧
    identity .min .n32 = 0xFFFFFFFF ∧ identity .max .n32 = 0 ∧ (ty ≠ .f32 → identity .and ty = 0xFFFFFFFF))

/-- R127, R129, R229, R232: VTOPK puts the candidate into each active lane's list above the first entry it ranks above, taking
out a lower-scored entry of the same index first, and leaves the list of a NaN, of an empty index and of an index held with no
lower score; LEND starts the next trip, or retires the token after the last; VNOP only moves on. Where the spec leaves room it
follows logs 30 and 31. Those clauses are the model's reading. -/
def Obligations.TopKAndTrips : Prop := ∀ (c : Ctl) (d : VReg) (a b : Src) (k : BitVec 4) (wait : Option (Counter × BitVec 2)),
  let n := k.toNat + 1
  (LaneRuns (.vtopk c d a b k) c fun x act w => OnlyV x w (upFrom d.val (2 * n)) ∧ ∀ l : Fin 32,
    let list (w : Work) : List (Word × Word) :=
      (List.range n).map fun j => ((w.vreg (d.val + j)).get l.val, (w.vreg (d.val + n + j)).get l.val)
    let cand : Word × Word := ((x.src a).get l.val, (x.src b).get l.val)
    let above (p q : Word × Word) : Bool := f32Lt q.1 p.1 || (f32Eq p.1 q.1 && p.2.ult q.2)
    let put (e : List (Word × Word)) : List (Word × Word) :=
      (e.takeWhile (fun y => !above cand y) ++ cand :: e.dropWhile (fun y => !above cand y)).take n
    let old := list x.g.work
    list w =
      if !act.getLsbD l.val || isNan cand.1 || cand.2 == 0xFFFFFFFF then old
      else match old.findIdx? (fun y => y.2 == cand.2) with
        | none => put old
        | some j => if f32Lt ((old[j]?).getD (0, 0)).1 cand.1 then put (old.eraseIdx j ++ [(0xFF800000, 0xFFFFFFFF)])
          else old) ∧
  (∀ s x, laneAt s = some x → ∃ t w, exec .lend s = .next t ∧ Ran 2 s t x.gid x.g w ∧
    w.cursor x.cur = (if x.cursor.trips = 1 then none else x.cursor.start.map fun p =>
      { x.cursor with trips := x.cursor.trips - 1, pc := p, wrote := [] }) ∧
    w.cursor (!x.cur) = x.g.work.cursor (!x.cur) ∧ { w with cur0 := x.g.work.cur0, cur1 := x.g.work.cur1 } = x.g.work) ∧
  LaneRuns (.vnop wait) ⟨none, wait⟩ fun x _ w =>
    { w with cur0 := x.g.work.cur0, cur1 := x.g.work.cur1, cached := x.g.work.cached, used := x.g.work.used } = x.g.work

/-- R11, R15, R21, R22, R23, R26, R233, R235, R244: the checks of one access, in order: poison, alignment, the canonical form of
the address, the translation (by a usable TLB entry without a walk; the entry is then the latest used), the leaf's permission, the scopes and uses of its class;
the address of a lane; and the checks of a scratchpad access. -/
def Obligations.AccessChecks : Prop := ∀ (core ctx : Nat) (k : Check) (va : DWord) (s : State) (x : LaneCx) (m : MemOp)
    (am : AtomMem) (l : Fin 32),
  let aligned : Prop := va.toNat % k.align = 0
  let gives (p : Bool) (r : Except XFault Xlat) (s' : State) : Prop := checkLane core ctx k p va s = .ok r s'
  let denied (leaf : DWord) : Bool := match k.right with
    | .load => false
    | .store => !leaf.getLsbD 1
    | .fetch => !leaf.getLsbD 2
  let wrong (c : CClass) : Bool := (match c, k.scope with
    | _, none => false
    | .non, some sc => sc == .dev || sc == .sys
    | .dev, some sc => sc == .sys
    | .sys, some _ => false) || (k.ro && c == .sys) || (k.lock && c != .dev)
  let pair (p : BitVec 3) : DWord := (x.cursor.token.w[2 * p.toNat + 1]?.getD 0) ++ (x.cursor.token.w[2 * p.toNat]?.getD 0)
  gives true (.error ⟨8, 0, va, 0⟩) s ∧
  (¬ aligned → gives false (.error ⟨4, 0, va, 0⟩) s) ∧
  (aligned → 2 ^ 57 ≤ va.toNat → gives false (.error ⟨1, 3, va, 0⟩) s) ∧
  (∀ t, va.toNat < 2 ^ 57 → (s.core core).tlb.find? (fun t => t.ctx == ctx && t.gen == (s.ctx ctx).gen && t.covers va &&
      (leaseServes (s.core core).pts t.lease || s.pkg.clock == .stopped)) = some t →
    translate core ctx va s = .ok (.ok ⟨bitsOf t.leaf 51 16 * 65536 + va.toNat % (if t.big then 2 ^ 21 else 2 ^ 16), t.leaf,
      (leafClass t.leaf).getD .non, (s.core core).pts⟩)
      (s.updCore core fun k => { k with tlb := t :: k.tlb.erase t })) ∧
  (aligned → ∀ f s1, translate core ctx va s = .ok (.error f) s1 → gives false (.error f) s1) ∧
  (aligned → ∀ r s1, translate core ctx va s = .ok (.ok r) s1 →
    gives false (if denied r.leaf then .error ⟨2, 0, va, r.leaf⟩ else if wrong r.cls then .error ⟨3, 0, va, r.leaf⟩ else .ok r) s1) ∧
  x.memAddr m l.val = pair m.pair + ((x.src m.va).val[l]).setWidth 64 + m.off.signExtend 64 ∧
  x.atomAddr am l.val = pair am.pair + ((x.src am.va).val[l]).setWidth 64 + am.off.signExtend 64 ∧
  ∀ (sc : Scope) (n : Nat) (poison : Word) (addr : Nat → Int), 0 < n →
    scratchLane x sc n poison addr l.val =
      if poison.getLsbD l.val then .error ⟨8, 0, 0, 0⟩
      else if addr l.val % n ≠ 0 then .error ⟨4, 0, 0, 0⟩
      else if addr l.val < 0 ∨ x.packet.scratch < addr l.val + n then .error ⟨2, 1, 0, BitVec.ofInt 64 (addr l.val)⟩
      else if sc = .dev ∨ sc = .sys then .error ⟨3, 0, 0, 0⟩ else .ok ⟨l.val, 0, ⟨(addr l.val).toNat, 0, .dev, 0⟩⟩

/-- R17, R18, R19, R20, R22, R23, R24, R25, R42, R60, R82: a walk. At each level it makes a lease-renewing read of the entry's line
with its pts (which may wait) and takes the entry: poisoned, not valid, a well-formed leaf, a malformed one, or a table to go on with;
the lease is the earliest end of those read. A miss of a context with a group on the core that no entry serves comes to the walker of
the core's die while that has room, at most 64 walks; misses of a die for one leaf entry in one context are merged. TLB_RENEW serves
its own core and every core merged with it, with the largest pts among them: each JUMPs to the latest wts read and takes the leaf into
its TLB with its lease, context and generation, the least recently used of the set giving way (8 ways of 128 sets, or 64 of the 2 MiB
TLB), and the misses it has served are over. A walk that fails installs nothing. -/
def Obligations.PageWalk : Prop := ∀ (c ctx : Nat) (va : DWord) (s : State),
  (∀ (e : DWord) (level : Nat), leafWellFormed e level = true ↔
    bitsOf e 15 8 = 0 ∧ (level = 0 → e.getLsbD 7 = false) ∧ (level = 1 → bitsOf e 20 16 = 0) ∧
    match bitsOf e 4 3, region (bitsOf e 51 16 * 65536) with
    | 0, r => r = .local_ ∨ ∃ f, r = .peer f
    | 1, r => r = .local_
    | 2, r => r ≠ .reserved
    | _, _ => False) ∧
  (∀ (e : DWord) (level : Nat), descWellFormed e level = true ↔
    bitsOf e 7 1 = 0 ∧ (2 ≤ level → bitsOf e 11 8 = 0) ∧ region (bitsOf e 51 8 * 256) = .local_ ∧
      bitsOf e 51 8 * 256 % 2 ^ 38 < Config.holdBase) ∧
  (∀ pts level rest table lease w wts rts s1,
    let pa := table + 8 * (if level = 0 then bitsOf va 20 16 else bitsOf va (9 * level + 20) (9 * level + 12))
    s.place pa = .here → readHomeAt c pts (pa / 128) s = .ok (wts, rts) s1 →
    let e := s1.entryAt pa
    let w1 := some (match w with
      | none => wts
      | some t => serialMax t wts)
    let leaf : Prop := level = 0 ∨ level = 1 ∧ e.getLsbD 7 = true
    let ends (r : Except XFault Leaf) : Prop := walkLevels c pts va (level :: rest) table lease w s = .ok (r, w1) s1
    (pa / 32 ∈ s1.poison → ends (.error ⟨8, 0, va, BitVec.ofNat 64 (pa / 32 * 32)⟩)) ∧
    (pa / 32 ∉ s1.poison →
      (e.getLsbD 0 = false → ends (.error ⟨1, if level ≤ 1 ∧ e = 0 then 1 else 0, va, e⟩)) ∧
      (e.getLsbD 0 = true → leaf → leafWellFormed e level = true → ends (.ok ⟨e, level, serialMin lease rts, pa⟩)) ∧
      (e.getLsbD 0 = true → leaf → leafWellFormed e level = false → ends (.error ⟨1, 2, va, e⟩)) ∧
      (e.getLsbD 0 = true → ¬ leaf → descWellFormed e level = false → ends (.error ⟨1, 2, va, e⟩)) ∧
      (e.getLsbD 0 = true → ¬ leaf → descWellFormed e level = true →
        walkLevels c pts va (level :: rest) table lease w s =
          walkLevels c pts va rest (bitsOf e 51 8 * 256) (serialMin lease rts) w1 s1))) ∧
  let here : Prop := ∃ g ∈ Tab.vals s.groups, g.present = true ∧ g.core = c ∧ g.ctx = ctx
  let merged := s.walks.filter fun w => w.core / 40 == c / 40 && w.ctx == ctx && s.leafEntry ctx w.va == s.leafEntry ctx va
  let room : Prop := merged ≠ [] ∨ s.walking (c / 40) < 64
  let usable (t : TlbEntry) : Bool := t.ctx == ctx && t.gen == (s.ctx ctx).gen && t.covers va &&
    (leaseServes (s.core c).pts t.lease || s.pkg.clock == .stopped)
  (here → va.toNat < 2 ^ 57 → (s.core c).tlb.find? usable = none → room → (∀ w ∈ merged, w.core ≠ c) →
    takeMove s (postMiss c ctx va) =
      { s with walks := s.walks ++ [{ core := c, ctx := ctx, va := va, pts := (s.core c).pts }] }) ∧
  (merged = [] ∧ ¬ here ∨ ¬ room ∨ 2 ^ 57 ≤ va.toNat → Waits (.tlbRenew c ctx va) s) ∧
  (merged ≠ [] ∨ here → room → va.toNat < 2 ^ 57 →
    let cores := dedup (c :: merged.map (·.core))
    let pts := merged.foldl (fun t x => serialMax t x.pts) (s.core c).pts
    let unserved (l : List Walk) : List Walk := l.filter fun x => !merged.contains x
    (∀ l w s1 s2, walk c ctx pts va (s.event c ctx 6) = .ok (.ok l, some w) s1 → each cores (jump · w) s1 = .ok () s2 →
      let size := if l.level = 1 then 2 ^ 21 else 2 ^ 16
      let e : TlbEntry := ⟨ctx, (s2.ctx ctx).gen, va.toNat / size * size, l.level == 1, l.entry, l.lease⟩
      let rival (o : TlbEntry) : Bool := o.big == e.big && (e.big || o.page / 65536 % 128 == e.page / 65536 % 128)
      ∃ t, exec (.tlbRenew c ctx va) s = .next t ∧
        (∀ k ∈ cores, (t.core k).tlb = e :: keepWays rival ((if e.big then 64 else 8) - 1)
            ((s2.core k).tlb.filter fun o => !(o.ctx == ctx && o.big == e.big && o.page == e.page)) ∧
          { t.core k with tlb := (s2.core k).tlb } = s2.core k) ∧
        (∀ k, k ∉ cores → t.core k = s2.core k) ∧ t.walks = unserved s2.walks ∧
        { t with cores := s2.cores, walks := s2.walks } = s2) ∧
    (∀ f w s1, walk c ctx pts va (s.event c ctx 6) = .ok (.error f, w) s1 →
      (merged = [] → exec (.tlbRenew c ctx va) s = .next s) ∧
      ∀ s2, (match w with
          | none => s2 = s1
          | some t => each cores (jump · t) s1 = .ok () s2) → merged ≠ [] →
        exec (.tlbRenew c ctx va) s = .next { s2 with walks := unserved s2.walks }))

/-- R69, R70, R90, R110, R233, R234, R235, R236, R241, R242, R244, R245: lane loads, stores and atomics at issue. Once the
counter has room and no older acquire of the stream is in flight, and every access passes its checks, the instruction appends
one entry for each line in ascending order (one without bytes where no lane is active) with each lane's address and data,
raises its counter, and writes no register; the faults of the lanes that fail are raised and nothing is appended. Where the
spec leaves room it follows logs 24, 25, 34 and 35. Those clauses are the model's reading. -/
def Obligations.LaneMemoryIssue : Prop := ∀ (c : Ctl) (d : VReg) (m : MemOp) (sm : ScrOp) (am : AtomMem) (v : Src) (sz : Size)
    (sx : Bool) (sc : Scope) (od : Order) (op : AtomOp) (s : State) (x : LaneCx), laneAt s = some x →
  let act := x.active c
  let s0 := afterLane s x
  let gp := x.guardPoison c
  let mine (k : Counter) (scope : Scope) (iseq : Nat) (a : Access) : Prop :=
    a.iseq = iseq ∧ a.stream = .lane ∧ a.key = x.cursor.token.seq ∧ a.level = x.g.level ∧ a.scope = scope ∧
      a.counter = some k ∧ a.pair = x.packet.flags.getLsbD 4 ∧ a.pc = x.cursor.pc
  let ready (k : Counter) : Prop := x.g.work.cnt.get k < 63 ∧
    ∀ a : Access, (a ∈ x.g.loads.map (·.acc) ∨ a ∈ x.g.stores.map (·.acc)) → a.level = x.g.level → a.stream = .lane →
      a.key ≤ x.cursor.token.seq → a.order ≠ .acq ∧ a.order ≠ .ar
  let adds (i : Instr) (k : Counter) (checks : M (List LaneAcc))
      (good : List (List LaneAcc) → Nat → List LoadEntry → List StoreEntry → Prop) : Prop := lanePre s x i c.wait = .go →
    (¬ ready k → exec i s = .next s) ∧
    (ready k → ∀ s1, checks s0 = .error .wait s1 → exec i s = .next s) ∧
    (ready k → ∀ fs s1, checks s0 = .error (.faults fs) s1 → exec i s = .next (laneFault s1 x fs)) ∧
    (ready k → ∀ l s1, checks s0 = .ok l s1 → s1.groups = s0.groups → ∃ t w es fs, exec i s = .next t ∧
      t.group? x.gid = some { x.g with loads := x.g.loads ++ es, stores := x.g.stores ++ fs, work := w
                                       sched := { x.g.sched with issuedAt := s.now } } ∧
      good (if l = [] then [[]] else (byLine l).map (·.2)) s1.nextSeq es fs ∧
      (∀ e ∈ es, e.acc.order = od ∨ i = .vldro c d m sz sx) ∧ (∀ e ∈ fs, e.acc.order = od) ∧
      w.cnt = x.g.work.cnt.upd k (· + 1) ∧ Advanced x w ∧
      { w with cnt := x.g.work.cnt, cur0 := x.g.work.cur0, cur1 := x.g.work.cur1, cached := x.g.work.cached, used := x.g.work.used } = x.g.work ∧
      (∀ j, j ≠ x.gid → t.group? j = s.group? j) ∧ { t with groups := s1.groups, nextSeq := s1.nextSeq } = s1)
  let loads (kind : LoadKind) (scope : Scope) (ls : List (List LaneAcc)) (n : Nat) (es : List LoadEntry) (fs : List StoreEntry) :
      Prop := fs = [] ∧ (∀ e ∈ es, mine .ldc scope n e.acc ∧ e.kind = kind ∧ e.dest = .vreg d.val sx) ∧
    es.map (·.elems) = ls.map fun as => as.map fun a => ⟨a.lane, a.va, a.x.pa, sz.bytes, gp.getLsbD a.lane⟩
  let stores (k : Counter) (kind : StoreKind) (scope : Scope) (elem : LaneAcc → SElem) (ls : List (List LaneAcc)) (n : Nat)
      (es : List LoadEntry) (fs : List StoreEntry) : Prop :=
    es = [] ∧ (∀ e ∈ fs, mine k scope n e.acc ∧ e.kind = kind) ∧ fs.map (·.elems) = ls.map (·.map elem)
  let vals := if sz = .d ∨ sz = .q then (srcBlock v sz.regs).map x.g.work.vreg else [x.src v]
  let bytes (l : Nat) : List Byte := (vals.flatMap fun r => leBytesOf 4 (r.get l).toNat).take sz.bytes
  let dataPoison := vals.foldl (fun p r => p ||| r.poison) 0
  let old : VVal := if op = .cas then x.g.work.vreg d.val else VVal.zero
  adds (.vld c d m sz sx sc od) .ldc
    (laneAccesses x act ⟨.load, some sc, sz.bytes, false, false⟩ (x.src m.va).poison (x.memAddr m) fun _ => [])
    (loads .load sc) ∧
  adds (.vldro c d m sz sx) .ldc
    (laneAccesses x act ⟨.load, none, sz.bytes, true, false⟩ (x.src m.va).poison (x.memAddr m) fun _ => [])
    (loads .readOnly .core) ∧
  adds (.vsld c d sm sz sx sc od) .ldc
    (scratchAccesses x act sc sz.bytes (x.src sm.va).poison (x.scratchAddr sm) fun _ => []) (loads .scratch .core) ∧
  adds (.vst c m v sz sc od) .stc
    (laneAccesses x act ⟨.store, some sc, sz.bytes, false, false⟩ ((x.src m.va).poison ||| dataPoison) (x.memAddr m)
      fun l => vals.map (·.get l))
    (stores .stc .store sc fun a => ⟨a.lane, a.va, a.x.pa, bytes a.lane, 0, 0, false⟩) ∧
  adds (.vsst c sm v sz sc od) .stc
    (scratchAccesses x act sc sz.bytes ((x.src sm.va).poison ||| dataPoison) (x.scratchAddr sm) fun l => vals.map (·.get l))
    (stores .stc .scratch .core fun a => ⟨a.lane, 0, a.x.pa, bytes a.lane, 0, 0, false⟩) ∧
  adds (.vatom c d am v op sc od) .ldc
    (laneAccesses x act ⟨.store, some sc, 4, false, false⟩ ((x.src am.va).poison ||| (x.src v).poison ||| old.poison)
      (x.atomAddr am) fun l => [(x.src v).get l, old.get l])
    (stores .ldc (.atomic op 4 (some (.vreg d.val false))) sc fun a =>
      ⟨a.lane, a.va, a.x.pa, [], ((x.src v).get a.lane).setWidth 64, (old.get a.lane).setWidth 64, gp.getLsbD a.lane⟩) ∧
  adds (.vredm c am v op sc od) .stc
    (laneAccesses x act ⟨.store, some sc, 4, false, false⟩ ((x.src am.va).poison ||| (x.src v).poison)
      (x.atomAddr am) fun l => [(x.src v).get l, 0])
    (stores .stc (.atomic op 4 none) sc fun a =>
      ⟨a.lane, a.va, a.x.pa, [], ((x.src v).get a.lane).setWidth 64, 0, gp.getLsbD a.lane⟩)

/-- R69, R158, R234, R235, R243: VPF waits only for an older acquire, reads no register but its address, raises no fault and
counts on no counter. With no line to fetch it only moves on; a line is brought in as a lease renewal at device scope, or as a
load of its scope would, and no register changes. Like every lane instruction it waits or raises ILLEGAL where the checks say
so. Where the spec leaves room it follows log 26. Those clauses are the model's reading. -/
def Obligations.Prefetch : Prop := ∀ (c : Ctl) (m : MemOp) (sc : Scope) (s : State) (x : LaneCx), laneAt s = some x →
  let i : Instr := .vpf c m sc
  let s0 := afterLane s x
  let free : Prop := ∀ a : Access, (a ∈ x.g.loads.map (·.acc) ∨ a ∈ x.g.stores.map (·.acc)) → a.level = x.g.level →
    a.stream = .lane → a.key ≤ x.cursor.token.seq → a.order ≠ .acq ∧ a.order ≠ .ar
  let lines := prefetchLines x sc (x.src m.va).poison (x.memAddr m) ((List.range 32).filter (x.active c).getLsbD) []
  let fetch (l : Nat × CClass) : M Unit := if sc = .dev ∧ l.2 = .dev then discard (renew x.g.core x.g.ctx l.1)
    else discard (readL1 x.g.core x.g.ctx l.1 sc l.2)
  let ends (s2 t : State) : Prop := ∃ w, t.group? x.gid = some { x.g with work := w, sched := { x.g.sched with issuedAt := s.now } } ∧
    Advanced x w ∧ { w with cur0 := x.g.work.cur0, cur1 := x.g.work.cur1, cached := x.g.work.cached, used := x.g.work.used } = x.g.work ∧
    (∀ j, j ≠ x.gid → t.group? j = s.group? j) ∧ { t with groups := s2.groups } = s2
  (lanePre s x i c.wait = .illegal → exec i s = .next (laneIllegal s x)) ∧
  (lanePre s x i c.wait = .wait ∨ lanePre s x i c.wait = .go ∧ ¬ free → exec i s = .next s) ∧
  (lanePre s x i c.wait = .go → free →
    (∀ s1, lines s0 = .ok [] s1 → s1.groups = s0.groups → ∃ t, exec i s = .next t ∧ ends s1 t) ∧
    (∀ l s1 s2, lines s0 = .ok [l] s1 → fetch l s1 = .ok () s2 → s2.groups = s0.groups → ∃ t, exec i s = .next t ∧ ends s2 t) ∧
    (x.active c &&& ~~~(x.src m.va).poison = 0 → ∃ t w, exec i s = .next t ∧ Ran 2 s t x.gid x.g w ∧ Advanced x w)) ∧
  (∀ l s1, x.active c = 1#32 <<< l → l < 32 → (x.src m.va).poison.getLsbD l = false →
    (∀ f, accessAt x.g.core x.g.ctx (x.memAddr m l) .load (some sc) false false s0 = .ok (.error f) s1 → lines s0 = .ok [] s1) ∧
    ∀ t, accessAt x.g.core x.g.ctx (x.memAddr m l) .load (some sc) false false s0 = .ok (.ok t) s1 → t.cls ≠ .sys →
      s1.place t.pa = .here → lines s0 = .ok [(t.pa / 128, t.cls)] s1)

/-- R69, R112, R113, R114, R115, R116, R117, R118: LKL and ULK at issue, from a group that is present and not suspended. An LKL names the
distinct lines of its active lanes. It writes SELF where the group holds one of them, QUOTA where the context's quota does not
suffice, and else joins the queue of its lowest line with its quota taken; while an earlier request is in progress it waits
behind it. With no active lane it takes nothing. A ULK waits for the group's lock requests, raises PERMISSION for a lane whose
line the group does not hold, and else enqueues one unlock entry for each line. Where the spec leaves room it follows logs 15,
16 and 25. Those clauses are the model's reading. -/
def Obligations.LockIssue : Prop := ∀ (c : Ctl) (d : VReg) (m : MemOp) (limit : Option WReg) (s : State) (x : LaneCx),
  laneAt s = some x → x.g.present = true → x.g.hold ≠ .suspended →
  let act := x.active c
  let s0 := afterLane s x
  let addr := x.memAddr m
  let poison := (x.src m.va).poison
  let lanesOf (l : Nat) : List Nat := if x.packet.flags.getLsbD 4 then [l, l + 16] else [l]
  let ready (k : Counter) : Prop := x.g.work.cnt.get k < 63 ∧
    ∀ a : Access, (a ∈ x.g.loads.map (·.acc) ∨ a ∈ x.g.stores.map (·.acc)) → a.level = x.g.level → a.stream = .lane →
      a.key ≤ x.cursor.token.seq → a.order ≠ .acq ∧ a.order ≠ .ar
  let time : Option Nat := limit.bind fun r =>
    let v := x.cursor.token.w[r.toNat]'(r.isLt)
    if v = 0xFFFFFFFF then none else some v.toNat
  (lanePre s x (.lkl c d m limit) c.wait = .go →
    let i : Instr := .lkl c d m limit
    let checks := laneAccesses x act ⟨.store, some .dev, 1, false, true⟩ poison addr fun _ => []
    (¬ ready .lkc → exec i s = .next s) ∧
    (ready .lkc → ∀ fs s1, checks s0 = .error (.faults fs) s1 → exec i s = .next (laneFault s1 x fs)) ∧
    (ready .lkc → ∀ l s1, checks s0 = .ok l s1 → s1.groups = s0.groups → (∀ e ∈ x.g.loads, e.acc.iseq < s1.nextSeq) →
      let lines := (byLine l).map (·.1)
      let lanes := l.flatMap fun a => lanesOf a.lane
      let held : Prop := ∃ h ∈ x.g.locks, h.line ∈ lines
      let tooMany : Prop := (s1.ctx x.g.ctx).quota < (s1.ctx x.g.ctx).used + lines.length
      let status (v : Word) : Prop := ∃ t w, exec i s = .next t ∧
        t.group? x.gid = some { x.g with work := w, sched := { x.g.sched with issuedAt := s.now } } ∧
        (∀ k : Fin 32, (w.vreg d.val).val[k] = if k.val ∈ lanes then v else (x.g.work.vreg d.val).val[k]) ∧
        (∀ r, r ≠ d.val → w.vreg r = x.g.work.vreg r) ∧ w.cnt = x.g.work.cnt ∧ (∃ wrote, w.cursor x.cur =
          some { x.cursor with pc := x.cursor.pc + 12, wrote := wrote }) ∧ t.ctxs = s1.ctxs ∧ t.homes = s1.homes
      let joins (joined : Bool) (t : State) : Prop := ∃ w e q, exec i s = .next t ∧
        t.group? x.gid = some { x.g with loads := x.g.loads ++ [e], requests := x.g.requests ++ [q], work := w
                                         sched := { x.g.sched with issuedAt := s.now } } ∧
        e.kind = .lock ∧ e.elems = [] ∧ e.acc.iseq = q.iseq ∧ e.acc.counter = some .lkc ∧
        q.iseq = s1.nextSeq ∧ q.dest = d.val ∧ q.lines = lines ∧ q.taken = 0 ∧ q.joined = joined ∧ q.limit = time ∧
        q.orphan = false ∧ q.failed = none ∧ q.ticks = 0 ∧ q.lanes.map (·.lane) = lanes ∧
        w.cnt = { x.g.work.cnt with lkc := x.g.work.cnt.lkc + 1 } ∧ Advanced x w ∧
        { w with cnt := x.g.work.cnt, cur0 := x.g.work.cur0, cur1 := x.g.work.cur1, cached := x.g.work.cached, used := x.g.work.used } = x.g.work
      (l = [] → ∃ t w e, exec i s = .next t ∧
        t.group? x.gid = some { x.g with loads := x.g.loads ++ [e], work := w, sched := { x.g.sched with issuedAt := s.now } } ∧
        e.elems = [] ∧ e.kind = .load ∧ e.acc.counter = some .lkc ∧ w.cnt = { x.g.work.cnt with lkc := x.g.work.cnt.lkc + 1 } ∧
        Advanced x w ∧ t.ctxs = s1.ctxs ∧ t.homes = s1.homes) ∧
      (l ≠ [] → x.g.requests = [] → held → status 1) ∧
      (l ≠ [] → x.g.requests = [] → ¬ held → tooMany → status 2) ∧
      (l ≠ [] → x.g.requests = [] → ¬ held → ¬ tooMany → x.g.ctx < 16 → ∀ first rest, lines = first :: rest →
        s1.place (first * 128) = .here → s1.homeRoom first = true → time ≠ some 0 → ∃ t, joins true t ∧
          t.ctx x.g.ctx = { s1.ctx x.g.ctx with used := (s1.ctx x.g.ctx).used + lines.length } ∧
          (∀ k, k ≠ x.g.ctx → t.ctx k = s1.ctx k) ∧ (t.home first).queue = (s1.home first).queue ++ [x.gid] ∧
          ∀ n, n ≠ first → t.home n = s1.home n) ∧
      (l ≠ [] → (∃ r ∈ x.g.requests, r.joined = true) → ∃ t, joins false t ∧ t.ctxs = s1.ctxs ∧ t.homes = s1.homes))) ∧
  (lanePre s x (.ulk c m) c.wait = .go →
    let i : Instr := .ulk c m
    let checks : M (List LaneAcc) := eachLane (fun l => do
      match pairedFault x act poison (fun l => addrWords (addr l)) addr l with
      | some f => pure (.error f)
      | none => match ← checkLane x.g.core x.g.ctx ⟨.store, some .dev, 1, false, false⟩ (poison.getLsbD l) (addr l) with
        | .error f => pure (.error f)
        | .ok t =>
          if x.g.locks.any (·.line == t.pa / 128) then pure (.ok ⟨l, addr l, t⟩)
          else pure (.error ⟨2, 3, addr l, 0⟩)) (x.accessLanes act) [] []
    (¬ (ready .stc ∧ x.g.requests = []) → exec i s = .next s) ∧
    (ready .stc → x.g.requests = [] → ∀ fs s1, checks s0 = .error (.faults fs) s1 → exec i s = .next (laneFault s1 x fs)) ∧
    (ready .stc → x.g.requests = [] → ∀ l s1, checks s0 = .ok l s1 → s1.groups = s0.groups → ∃ t w fs, exec i s = .next t ∧
      t.group? x.gid = some { x.g with stores := x.g.stores ++ fs, work := w, sched := { x.g.sched with issuedAt := s.now } } ∧
      (∀ e ∈ fs, e.kind = .unlock ∧ e.acc.order = .rel ∧ e.acc.scope = .dev ∧
        e.acc.counter = some .stc ∧ e.acc.iseq = s1.nextSeq) ∧
      fs.filterMap (·.line?) = (byLine l).map (·.1) ∧ w.cnt = { x.g.work.cnt with stc := x.g.work.cnt.stc + 1 } ∧ Advanced x w ∧
      { w with cnt := x.g.work.cnt, cur0 := x.g.work.cur0, cur1 := x.g.work.cur1, cached := x.g.work.cached, used := x.g.work.used } = x.g.work ∧
      { t with groups := s1.groups, nextSeq := s1.nextSeq } = s1))

/-- R83, R114, R116, R117, R118, R119, R122: the lock moves. GRANT gives a free line to its first present waiter, whose core
owns it pinned; the last line of a request writes GRANT, or ORPHAN where a mark was met, and another makes it join the next
line's queue. A suspended group is absent, and a request whose time has run out is not granted. RELEASE-LOCK frees a held line
after the release conditions. LOCK_TIMEOUT fails the request whose time has run out, and writes its status once the group is
present; such a request waits no longer, so that no cycle of the probe runs through it. The probe comes every 4,096 cycles and fails
the youngest request of a cycle, with a record that counts in no entry unless its group is on its way to one or in a handler. Where the spec leaves room it follows
logs 19, 20, 21, 22, 97, 98 and 103. Those clauses are the model's reading. -/
def Obligations.LockMoves : Prop := ∀ (s : State) (gid : Nat) (g : Group), s.group? gid = some g → g.ctx < 16 →
  let statusIs (q : LockReq) (v : Word) (t : State) (rest : List LoadEntry) (locks : List HeldLine) : Prop :=
    q.level = g.level → g.work.elastic = false → ∃ w,
    t.group? gid = some { g with work := w, requests := [], loads := rest, locks := locks } ∧
    (∀ k : Fin 32, (w.vreg q.dest).val[k] = if ∃ l ∈ q.lanes, l.lane = k.val then v else (g.work.vreg q.dest).val[k]) ∧
    (∀ r, r ≠ q.dest → w.vreg r = g.work.vreg r) ∧
    { w with v := g.work.v } = { g.work with cnt := { g.work.cnt with lkc := g.work.cnt.lkc - 1 } }
  let unjoin (q : LockReq) : List LoadEntry := g.loads.filter (·.acc.iseq != q.iseq)
  let here : Prop := g.present = true ∧ g.hold ≠ .suspended
  let waiter (line : Nat) : Option Nat :=
    (s.home line).queue.find? fun i => (s.group? i).any fun g => g.present && g.hold != .suspended
  let inTime (q : LockReq) : Prop := ∀ n, q.limit = some n → n = 0 ∨ q.ticks < n
  (∀ line q w s1 s2, here → (s.home line).holder = none →
    waiter line = some gid → g.requests = [q] → q.joined = true → inTime q →
    q.failed = none → q.lines[q.taken]? = some line →
    pinLine g.core line s = .ok w s1 → jump g.core w s1 = .ok () s2 → s2.groups = s.groups →
    (q.taken + 1 = q.lines.length ∨ (∃ next, q.lines[q.taken + 1]? = some next ∧ next ≠ line ∧ s.place (next * 128) = .here ∧
      s2.homeRoom next = true) ∧ q.limit ≠ some 0) → ∃ t, exec (.grant line) s = .next t ∧
      let marked := q.orphan || (s2.home line).orphan
      (t.home line).holder = some gid ∧ (t.home line).queue = (s2.home line).queue.filter (· != gid) ∧
      (t.home line).orphan = false ∧ t.core g.core = (s2.core g.core).count g.ctx 8 1 ∧ t.ctxs = s2.ctxs ∧ t.mem = s2.mem ∧
      (q.taken + 1 = q.lines.length → statusIs q (if marked then 5 else 0) t (unjoin q) (g.locks ++ [⟨line, true⟩])) ∧
      (∀ next, q.lines[q.taken + 1]? = some next →
        t.group? gid = some { g with locks := g.locks ++ [⟨line, true⟩]
                                     requests := [{ q with taken := q.taken + 1, orphan := marked }] } ∧
        (t.home next).queue = (s2.home next).queue ++ [gid])) ∧
  (∀ line, (s.home line).holder ≠ none ∨ waiter line = none → exec (.grant line) s = .next s) ∧
  (∀ line q, waiter line = some gid → g.requests = [q] → q.joined = true → q.failed = none →
    q.lines[q.taken]? = some line → ¬ inTime q → exec (.grant line) s = .next s) ∧
  (∀ st e line s1 s2, g.present = true → headOf (·.acc) g st g.stores = some e → e.kind = .unlock → e.line? = some line →
    releaseM g e.acc s = .ok () s1 → (∀ x ∈ e.elems, s1.place x.pa = .here) → (∃ h ∈ g.locks, h.line = line) →
    freeLine g line false s1 = .ok () s2 → s2.groups = s.groups → ∃ t, exec (.releaseLock gid st) s = .next t ∧
      (t.home line).holder = none ∧ (t.home line).orphan = false ∧
      t.ctx g.ctx = { s2.ctx g.ctx with used := (s2.ctx g.ctx).used - 1 } ∧ t.mem = s2.mem ∧
      ∃ g', t.group? gid = some g' ∧ g'.locks = g.locks.filter (·.line != line) ∧
        g'.stores = g.stores.filter (·.acc.seq != e.acc.seq) ∧ g'.loads = g.loads ∧ g'.requests = g.requests ∧
        (e.acc.counter = some .stc → e.acc.level = g.level →
          { g'.work with cnt := g.work.cnt } = g.work ∧
          g'.work.cnt = if (∃ l ∈ g.loads, l.acc.iseq = e.acc.iseq) ∨ ∃ x ∈ g'.stores, x.acc.iseq = e.acc.iseq then g.work.cnt
            else { g.work.cnt with stc := g.work.cnt.stc - 1 })) ∧
  (∀ st e line s1, g.present = true → headOf (·.acc) g st g.stores = some e → e.kind = .unlock → e.line? = some line →
    releaseM g e.acc s = .ok () s1 → (∀ x ∈ e.elems, s1.place x.pa = .here) → (∀ h ∈ g.locks, h.line ≠ line) →
    s1.groups = s.groups → ∃ t g', exec (.releaseLock gid st) s = .next t ∧ t.group? gid = some g' ∧ g'.locks = g.locks ∧
      g'.stores = g.stores.filter (·.acc.seq != e.acc.seq) ∧ t.ctxs = s1.ctxs ∧ t.homes = s1.homes ∧ t.mem = s1.mem) ∧
  (∀ q n, g.requests = [q] → q.limit = some n → 0 < n → n ≤ q.ticks → q.failed = none → q.joined = true → q.taken = 0 →
    ∃ t, exec (.lockTimeout gid) s = .next t ∧
      (here → statusIs q 3 t (unjoin q) g.locks) ∧
      (¬ here → t.group? gid = some { g with requests := [{ q with lines := [], failed := some 3 }] }) ∧
      t.ctx g.ctx = { s.ctx g.ctx with used := (s.ctx g.ctx).used - q.lines.length } ∧
      ∀ l ∈ q.lines, gid ∉ (t.home l).queue) ∧
  (∀ q v, here → g.requests = [q] → q.failed = some v → ∃ t, exec (.lockTimeout gid) s = .next t ∧
    statusIs q (BitVec.ofNat 32 v) t (unjoin q) g.locks ∧ { t with groups := s.groups } = s) ∧
  ((∀ q ∈ g.requests, q.failed = none ∧ inTime q) → exec (.lockTimeout gid) s = .next s) ∧
  (s.now < s.probedAt + 4096 → exec .deadlockProbe s = .next s) ∧
  (s.probedAt + 4096 ≤ s.now → (∀ i ∈ Tab.keys s.groups, s.waiting i = none ∨ s.chain i 8 i [] = none) →
    exec .deadlockProbe s = .next { s with probedAt := s.now }) ∧
  (∀ cycle v q line, s.chain gid 8 gid [] = some cycle → (v, q) ∈ cycle →
    (∀ p ∈ cycle, p.2.seq ≤ s.nextSeq ∧ (p = (v, q) ∨ p.2.seq < q.seq)) → q.waitsOn = some line →
    probe gid s = (do
      failReq v q 4
      modGroup v fun g => { g with faults := g.faults ++ [deadlockRec g q line] }
      modify (vectorNow 1 v)
      joinMore v) s ∧
    ∀ x : Group, (deadlockRec x q line).cls = 13 ∧ (deadlockRec x q line).aux = BitVec.ofNat 64 (line * 128) ∧
      (deadlockRec x q line).src = 4 ∧ (deadlockRec x q line).nest = (q.level != 0) ∧
      ((deadlockRec x q line).alone = true ↔ x.handler = none ∧ x.hold ≠ .vectoring)) ∧
  (∀ q n, g.requests = [q] → q.limit = some n → 0 < n → n ≤ q.ticks → s.waiting gid = none ∧
    ∀ fuel acc start, s.chain start (fuel + 1) gid acc = none)

/-- R69, R70, R135, R166, R183, R184, R230, R231, R233, R282, R326: launches from the device and doorbells. Where the queue, bound
to the group's context, has room for all entries they are appended together in order and the status is 0; else nothing is
appended and it is 1. LAUNCH waits until every earlier token and access is done and makes its checks before its load. VLAUNCH at
issue checks every active lane, the queue's binding last, raises LDC and makes the loads of its images, one line an entry; the
last of them to perform appends the entries in ascending lane order and writes the status in the active lanes. A doorbell's TAIL
reveals the entries of the ring below it, whatever the state of the queue's context. Where the spec leaves room it follows logs 25, 60,
61, 63, for a queue rebound before the append 119, and, for the record with VA
0 and AUX 0 of a queue of another context, 76. Those clauses are the model's reading. -/
def Obligations.DeviceLaunch : Prop := ∀ (s : State),
  let entry (b : List Byte) (device : Bool) (slot : Option Nat) : QEntry :=
    { image := b, device := device, checked := false, depMet := false, depTime := none, eligibleAt := 0, grid := none, unread := slot }
  let room (s : State) (q n : Nat) : Prop := (s.queue q).entries.length + n ≤ 2 ^ (s.queue q).c ∧
    ∃ c, (s.queue q).ctx = some c ∧ (s.ctx c).state = .open
  let appends (old t : State) (q : Nat) (new : List QEntry) : Prop :=
    t.queue q = { old.queue q with entries := (old.queue q).entries ++ new, tail := (old.queue q).tail + new.length } ∧
      ∀ j, j ≠ q → t.queue j = old.queue j
  let launched (old t : State) (q : Nat) (images : List (List Byte)) : Prop :=
    (room old q images.length → appends old t q (images.map fun b => entry b true none)) ∧
    (¬ room old q images.length → t.queues = old.queues)
  let unbound : XFault := ⟨2, 4, 0, 0⟩
  (∀ d a b g, s.group? s.focus.group = some g →
    let i : Instr := .launch d a b
    let va := g.work.sreg a
    let q := (g.work.sreg b).toNat % 64
    let faults (s1 : State) (f : XFault) : Prop := exec i s = .next (takeMove s1 (raise s.focus.group g.level
      [⟨f.va, f.aux, g.work.pc, BitVec.ofNat 32 s.focus.word, 0, 0, false, f.cls, f.sub, false, 0, false⟩]))
    let done : Prop := (∀ t, SprueItem.token t ∉ g.work.sprue) ∧ g.work.cur0 = none ∧ g.work.cur1 = none ∧
      (∀ e ∈ g.loads, e.acc.level ≠ g.level) ∧ ∀ e ∈ g.stores, e.acc.level ≠ g.level
    let check := accessAt g.core g.ctx va .load (some .dev) false false (issuing s)
    (va.toNat % 128 ≠ 0 → faults (issuing s) ⟨4, 0, va, 0⟩) ∧
    (va.toNat % 128 = 0 → ¬ done → exec i s = .next s) ∧
    (va.toNat % 128 = 0 → done → ∀ f s1, check = .ok (.error f) s1 → faults s1 f) ∧
    (va.toNat % 128 = 0 → done → ∀ x s1, check = .ok (.ok x) s1 → (s1.queue q).ctx ≠ some g.ctx → faults s1 unbound) ∧
    (va.toNat % 128 = 0 → done → ∀ x s1 s2 image s3, check = .ok (.ok x) s1 → (s1.queue q).ctx = some g.ctx →
      releaseCore g.core s1 = .ok () s2 → groupLoad g va 128 128 s2 = .ok image s3 → (s3.queue q).ctx = some g.ctx →
      s3.groups = (issuing s).groups → ∃ t w, exec i s = .next t ∧
        t.group? s.focus.group = some { g with work := w, sched := { g.sched with issuedAt := s.now } } ∧
        SRegOnly d (@ite DWord (room s3 q 1) (Classical.propDecidable _) 0 1) g.work w ∧ launched s3 t q [image] ∧
        (∀ j, j ≠ s.focus.group → t.group? j = s.group? j) ∧ { t with groups := s3.groups, queues := s3.queues } = s3)) ∧
  (∀ c d m wq x, laneAt s = some x → lanePre s x (.vlaunch c d m wq) c.wait = .go →
    let i : Instr := .vlaunch c d m wq
    let q := (x.cursor.token.w[wq.toNat]'(wq.isLt)).toNat % 64
    let s0 := afterLane s x
    let act := x.active c
    let gp := x.guardPoison c
    let ready : Prop := x.g.work.cnt.ldc < 63 ∧ ∀ a : Access, (a ∈ x.g.loads.map (·.acc) ∨ a ∈ x.g.stores.map (·.acc)) →
      a.level = x.g.level → a.stream = .lane → a.key ≤ x.cursor.token.seq → a.order ≠ .acq ∧ a.order ≠ .ar
    let checks := laneChecked x act ⟨.load, some .dev, 128, false, false⟩ (x.src m.va).poison (x.memAddr m) (fun _ => [])
      fun s _ => if (s.queue q).ctx = some x.g.ctx then none else some unbound
    (¬ ready → exec i s = .next s) ∧
    (ready → ∀ s1, checks s0 = .error .wait s1 → exec i s = .next s) ∧
    (ready → ∀ fs s1, checks s0 = .error (.faults fs) s1 → exec i s = .next (laneFault s1 x fs)) ∧
    (ready → ∀ l s1, checks s0 = .ok l s1 → s1.groups = s0.groups → ∃ t w es, exec i s = .next t ∧
      t.group? x.gid = some { x.g with
        loads := x.g.loads ++ es, work := w, sched := { x.g.sched with issuedAt := s.now }
        launches := x.g.launches ++ [{ iseq := s1.nextSeq, queue := q, images := [], dest := d.val, act, gp }] } ∧
      (∀ e ∈ es, e.kind = .launch ∧ e.acc.iseq = s1.nextSeq ∧ e.acc.stream = .lane ∧ e.acc.scope = .dev ∧ e.acc.order = .rlx ∧
        e.acc.counter = some .ldc ∧ e.acc.level = x.g.level) ∧
      es.map (·.elems) = (if l = [] then [[]] else (byLine l).map (·.2)).map (·.map fun a =>
        ⟨a.lane, a.va, a.x.pa, 128, gp.getLsbD a.lane⟩) ∧
      w.cnt = { x.g.work.cnt with ldc := x.g.work.cnt.ldc + 1 } ∧ Advanced x w ∧
      { w with cnt := x.g.work.cnt, cur0 := x.g.work.cur0, cur1 := x.g.work.cur1, cached := x.g.work.cached, used := x.g.work.used } = x.g.work ∧
      (∀ j, j ≠ x.gid → t.group? j = s.group? j) ∧ { t with groups := s1.groups, nextSeq := s1.nextSeq } = s1)) ∧
  (∀ gid g e p, s.group? gid = some g → g.launches = [p] → e.acc.iseq = p.iseq → (∀ l ∈ g.loads, l.acc.iseq ≠ p.iseq) →
    p.act ≠ 0 → e.acc.level = g.level → g.work.elastic = false → (s.queue p.queue).ctx = some g.ctx →
    let images := (sortNat (p.images.map (·.1))).filterMap fun l => (p.images.find? (·.1 == l)).map (·.2)
    ∃ t w, finishLaunch gid e s = .ok () t ∧ t.group? gid = some { g with launches := [], work := w } ∧
      launched s t p.queue images ∧
      (∀ l : Fin 32, (w.vreg p.dest).val[l] = if p.act.getLsbD l.val then
        @ite Word (room s p.queue images.length) (Classical.propDecidable _) 0 1 else (g.work.vreg p.dest).val[l]) ∧
      (w.vreg p.dest).poison = ((g.work.vreg p.dest).poison &&& ~~~p.act) ||| (p.gp &&& p.act) ∧
      (∀ r, r ≠ p.dest → w.vreg r = g.work.vreg r) ∧ { w with v := g.work.v } = g.work ∧
      { t with groups := s.groups, queues := s.queues } = s) ∧
  ∀ q (tail : BitVec 32), s.pkg.power ≠ .off → q < 64 →
    let x := s.queue q
    let n := min (tail - BitVec.ofNat 32 x.tail).toNat (2 ^ x.c - x.entries.length)
    ∃ t, exec (.doorbell q tail) s = .next t ∧
      appends s t q ((List.range n).map fun i => entry [] false (some ((x.tail + i) % 2 ^ x.c))) ∧ { t with queues := s.queues } = s

/-- R71, R127, R128, R130, R131, R132, R296, R305: what the cursors take from the Sprue in a group that may issue. A cursor takes
the first token before any marker (with a fork open, the first of its arm) and starts at the block its table entry names; a
token without trips retires; a fault of the table read is raised against the token, which the cursor keeps, and ERRLOG takes the physical address of an error
response. A marker at the
head is taken once both cursors are idle: a fork marker opens its fork, a join marker closes the innermost. The masks of the
fork that another opens in go to the group's record in the save area and come back at the join; where that access fails, the
group ends as the operation on the record says. Where the spec leaves room it follows logs 7, 32 and, for a token without
trips, 104. Those clauses are the model's reading. -/
def Obligations.CursorMoves : Prop := ∀ (gid : Nat) (cur : Bool) (s : State) (g : Group), s.runnable gid = some g →
  let tokens := g.work.sprue.takeWhile fun i => match i with
    | .token _ => true
    | _ => false
  let next : Option Token := (tokens.filterMap fun i => match i with
    | .token t => if g.work.lForks = [] then (if cur then none else some t)
        else if t.arm = (if cur then .a1 else .a0) then some t else none
    | _ => none).head?
  let only (w : Work) : Work := { w with sprue := g.work.sprue, cur0 := g.work.cur0, cur1 := g.work.cur1 }
  let runs (i : Instr) (s' : State) (P : Work → Prop) : Prop := ∃ t w, exec i s = .next t ∧
    t.group? gid = some { g with work := w } ∧ (∀ j, j ≠ gid → t.group? j = s'.group? j) ∧ { t with groups := s'.groups } = s' ∧ P w
  let idle : Prop := g.work.cur0 = none ∧ g.work.cur1 = none
  (∀ t, g.work.cursor cur = none → next = some t → t.trips = 0 → runs (.tokenTake gid cur) s fun w =>
    w.sprue = g.work.sprue.filter (fun i => match i with
      | .token u => u.seq != t.seq
      | _ => true) ∧ { w with sprue := g.work.sprue } = g.work) ∧
  (∀ t T G, g.work.cursor cur = none → next = some t → t.trips ≠ 0 → Tab.find? s.teams g.team = some T →
    Tab.find? s.grids T.grid = some G →
    let va := G.packet.table + 8 * t.block.setWidth 64
    let taken (c : Cursor) (w : Work) : Prop := w.cursor cur = some c ∧ w.cursor (!cur) = g.work.cursor (!cur) ∧
      w.sprue = g.work.sprue.filter (fun i => match i with
        | .token u => u.seq != t.seq
        | _ => true) ∧ only w = g.work
    ∀ s1, s1 = s.updWork gid g.level (fun w => (w.dropToken t.seq).setCursor cur
        (some { token := t, trips := t.trips, start := none, pc := 0, wrote := [] })) →
      (∀ v s2, readEntry g va s1 = .ok (.ok v) s2 → s2.groups = s1.groups → runs (.tokenTake gid cur) s2
        (taken { token := t, trips := t.trips, start := some v, pc := v, wrote := [] })) ∧
      (∀ f s2 s3, readEntry g va s1 = .ok (.error f) s2 → raiseLogged gid g.level
          [⟨f.va, t.block.setWidth 64, va, 0, if cur then 2 else 1, 0, false, f.cls, f.sub, false, 0, false⟩]
          (if f.cls = 11 then [f.aux.toNat] else []) s2 = .ok () s3 →
        exec (.tokenTake gid cur) s = .next s3)) ∧
  (g.work.cursor cur = none → next = none → exec (.tokenTake gid cur) s = .next s) ∧
  (∀ c, g.work.cursor cur = some c → c.start ≠ none → exec (.tokenTake gid cur) s = .next s) ∧
  (∀ c T G v s2, g.work.cursor cur = some c → c.start = none → Tab.find? s.teams g.team = some T →
    Tab.find? s.grids T.grid = some G → readEntry g (G.packet.table + 8 * c.token.block.setWidth 64) s = .ok (.ok v) s2 →
    s2.groups = s.groups → runs (.tokenTake gid cur) s2 fun w =>
      w.cursor cur = some { c with start := some v, pc := if c.pc = 0 then v else c.pc } ∧
      w.cursor (!cur) = g.work.cursor (!cur) ∧ only w = g.work ∧ w.sprue = g.work.sprue) ∧
  let slot (depth : Nat) : Nat := 0x6000 + 16 * ((if g.handler = none then 0 else 32) + depth)
  (∀ a b rest, g.work.sprue = .forkMark a b :: rest → idle →
    let i : Instr := .forkMarkerTake gid
    let opened (w : Work) : Prop :=
      w.sprue = rest ∧ w.lForks = (a, b) :: g.work.lForks ∧ { w with sprue := g.work.sprue, lForks := g.work.lForks } = g.work
    (g.work.lForks = [] → runs i s opened) ∧
    ∀ f outer, g.work.lForks = f :: outer →
      let save := recordStore gid (slot outer.length) (leBytesOf 8 f.1.toNat ++ leBytesOf 8 f.2.toNat) s
      (∀ s2, save = .ok true s2 → s2.groups = s.groups → runs i s2 opened) ∧
      (∀ s2, save = .ok false s2 → exec i s = .next s2) ∧ ∀ e s2, save = .error e s2 → exec i s = .next s) ∧
  (¬ (idle ∧ ∃ a b rest, g.work.sprue = .forkMark a b :: rest) → exec (.forkMarkerTake gid) s = .next s) ∧
  (∀ rest, g.work.sprue = .joinMark :: rest → idle →
    let i : Instr := .joinMarkerTake gid
    let closed (w : Work) : Prop :=
      w.sprue = rest ∧ w.lForks = g.work.lForks.tail ∧ { w with sprue := g.work.sprue, lForks := g.work.lForks } = g.work
    (g.work.lForks.length ≤ 1 → runs i s closed) ∧
    ∀ f o outer, g.work.lForks = f :: o :: outer →
      let back := recordLoad gid (slot outer.length) 16 s
      (∀ bs s2, back = .ok (some bs) s2 → s2.groups = s.groups → runs i s2 closed) ∧
      (∀ s2, back = .ok none s2 → exec i s = .next s2) ∧ ∀ e s2, back = .error e s2 → exec i s = .next s) ∧
  (¬ (idle ∧ ∃ rest, g.work.sprue = .joinMark :: rest) → exec (.joinMarkerTake gid) s = .next s)

/-- R158, R253, R255, R257, R260, R261, R262, R263, R264: the matrix instructions at issue. Where every slot named is reserved
with a format the instruction takes, the instruction reads its registers (or the latch), raises its counter and joins the
core's matrix unit behind the CPYOBs now filling its slots, at whichever core they were issued; otherwise it raises ILLEGAL, as
does a full latch of another operand or kind. With no active lane only a filling with RU changes the latch. MDST also makes its
checks and its store-queue entries, with no bytes yet. A full counter makes it wait.
Where the spec leaves room it follows log 73. Those clauses are the model's reading. -/
def Obligations.MatrixIssue : Prop := ∀ (c : Ctl) (d b sl : Slot) (a : VReg) (v : Src) (ty : F8) (ru clr bf16 : Bool) (g : BitVec 2)
    (n : BitVec 4) (q : QReg) (m : MemOp) (sc : Scope) (od : Order) (s : State) (x : LaneCx) (T : Team),
  laneAt s = some x → Tab.find? s.teams x.g.team = some T →
  let s0 := afterLane s x
  let k := s.core x.g.core
  let fmt (n : Slot) : Option SlotFmt := (Tab.find? T.slots n.toNat).map (·.fmt)
  let fills (s : State) (names : List Slot) : List (Nat × BitVec 16) := names.flatMap fun n => s.cores.flatMap fun p =>
    (p.2.engine.filter fun e => e.kind == .cpyob && e.team == x.g.team && e.block.dst.toNat % 64 == n.toNat).map fun e => (p.1, e.id)
  let sent (s : State) (mi : MatInstr) (iseq : Nat) (op : MatOp) (names : List Slot) : Prop :=
    mi = { seq := mi.seq, iseq := iseq, group := x.gid, level := x.g.level, team := x.g.team, mask := x.active c
           gp := x.guardPoison c, pair := x.packet.flags.getLsbD 4, op := op, pc := x.cursor.pc, word := s.focus.word / 2 ^ 64
           cur := x.cur, after := fills s names }
  let runs (i : Instr) (op : MatOp) (names : List Slot) (latch : Option Latch) : Prop := ∃ t w mi, exec i s = .next t ∧
    (t.core x.g.core).matrix = k.matrix ++ [mi] ∧ sent s mi s.nextSeq op names ∧ mi.seq = s.nextSeq + 1 ∧ t.nextSeq = s.nextSeq + 2 ∧
    Ran 2 s ({ t with nextSeq := s.nextSeq }.updCore x.g.core ({ · with matrix := k.matrix })) x.gid x.g w ∧ Advanced x w ∧
    w.latch = latch ∧ { w with latch := x.g.work.latch, cnt := x.g.work.cnt, cur0 := x.g.work.cur0, cur1 := x.g.work.cur1
                               cached := x.g.work.cached, used := x.g.work.used } = x.g.work ∧
    w.cnt = { x.g.work.cnt with mxc := x.g.work.cnt.mxc + 1 }
  let stops (i : Instr) : Prop := exec i s = .next (laneIllegal s0 x)
  let issues (i : Instr) (ok : Prop) (P : Prop) : Prop := lanePre s x i c.wait = .go →
    (63 ≤ x.g.work.cnt.mxc → exec i s = .next s) ∧ (x.g.work.cnt.mxc < 63 → ¬ ok → stops i) ∧ (x.g.work.cnt.mxc < 63 → ok → P)
  let multiply (i : Instr) (kind : Option F8) : Prop :=
    (x.g.work.latch = none → runs i (.mma d b kind ((upFrom a.val 32).map x.g.work.vreg) (x.src v)) [d, b]
      (if ru then some ⟨a, v, kind, (upFrom a.val 32).map x.g.work.vreg, x.src v⟩ else none)) ∧
    (∀ l, x.g.work.latch = some l → l.va = a → l.vb = v → l.kind = kind → runs i (.mma d b kind l.a l.scale) [d, b]
      (if ru = true ∨ x.active c = 0 then some l else none)) ∧
    ∀ l, x.g.work.latch = some l → l.va ≠ a ∨ l.vb ≠ v ∨ l.kind ≠ kind → stops i
  issues (.mma c d a v b ty ru) (fmt d = some .acc ∧ (fmt b = some .e4m3 ∨ fmt b = some .e5m2))
    (multiply (.mma c d a v b ty ru) (some ty)) ∧
  issues (.mmab c d a v b ru) (fmt d = some .acc ∧ fmt b = some .bf16) (multiply (.mmab c d a v b ru) none) ∧
  issues (.mzero c d) (fmt d = some .acc) (runs (.mzero c d) (.mzero d) [d] x.g.work.latch) ∧
  issues (.mdrn c a sl g n) (fmt sl = some .acc) (runs (.mdrn c a sl g n) (.mdrn a sl g n) [sl] x.g.work.latch) ∧
  issues (.mpois c q sl clr) (fmt sl ≠ none) (runs (.mpois c q sl clr) (.mpois q sl clr) [sl] x.g.work.latch) ∧
  (lanePre s x (.mdst c m sl n bf16 sc od) c.wait = .go →
    let i : Instr := .mdst c m sl n bf16 sc od
    let ready : Prop := x.g.work.cnt.stc < 63 ∧
      ∀ a : Access, (a ∈ x.g.loads.map (·.acc) ∨ a ∈ x.g.stores.map (·.acc)) → a.level = x.g.level → a.stream = .lane →
        a.key ≤ x.cursor.token.seq → a.order ≠ .acq ∧ a.order ≠ .ar
    let behind : Prop := ∃ p ∈ s.cores, ∃ o ∈ p.2.matrix, o.team = x.g.team ∧ sl ∈ o.op.names
    (¬ ready → exec i s = .next s) ∧ (ready → fmt sl ≠ some .acc → stops i) ∧
    (ready → fmt sl = some .acc → behind → exec i s = .next s) ∧
    ∀ r, ready → ¬ behind → Tab.find? T.slots sl.toNat = some r → r.fmt = .acc →
      let checks := eachLane (mdstLane x (x.active c) ((x.src m.va).poison ||| r.rpois) (x.memAddr m) sc (if bf16 then 2 else 4))
        (x.accessLanes (x.active c)) [] []
      (∀ fs s1, checks s0 = .error (.faults fs) s1 → exec i s = .next (laneFault s1 x fs)) ∧
      ∀ l s1, checks s0 = .ok l s1 → s1.groups = s0.groups → s1.focus = s.focus → (s1.core x.g.core).matrix = k.matrix → ∃ t w fs, exec i s = .next t ∧
        t.group? x.gid = some { x.g with stores := x.g.stores ++ fs, work := w, sched := { x.g.sched with issuedAt := s.now } } ∧
        (∀ e ∈ fs, e.acc.iseq = s1.nextSeq ∧ e.acc.order = od ∧ e.acc.scope = sc ∧ e.acc.counter = some .stc) ∧
        w.cnt = { x.g.work.cnt with stc := x.g.work.cnt.stc + 1 } ∧ Advanced x w ∧
        { w with cnt := x.g.work.cnt, cur0 := x.g.work.cur0, cur1 := x.g.work.cur1, cached := x.g.work.cached, used := x.g.work.used } = x.g.work ∧
        (l = [] → (t.core x.g.core).matrix = k.matrix ∧ ∀ e ∈ fs, e.kind = .store ∧ e.elems = []) ∧
        (l ≠ [] → (∃ mi, (t.core x.g.core).matrix = k.matrix ++ [mi] ∧ sent s1 mi s1.nextSeq (.mdst sl n bf16) [sl]) ∧
          (∀ e ∈ fs, e.kind = .mdst) ∧
          fs.map (fun e => e.elems.map fun y => (y.lane, y.va, y.pa)) =
            (byLine l.flatten).map fun p => p.2.map fun y => (y.lane, y.va, y.x.pa)))

/-- R253, R255, R257, R259, R261, R262, R263, R264, R266, R297: the matrix unit performs the first instruction that waits for nothing. MMA
and MMAB add to each active row the exact block sum, scaled and rounded once, with a second rounding; MZERO clears rows; MDRN and MDST
pass their values through a monitor, into registers or into the waiting store entries, or raise BOUND where it traps, for MDST with the
address of the lane's row, or, in paired mode, PAIR for each lane whose rows differ; MDRN drains columns 32g to 32g + 31 of its active
lanes, lane by lane and each in column order, and with no active lane nothing; MPOIS reads poison into a q register and may clear it.
A register of an elastic group takes its value in the cache or in the image. MXC falls, and nothing else of the team, the core or
the group changes. That a lane that MDRN writes is poisoned where its guard is poisoned is the model's choice, by log 25, as is one record of the first lane that traps, by log 122. -/
def Obligations.MatrixPerforms : Prop := ∀ (core : Nat) (s : State) (m : MatInstr) (T : Team) (G : Group),
  (s.nextMatrix core (s.core core).matrix [] [] = none → exec (.matrixPerform core) s = .next s) ∧
  (s.nextMatrix core (s.core core).matrix [] [] = some m → Tab.find? s.teams m.team = some T → s.group? m.group = some G →
  let i : Instr := .matrixPerform core
  let slot (n : Slot) : Option SlotRec := Tab.find? T.slots n.toNat
  let on (l : Nat) : Bool := m.mask.getLsbD l
  let el (r : SlotRec) (row col : Nat) : Word := Tab.get r.data (128 * row + col) 0
  let sorted (r : SlotRec) : Prop := (r.data.map (·.1)).Pairwise (· < ·)
  let left : List MatInstr := (s.core core).matrix.filter (·.seq != m.seq)
  let lowered (w : Work) : Work := { w with cnt := { w.cnt with mxc := w.cnt.mxc - 1 } }
  let unit (k : Core) (t : State) : Prop := t.core core = k ∧ ∀ c, c ≠ core → t.core c = s.core c
  let groupIs (g' : Group) (t : State) : Prop := t.group? m.group = some g' ∧ ∀ j, j ≠ m.group → t.group? j = s.group? j
  let rest (t : State) : Prop := { t with teams := s.teams, groups := s.groups, cores := s.cores } = s
  let slotIs (n : Slot) (P : SlotRec → Prop) (t : State) : Prop := ∃ T' r, Tab.find? t.teams m.team = some T' ∧
    Tab.find? T'.slots n.toNat = some r ∧ P r ∧ (∀ j, j ≠ n.toNat → Tab.find? T'.slots j = Tab.find? T.slots j) ∧
    { T' with slots := T.slots } = T ∧ ∀ j, j ≠ m.team → Tab.find? t.teams j = Tab.find? s.teams j
  let k0 : Core := { s.core core with matrix := left }
  (∀ d r, m.op = .mzero d → slot d = some r → ∃ t, exec i s = .next t ∧ unit k0 t ∧ groupIs (G.updWork m.level lowered) t ∧ rest t ∧
    slotIs d (fun r' => (∀ row col, row < 32 → col < 128 → el r' row col = if on row then 0 else el r row col) ∧
      r'.rpois = r.rpois &&& ~~~m.mask ∧ { r' with data := r.data, rpois := r.rpois } = r) t) ∧
  (∀ d b kind a sc r y, m.op = .mma d b kind a sc → slot d = some r → slot b = some y → sorted r → sorted y →
    let bf := match y.fmt with
      | .e4m3 => Fmt.e4m3
      | .e5m2 => Fmt.e5m2
      | _ => Fmt.bf16
    let af := match kind with
      | some .e4m3 => Fmt.e4m3
      | some .e5m2 => Fmt.e5m2
      | none => Fmt.bf16
    let per : Nat := if kind = none then 2 else 4
    let aVal (row k : Nat) : FVal := af.value ((((a[k / per]?).getD VVal.zero).get row).toNat / 2 ^ (32 / per * (k % per)) % 2 ^ (32 / per))
    let terms : Nat := min (per * a.length) (if y.fmt = .bf16 then 64 else 128)
    let sum (row col : Nat) : FVal := (List.range terms).foldl
      (fun z k => z.add false ((aVal row k).mul (bf.value (el y k col).toNat))) (.fin (.zero false))
    let f32 (v : FVal) : Word := BitVec.ofNat 32 (Fmt.f32.round .rne 0 false v)
    let val (w : Word) : FVal := Fmt.f32.value w.toNat
    let poison : Word := a.foldl (fun p v => p ||| v.poison) sc.poison ||| (if y.tpois then BitVec.allOnes 32 else 0)
    ∃ t, exec i s = .next t ∧ unit { k0.count T.ctx 3 1 with matrix := left } t ∧ groupIs (G.updWork m.level lowered) t ∧ rest t ∧
      slotIs d (fun r' => (∀ row col, row < 32 → col < 128 → el r' row col = if on row
          then f32 ((val (el r row col)).add false (val (f32 (((sum row col).mul (val (sc.get row))).mul (val y.scale)))))
          else el r row col) ∧
        r'.rpois = r.rpois ||| (poison &&& m.mask) ∧ { r' with data := r.data, rpois := r.rpois } = r) t) ∧
  (∀ q sl clr r, m.op = .mpois q sl clr → slot sl = some r → ∃ t, exec i s = .next t ∧ unit k0 t ∧ rest t ∧
    groupIs (G.updWork m.level fun w => lowered (w.setQ q ⟨((w.qreg q).bits &&& ~~~m.mask) |||
      ((if r.fmt = .acc then r.rpois else if r.tpois then BitVec.allOnes 32 else 0) &&& m.mask),
      (w.qreg q).poison &&& ~~~m.mask⟩)) t ∧
    (clr = false → t.teams = s.teams) ∧
    (clr = true → slotIs sl (fun r' => r' = if r.fmt = .acc then { r with rpois := r.rpois &&& ~~~m.mask }
      else if m.mask = 0 then r else { r with tpois := false }) t)) ∧
  (∀ va sl g n r mon rows trap, m.op = .mdrn va sl g n → slot sl = some r → m.mask ≠ 0 →
    drainRows (((s.core core).monitor n.toNat).forCtx T.ctx) (activeRows r m.mask (32 * g.toNat) 32) = (mon, rows, trap) →
    let k1 : Core := { k0 with mons := k0.mons.setIfInBounds n.toNat mon }
    (trap = none → ∃ t, exec i s = .next t ∧ unit k1 t ∧ rest t ∧ t.teams = s.teams ∧
      let set (w : Work) (c : Nat) : Work := w.arrive (va.val + c) fun old =>
        rows.foldl (fun v x => v.setLane x.1 ((x.2[c]?).getD 0) (r.rpois.getLsbD x.1 || m.gp.getLsbD x.1)) old
      groupIs (G.updWork m.level fun w => lowered ((List.range 32).foldl set w)) t) ∧
    (trap = none → m.level = G.level → G.work.elastic = false → ∃ t w, exec i s = .next t ∧ unit k1 t ∧ rest t ∧ t.teams = s.teams ∧
      groupIs { G with work := w } t ∧ { w with v := G.work.v } = lowered G.work ∧
      (∀ c < 32, ∀ l : Fin 32, (w.vreg (va.val + c)).val[l] =
        (((rows.find? (·.1 == l.val)).bind (·.2[c]?)).getD (if on l then 0 else (G.work.vreg (va.val + c)).val[l])) ∧
        (w.vreg (va.val + c)).poison.getLsbD l.val =
          if on l then r.rpois.getLsbD l.val || m.gp.getLsbD l.val else (G.work.vreg (va.val + c)).poison.getLsbD l.val) ∧
      ∀ p, (p < va.val ∨ va.val + 32 ≤ p) → w.vreg p = G.work.vreg p) ∧
    (∀ l v s3, trap = some (l, v) → raise m.group m.level [⟨0, v ++ n.setWidth 32, m.pc, BitVec.ofNat 32 m.word,
        if m.cur then 2 else 1, BitVec.ofNat 5 l, false, 7, 0, true, 0, false⟩] (s.updCore core fun _ => k1) = .ok () s3 →
      exec i s = .next (s3.updWork m.group m.level lowered))) ∧
  (∀ va sl g n r, m.op = .mdrn va sl g n → slot sl = some r → m.mask = 0 → ∃ t, exec i s = .next t ∧ unit k0 t ∧ rest t ∧
    t.teams = s.teams ∧ groupIs (G.updWork m.level lowered) t) ∧
  (∀ sl n bf16 r mon rows trap, m.op = .mdst sl n bf16 → slot sl = some r →
    drainRows (((s.core core).monitor n.toNat).forCtx T.ctx) (activeRows r m.mask 0 128) = (mon, rows, trap) →
    let k1 : Core := { k0 with mons := k0.mons.setIfInBounds n.toNat mon }
    let bytes (l : Nat) : List Byte := (((rows.find? (·.1 == l)).map (·.2)).getD []).flatMap fun v =>
      if bf16 then leBytesOf 2 (Fmt.bf16.round .rne 0 false (Fmt.f32.value v.toNat)) else leBytesOf 4 v.toNat
    let dropped := ((s.updCore core fun _ => k1).updGroup m.group fun g => { g with stores := g.stores.filter (·.acc.iseq != m.iseq) }).updWork
      m.group m.level fun w => { w with cnt := { w.cnt with stc := w.cnt.stc - 1 } }
    let mine := (G.stores.filter fun e => e.acc.iseq == m.iseq).flatMap (·.elems)
    let va (l : Nat) : DWord := ((mine.find? fun y => y.lane == (if m.pair then l % 16 else l) && y.b == 0).map (·.va)).getD 0
    let differs : List (Nat × Word × Word) := if m.pair then rows.filterMap (fun x => (rows.find? (·.1 == x.1 + 16)).bind fun y =>
      ((x.2.zip y.2).find? fun p => p.1 != p.2).map fun p => (x.1, p.1, p.2)) else []
    (trap = none → differs ≠ [] → ∀ s3, raise m.group m.level (differs.map fun p =>
        ⟨va p.1, p.2.2 ++ p.2.1, m.pc, BitVec.ofNat 32 m.word, if m.cur then 2 else 1, BitVec.ofNat 5 p.1, false, 9, 0, true, 0, false⟩)
        dropped = .ok () s3 → exec i s = .next s3) ∧
    (trap = none → differs = [] → ∃ t, exec i s = .next t ∧ unit k1 t ∧ rest t ∧ t.teams = s.teams ∧
      groupIs { G with stores := G.stores.map fun e => if e.acc.iseq = m.iseq ∧ e.kind = .mdst then
        { e with kind := .store, elems := e.elems.map fun y =>
            { y with data := ((bytes y.lane).drop (128 * y.b.toNat)).take 128, b := 0 } } else e } t) ∧
    (∀ l v, trap = some (l, v) → ∀ s3, raise m.group m.level [⟨va l, v ++ n.setWidth 32, m.pc, BitVec.ofNat 32 m.word,
        if m.cur then 2 else 1, BitVec.ofNat 5 l, false, 7, 0, true, 0, false⟩] dropped = .ok () s3 → exec i s = .next s3)) ∧
  (∀ (r : SlotRec) (mask : Word) (lo n : Nat), sorted r → lo + n ≤ 128 → activeRows r mask lo n =
    ((List.range 32).filter mask.getLsbD).map fun row => (row, (List.range n).map fun c => el r row (lo + c)))) ∧
  (∀ (w : Work) (p : Nat) (f : VVal → VVal), let w' := w.arrive p f
    (w.elastic = false → w' = w.setV p (f (w.vreg p))) ∧
    (w.elastic = true → (∀ c, w'.cursor c = (w.cursor c).map fun u => { u with wrote := dedup (p :: u.wrote) }) ∧
      (p ∈ w.cached → w'.v = (w.setV p (f (w.vreg p))).v ∧ w'.image = w.image) ∧
      (p ∉ w.cached → w'.v = w.v ∧ w'.image = Tab.put w.image p (f (Tab.get w.image p VVal.zero))) ∧
      { w' with v := w.v, image := w.image, cur0 := w.cur0, cur1 := w.cur1 } = w)) ∧
  (∀ (mo : Monitor) (lane : Nat) (row : List Word) (more : List (Nat × List Word)),
    drainRows mo [] = (mo, [], none) ∧
    let upTo (c : Nat) : Monitor := (row.take c).foldl (fun q x => (q.pass x).1) mo
    let next := drainRows (upTo row.length) more
    ∃ out trap, drainRows mo ((lane, row) :: more) = (next.1, (lane, out) :: next.2.1, trap) ∧ out.length = row.length ∧
      (∀ (c : Nat) (x : Word), row[c]? = some x → out[c]? = some ((upTo c).pass x).2.1) ∧
      trap = match (List.range row.length).find? fun c => (row[c]?).any fun x => ((upTo c).pass x).2.2 with
        | some c => some (lane, (row[c]?).getD 0)
        | none => next.2.2) ∧
  ∀ (mo : Monitor) (v : Word),
    let inc (w : Word) : Word := if w = 0xFFFFFFFF then w else w + 1
    let bin := min ((v.toNat / 2 ^ 23 % 256) - 111) 31
    let counted : Monitor := { mo with bins := Vector.ofFn fun j : Fin 32 => if j.val = bin then inc mo.bins[j] else mo.bins[j] }
    let out : Bool := f32Lt v mo.lo || f32Lt mo.hi v
    mo.pass v = if isNan v then ({ mo with nan := inc mo.nan }, 0x7FC00000, mo.act == 2)
      else if out then ({ counted with flag := inc mo.flag },
        if mo.act = 1 then (if f32Lt v mo.lo then mo.lo else mo.hi) else v, mo.act == 2)
      else (counted, v, false)

/-- R14, R49, R54, R60, R73, R84, R87, R211, R230, R231, R234, R235, R237, R238: LOAD performs the oldest entry of a stream: its bytes
come from the youngest older store that covers them all, the scratchpad, the read-only view, the L1 or a lease, or the directory;
each lane's bytes reach their registers, the counter falls with the instruction's last entry, and nothing else of the group
changes. It waits for an older atomic of its stream, for an older atomic of the other stream on its bytes, and for a store that
covers only a part. A device-scope load that the L1 does not hold, or holds with an expired lease, takes the RDC's copy while its
lease lasts and else renews; only the first of these counts as an L1 miss. An error response or a lost home raises its fault and
delivers nothing; an SLD that meets poison faults and writes nothing. Of two precise faults the Armature goes back to the older access. A load of a VLAUNCH waits for the older lane accesses, performs the write-backs of a release, and adds its image to
those of the instruction, whose last load ends it; poison drops the instruction. Where the spec leaves room it follows logs 10, 25,
61, 92, 102 and 110. Those clauses are the model's reading. -/
def Obligations.LoadMoves : Prop := ∀ (gid : Nat) (st : Stream) (s : State) (g : Group) (e : LoadEntry),
  s.group? gid = some g → g.present = true → headLoad g st s = .ok e s → e.kind ≠ .lock → e.acc.level = g.level →
  let i : Instr := .load gid st
  let rest := g.loads.filter (·.acc.seq != e.acc.seq)
  let more : Prop := (∃ l ∈ rest, l.acc.iseq = e.acc.iseq) ∨ ∃ q ∈ g.stores, q.acc.iseq = e.acc.iseq
  let counted (w w' : Work) : Prop := { w' with cnt := w.cnt } = w ∧ (more → w'.cnt = w.cnt) ∧
    (¬ more → w'.cnt = match e.acc.counter with
      | none => w.cnt
      | some k => w.cnt.upd k (· - 1))
  let bytesOf (e : LoadEntry) : List Nat := e.elems.flatMap fun x => (List.range x.n).map (x.pa + ·)
  let covers (q : StoreEntry) (a : Nat) : Prop := ∃ x ∈ q.elems, x.pa ≤ a ∧ a < x.pa + q.width x
  let space (q : StoreEntry) : Prop := (q.kind = .scratch ↔ e.kind = .scratch)
  let overlaps (q : StoreEntry) : Prop := q ∈ g.stores ∧ space q ∧ q.acc.older e.acc = true ∧ ∃ a ∈ bytesOf e, covers q a
  let atomic (q : StoreEntry) : Prop := ∃ op n r, q.kind = .atomic op n r
  let forwards (q : StoreEntry) : Prop := (q.kind = .store ∨ q.kind = .scratch) ∧ ∀ a ∈ bytesOf e, covers q a
  let behind : Prop := ∃ q ∈ g.stores, atomic q ∧ q.acc.stream = e.acc.stream ∧ q.acc.older e.acc = true
  let gets (s' : State) (data : Elem → List Byte × Bool) : Prop := ∃ t w, exec i s = .next t ∧
    counted (e.elems.foldl (fun w x => deliver w e.acc e.dest x.lane (data x).1 ((data x).2 || x.gp)) g.work) w ∧
    t.group? gid = some { g with loads := rest, work := w } ∧ (∀ j, j ≠ gid → t.group? j = s.group? j) ∧
    { t with groups := s'.groups } = s'
  let fromLine (s' : State) (line : Nat) (d : LineData) : Prop :=
    (∀ x ∈ e.elems, e.acc.stream = .arm → d.poisoned (x.pa - line * 128) x.n = false) →
      gets s' fun x => (d.slice (x.pa - line * 128) x.n, d.poisoned (x.pa - line * 128) x.n)
  let plain : Prop := e.kind ≠ .launch ∧ ∀ p ∈ g.launches, p.iseq ≠ e.acc.iseq
  let atHome : Prop := ¬ behind ∧ (∀ q, ¬ overlaps q) ∧ e.kind ≠ .scratch
  let home : Prop := plain ∧ atHome ∧ ∀ x ∈ e.elems, s.place x.pa = .here
  let direct (line : Nat) : Prop := e.kind = .load ∧ e.acc.cls = .sys ∧ s.serves line = true
  let src : BitVec 3 := if e.acc.stream = .arm then 0 else if e.acc.cur then 2 else 1
  let back (w : Work) : Work := if ∃ n, w.back = some n ∧ n ≤ e.acc.seq then w
    else { w with pc := e.acc.pc, bar := none, back := some e.acc.seq }
  (behind → exec i s = .next s) ∧ (e.elems ≠ [] → (∃ q, overlaps q ∧ ¬ forwards q) → exec i s = .next s) ∧
  (plain → ¬ behind → e.elems = [] → gets s fun _ => ([], false)) ∧
  (plain → ¬ behind → e.elems ≠ [] → (∀ q, overlaps q → forwards q) → ∀ q, overlaps q → (∀ r, overlaps r → r = q ∨ r.acc.older q.acc = true) →
    (∀ r, overlaps r → r ≠ q → q.acc.older r.acc = false) →
    gets s fun x => ((List.range x.n).map fun j => (q.byteAt? (x.pa + j)).getD 0, false)) ∧
  (¬ behind → e.elems ≠ [] → (∀ q, ¬ overlaps q) → e.kind = .scratch → ∀ T, Tab.find? s.teams g.team = some T →
    gets s fun x => ((List.range x.n).map fun j => Tab.get T.scratch (x.pa + j) 0,
      (List.range x.n).any fun j => T.bad.contains ((x.pa + j) / 32))) ∧
  (∀ line, home → e.line? = some line →
    (e.kind = .readOnly → ∀ d s1, readRo g.core g.ctx line s = .ok d s1 → s1.groups = s.groups → fromLine s1 line d) ∧
    (direct line → ∀ s1, sysLine line s = .ok () s1 → fromLine s1 line (s.homeData line)) ∧
    (e.kind = .load → e.acc.cls = .sys → s.serves line = false → exec i s = .next s) ∧
    (e.kind = .load → e.acc.cls ≠ .sys → ∀ d s1, readL1 g.core g.ctx line e.acc.scope e.acc.cls s = .ok (d, none) s1 →
      s1.groups = s.groups → fromLine s1 line d) ∧
    (e.kind = .load → e.acc.cls ≠ .sys → ∀ d t s1 s2, readL1 g.core g.ctx line e.acc.scope e.acc.cls s = .ok (d, some t) s1 →
      jump g.core t s1 = .ok () s2 → s2.groups = s.groups →
      fromLine s2 line d ∧ (s2.core g.core).pts = serialMax (s1.core g.core).pts t)) ∧
  (∀ line d, e.acc.stream = .arm → home → e.line? = some line → direct line → d = s.homeData line → ∀ x, e.elems = [x] →
    d.poisoned (x.pa - line * 128) x.n = true → ∀ s1 t, sysLine line s = .ok () s1 →
      raise gid g.level [⟨x.va, BitVec.ofNat 64 (x.pa / 32 * 32), e.acc.pc, BitVec.ofNat 32 e.acc.word, 0, 0, false, 8, 0, false, 0, false⟩]
        ((takeMove s1 (loadDone gid e)).updWork gid g.level back) = .ok () t → exec i s = .next t) ∧
  (∀ line x f t, plain → atHome → e.line? = some line → e.elems = [x] → placeFault x.va x.pa (s.place x.pa) = some f →
    let s1 := takeMove s (loadDone gid e)
    let s2 := if f.cls = 10 ∧ e.acc.stream = .arm then s1.updWork gid g.level back else s1
    raise gid g.level [⟨f.va, f.aux, e.acc.pc, BitVec.ofNat 32 e.acc.word, src, BitVec.ofNat 5 x.lane, false, f.cls, f.sub,
      e.acc.stream == .lane, 0, false⟩] s2 = .ok () t → exec i s = .next t) ∧
  (e.kind = .launch → ¬ behind → (∀ q, ¬ overlaps q) → ∀ line, e.line? = some line →
    let before (a : Access) : Prop := a.stream = .lane ∧ a.level = g.level ∧ a.iseq ≠ e.acc.iseq ∧ a.older e.acc = true
    ((∃ l ∈ g.loads, l.kind ≠ .lock ∧ before l.acc) ∨ (∃ q ∈ g.stores, before q.acc) → exec i s = .next s) ∧
    ((∀ l ∈ g.loads, ¬ before l.acc) → (∀ q ∈ g.stores, ¬ before q.acc) → ∀ s1 d t s2 s3, releaseCore g.core s = .ok () s1 →
      s1.groups = s.groups → (∀ x ∈ e.elems, s1.place x.pa = .here) → e.acc.cls ≠ .sys →
      readL1 g.core g.ctx line e.acc.scope e.acc.cls s1 = .ok (d, some t) s2 → jump g.core t s2 = .ok () s3 → s3.groups = s.groups →
      ((∀ x ∈ e.elems, d.poisoned (x.pa - line * 128) x.n = false) → exec i s = .next (takeMove
        (s3.updGroup gid fun _ => { g with loads := rest, launches := g.launches.map fun p => if p.iseq = e.acc.iseq
          then { p with images := p.images ++ e.elems.map fun x => (x.lane, d.slice (x.pa - line * 128) x.n) } else p })
        (do settle gid e.acc; finishLaunch gid e))) ∧
      ∀ x u, e.elems = [x] → d.poisoned (x.pa - line * 128) x.n = true → raise gid g.level
        [⟨x.va, BitVec.ofNat 64 (x.pa / 32 * 32), e.acc.pc, BitVec.ofNat 32 e.acc.word, src, BitVec.ofNat 5 x.lane, false, 8, 0,
          e.acc.stream == .lane, 0, false⟩]
        (takeMove (s3.updGroup gid fun _ => { g with
          loads := g.loads.filter fun l => l.acc.iseq != e.acc.iseq || l.acc.seq == e.acc.seq
          launches := g.launches.filter (·.iseq != e.acc.iseq) }) (loadDone gid e)) = .ok () u →
        e.acc.stream = .lane → exec i s = .next u)) ∧
  (∀ line, s.serves line = true → ∃ t, sysLine line s = .ok () t ∧ { t with pkg := s.pkg } = s ∧
    { t.pkg with snooped := s.pkg.snooped } = s.pkg ∧
    ∀ l, l ∈ t.pkg.snooped ↔ l ∈ s.pkg.snooped ∨ (l = line ∧ isLocal line = true)) ∧
  (∀ line r, e.acc.cls ≠ .non → e.acc.scope = .grp ∨ e.acc.scope = .core → Tab.find? (s.core g.core).l1 line = none →
    Tab.find? (s.core g.core).wb line = none → s.rdcLine g.core line = some r → r.noncoh = false →
    ∃ t, readL1 g.core g.ctx line e.acc.scope e.acc.cls s =
      .ok (r.data, some r.wts) t ∧ t.homes = s.homes ∧ t.mem = s.mem ∧ t.groups = s.groups) ∧
  (∀ line, e.acc.cls ≠ .non → e.acc.scope = .dev ∨ e.acc.scope = .sys →
    let found := Tab.find? (s.core g.core).l1 line
    let s0 := if found = none then s.event g.core g.ctx 4 else s
    (found = none ∨ ∃ w r d, found = some ⟨.leased w r, d⟩ ∧ leaseServes (s.core g.core).pts r = false) →
    ∀ s1, leaveNoncoh g.core line s0 = .ok () s1 →
      let serves (r : RdcLine) : Prop := s1.rdcLine g.core line = some r ∧ r.noncoh = false ∧
        Tab.find? (s1.core g.core).wb line = none ∧ leaseServes (s1.core g.core).pts r.rts = true
      (∀ r, serves r → ∃ t, readL1 g.core g.ctx line e.acc.scope e.acc.cls s = .ok (r.data, some r.wts) t ∧ t.homes = s1.homes ∧
        t.mem = s1.mem ∧ t.groups = s1.groups) ∧
      ((∀ r, ¬ serves r) → ∀ copy wts rts s2, renew g.core g.ctx line s1 = .ok copy s2 → copy.kind = .leased wts rts →
        readL1 g.core g.ctx line e.acc.scope e.acc.cls s = .ok (copy.data, some wts) s2)) ∧
  (∀ line l (data : LineData), Tab.find? (s.core g.core).l1 line = some l → data = l.data →
    let hit (w : Option Time) : Prop := readL1 g.core g.ctx line e.acc.scope e.acc.cls s = .ok (data, w) s
    (∀ dirty, l.kind = .noncoh dirty → e.acc.cls = .non ∨ e.acc.scope = .grp ∨ e.acc.scope = .core → hit none) ∧
    (∀ w dirty pin, l.kind = .owned w dirty pin → hit (some w)) ∧
    (∀ w r, l.kind = .leased w r → (e.acc.cls = .non ∨ e.acc.scope = .grp ∨ e.acc.scope = .core) ∨
      (r - (s.core g.core).pts).toNat < 2 ^ 15 → hit (some w))) ∧
  (∀ (w : Work) (a : Access) (d : SReg) (sx : Bool) (bs : List Byte), deliver w a (.sreg d sx) 0 bs false =
    w.setS d (if sx then (BitVec.ofNat (8 * bs.length) (leVal bs)).signExtend 64 else BitVec.ofNat 64 (leVal bs % 2 ^ (8 * bs.length)))) ∧
  ∀ (w : Work) (a : Access) (r : Nat) (sx p : Bool) (bs : List Byte) (lane : Nat), w.elastic = false → bs.length ∈ [1, 2, 4, 8, 16] →
    let w' := deliver w a (.vreg r sx) lane bs p
    { w' with v := w.v } = w ∧ ∀ (n : Nat) (l : Fin 32),
      let written : Bool := decide (r ≤ n ∧ n < r + (bs.length + 3) / 4) && (l.val == lane || (a.pair && l.val == lane + 16))
      (w'.vreg n).val[l] = (if written then
        (if bs.length = 1 then (if sx then (BitVec.ofNat 8 (leVal bs)).signExtend 32 else BitVec.ofNat 32 (leVal bs))
         else if bs.length = 2 then (if sx then (BitVec.ofNat 16 (leVal bs)).signExtend 32 else BitVec.ofNat 32 (leVal bs))
         else BitVec.ofNat 32 (leVal bs / 2 ^ (32 * (n - r)))) else (w.vreg n).val[l]) ∧
      (w'.vreg n).poison.getLsbD l.val = if written then p else (w.vreg n).poison.getLsbD l.val

/-- R14, R15, R50, R51, R52, R53, R75, R137, R234, R236, R237: DRAIN performs the oldest store entry of a stream, after the
release conditions its order asks for and any older overlapping entry of the other stream. The byte of the highest lane wins.
A system line takes the bytes at home; at device scope they go home with a new time that the core jumps to; at group or core
scope they go into the core's own copy. The issuer's own copies, in its L1 and its die's RDC, take the bytes and the new times. An
error response raises its faults and writes nothing. The counter falls with the last entry. Where the spec leaves room it follows
logs 10, 33, 44, 96, 97 and 110. Those clauses are the model's reading. -/
def Obligations.DrainMoves : Prop := ∀ (gid : Nat) (st : Stream) (s : State) (g : Group) (e : StoreEntry),
  s.group? gid = some g → g.present = true → headOf (·.acc) g st g.stores = some e → e.acc.level = g.level →
  let i : Instr := .drain gid st
  let rest := g.stores.filter (·.acc.seq != e.acc.seq)
  let more : Prop := (∃ l ∈ g.loads, l.acc.iseq = e.acc.iseq) ∨ ∃ q ∈ rest, q.acc.iseq = e.acc.iseq
  let ends (s' t : State) : Prop := ∃ w, t.group? gid = some { g with stores := rest, work := w } ∧
    { w with cnt := g.work.cnt } = g.work ∧ (more → w.cnt = g.work.cnt) ∧
    (¬ more → w.cnt = match e.acc.counter with
      | none => g.work.cnt
      | some k => g.work.cnt.upd k (· - 1)) ∧
    (∀ j, j ≠ gid → t.group? j = s.group? j) ∧ { t with groups := s'.groups } = s'
  let plain : Prop := e.kind = .store ∨ e.kind = .scratch
  let crossed : Prop := ∃ q ∈ g.stores, q.acc.stream ≠ e.acc.stream ∧ q.acc.older e.acc = true ∧ q.overlaps e = true
  (¬ plain ∨ crossed → exec i s = .next s) ∧
  (plain → ¬ crossed → ∀ s1, releaseM g e.acc s = .ok () s1 → s1.groups = s.groups → s1.teams = s.teams →
    (e.elems = [] → ∃ t, exec i s = .next t ∧ ends s1 t) ∧
    (e.elems ≠ [] → e.kind = .scratch → ∀ T G, Tab.find? s.teams g.team = some T → Tab.find? s.grids T.grid = some G →
      s1.grids = s.grids → ∃ t, exec i s = .next t ∧ ends { s1 with teams := t.teams } t ∧
        (∀ j, j ≠ g.team → Tab.find? t.teams j = Tab.find? s.teams j) ∧ ∃ T', Tab.find? t.teams g.team = some T' ∧
        { T' with scratch := T.scratch, bad := T.bad } = T ∧
        (∀ k, k ∈ T'.bad ↔ k ∈ T.bad ∧ ∃ a, 32 * k ≤ a ∧ a < 32 * k + 32 ∧ ∀ x ∈ e.elems, ¬ (x.pa ≤ a ∧ a < x.pa + x.data.length)) ∧
        (¬ (G.packet.bar + 128 ≤ G.packet.scratch) →
          ∀ a, Tab.get T'.scratch a 0 = (e.byteAt? a).getD (Tab.get T.scratch a 0))) ∧
    (∀ line s2, e.kind = .store → e.line? = some line → (∀ x ∈ e.elems, s1.place x.pa = .here) →
      writeLine g e.acc line (e.lineImage line).1 (s1.open_ line (e.lineImage line).2) s1 = .ok () s2 → s2.groups = s.groups →
      ∃ t, exec i s = .next t ∧ ends s2 t) ∧
    (∀ line x t, e.kind = .store → e.line? = some line → e.elems = [x] → s1.place x.pa = .error →
      raise gid g.level [⟨x.va, BitVec.ofNat 64 x.pa, e.acc.pc, BitVec.ofNat 32 e.acc.word,
          if e.acc.stream = .arm then 0 else if e.acc.cur then 2 else 1, BitVec.ofNat 5 x.lane, false, 11, 0,
          e.acc.stream == .lane, 0, false⟩] (takeMove s1 (storeDone gid e)) = .ok () t → exec i s = .next t) ∧
    (∀ line x f t, e.kind = .store → e.line? = some line → e.elems = [x] → placeFault x.va x.pa (s1.place x.pa) = some f →
      let back (w : Work) : Work := if ∃ n, w.back = some n ∧ n ≤ e.acc.seq then w
        else { w with pc := e.acc.pc, bar := none, back := some e.acc.seq }
      let s2 := takeMove s1 (storeDone gid e)
      raise gid g.level [⟨f.va, f.aux, e.acc.pc, BitVec.ofNat 32 e.acc.word,
          if e.acc.stream = .arm then 0 else if e.acc.cur then 2 else 1, BitVec.ofNat 5 x.lane, false, f.cls, f.sub,
          e.acc.stream == .lane, 0, false⟩]
        (if f.cls = 10 ∧ e.acc.stream = .arm then s2.updWork gid g.level back else s2) = .ok () t → exec i s = .next t)) ∧
  (e.acc.order ≠ .rel → e.acc.order ≠ .ar → releaseM g e.acc s = .ok () s) ∧
  (e.acc.order = .rel ∨ e.acc.order = .ar → ∀ T, Tab.find? s.teams g.team = some T →
    let older : Prop := ∃ l ∈ g.loads, l.acc.stream = e.acc.stream ∧ l.acc.level = e.acc.level ∧ l.acc.older e.acc = true ∧
      ¬ ((g.hold = .vectoring ∨ T.saving = true) ∧ l.kind = .lock)
    (older → releaseM g e.acc s = .error .wait s) ∧
    (¬ older → releaseM g e.acc s = if e.acc.scope = .dev ∨ e.acc.scope = .sys then releaseCore g.core s else .ok () s)) ∧
  (∀ (line : Nat) (mask : BitVec 128) (j : Nat), j < 128 →
    let location : Prop := line % 512 = 4 ∧ 0x68 ≤ j ∧ j < 0x70 ∧
      ∃ p ∈ s.groups, s.peekPa p.2.ctx (p.2.record + 0x268) = some (line * 128 + 0x68)
    ((s.open_ line mask).getLsbD j = true ↔ mask.getLsbD j = true ∧ ¬ location)) ∧
  (∀ line, let (d, mask) := e.lineImage line
    ∀ j : Fin 128, mask.getLsbD j.val = (e.byteAt? (line * 128 + j.val)).isSome ∧
      d.bytes[j] = (e.byteAt? (line * 128 + j.val)).getD 0) ∧
  (∀ a x before, e.elems = before ++ [x] → e.byteAt? a =
    if x.pa ≤ a ∧ a < x.pa + x.data.length then x.data[a - x.pa]? else ({ e with elems := before } : StoreEntry).byteAt? a) ∧
  (∀ (line : Nat) (d : LineData) (mask : BitVec 128), Memory.wf s.mem = true →
    let at_ (t : State) (a : Nat) : Prop := Memory.get t.mem a = if a / 128 = line ∧ mask.getLsbD (a % 128) then
      (d.bytes[a % 128]?).getD 0 else Memory.get s.mem a
    (e.acc.cls = .sys → s.serves line = false → writeLine g e.acc line d mask s = .error .wait s) ∧
    (e.acc.cls = .sys → s.serves line = true → ∃ t, writeLine g e.acc line d mask s = .ok () t ∧ (∀ a, at_ t a) ∧
      { t with mem := s.mem, poison := s.poison, pkg := s.pkg } = s ∧ { t.pkg with snooped := s.pkg.snooped } = s.pkg) ∧
    (e.acc.cls = .dev → e.acc.scope = .dev ∨ e.acc.scope = .sys → isLocal line = true → ∀ t,
      writeLine g e.acc line d mask s = .ok () t →
      let w := if s.pkg.clock = .stopped then (s.core g.core).pts else serialMax (s.core g.core).pts ((s.home line).rts + 1)
      (∀ a, at_ t a) ∧ (t.core g.core).pts = serialMax (s.core g.core).pts w ∧
      (s.pkg.clock = .stopped → t.homes = s.homes ∧ t.lead = s.lead) ∧
      (s.pkg.clock ≠ .stopped → stale w (t.leadView line) = false → (t.home line).wts = w ∧ (t.home line).rts = w) ∧
      (∀ o m p old, Tab.find? (s.core g.core).l1 line = some ⟨.owned o m p, old⟩ →
        Tab.find? (t.core g.core).l1 line = some ⟨.owned o (m &&& ~~~mask) p, mixData old d mask⟩) ∧
      (∀ o r old, Tab.find? (s.core g.core).l1 line = some ⟨.leased o r, old⟩ →
        Tab.find? (t.core g.core).l1 line = some ⟨.leased w w, t.homeData line⟩) ∧
      ∀ r, s.rdcLine g.core line = some r → t.rdcLine g.core line = some (if r.noncoh
        then { r with data := mixData r.data d mask, dirty := r.dirty &&& ~~~mask }
        else { r with data := t.homeData line, wts := w, rts := w })) ∧
    (e.acc.cls = .dev → e.acc.scope = .grp ∨ e.acc.scope = .core →
      (∀ o m p old, Tab.find? (s.core g.core).l1 line = some ⟨.owned o m p, old⟩ → ∃ t,
        writeLine g e.acc line d mask s = .ok () t ∧ t.mem = s.mem ∧ t.homes = s.homes ∧
        Tab.find? (t.core g.core).l1 line = some ⟨.owned o (m ||| mask) p, mixData old d mask⟩) ∧
      ((∀ o m p old, Tab.find? (s.core g.core).l1 line ≠ some ⟨.owned o m p, old⟩) → s.serves line = true →
        (∀ m old, Tab.find? (s.core g.core).l1 line = some ⟨.noncoh m, old⟩ → m = 0) →
        (∀ r, s.rdcLine g.core line = some r → r.dirty = 0) →
        (s.home line).owner = none → (s.core g.core).setFull line = false → ∃ t, writeLine g e.acc line d mask s = .ok () t ∧
        t.mem = s.mem ∧ (t.home line).owner = some g.core ∧
        Tab.find? (t.core g.core).l1 line = some ⟨.owned (s.home line).wts mask false, mixData (s.homeData line) d mask⟩)) ∧
    (e.acc.cls = .non → ∀ m old, Tab.find? (s.core g.core).l1 line = some ⟨.noncoh m, old⟩ → ∃ t,
      writeLine g e.acc line d mask s = .ok () t ∧ t.mem = s.mem ∧ t.homes = s.homes ∧
      Tab.find? (t.core g.core).l1 line = some ⟨.noncoh (m ||| mask), mixData old d mask⟩))

/-- R60, R84, R108, R109, R110, R111, R237, R239, R245: ATOMIC performs the oldest entry of a stream when it is an atomic: on
the core's own copy, at home, or in the directory; a non-coherent line is owned for it. The lanes' updates are applied in
ascending order, each on the value the one before left; the old values reach the destination, and the counter falls. An atomic of
the Armature that meets poison writes nothing and faults, and the group resumes at it. Where the spec leaves room it follows logs
25, 36, 44, 99 and 110. Those clauses are the model's reading. -/
def Obligations.AtomicMoves : Prop := ∀ (gid : Nat) (st : Stream) (s : State) (g : Group) (e : StoreEntry) (op : AtomOp) (n : Nat)
    (ret : Option Dest), s.group? gid = some g → g.present = true → headOf (·.acc) g st g.stores = some e →
  e.kind = .atomic op n ret → e.acc.level = g.level → n = 4 ∨ n = 8 →
  let i : Instr := .atomic gid st
  let rest := g.stores.filter (·.acc.seq != e.acc.seq)
  let more : Prop := (∃ l ∈ g.loads, l.acc.iseq = e.acc.iseq) ∨ ∃ q ∈ rest, q.acc.iseq = e.acc.iseq
  let ends (data : List (Nat × List Byte × Bool)) (s' t : State) : Prop := ∃ w, t.group? gid = some { g with stores := rest, work := w } ∧
    let w0 := match ret with
      | none => g.work
      | some dest => data.foldl (fun (w : Work) (r : Nat × List Byte × Bool) => deliver w e.acc dest r.1 r.2.1 r.2.2) g.work
    { w with cnt := w0.cnt } = w0 ∧ (more → w.cnt = w0.cnt) ∧
    (¬ more → w.cnt = match e.acc.counter with
      | none => w0.cnt
      | some k => w0.cnt.upd k (· - 1)) ∧
    (∀ j, j ≠ gid → t.group? j = s.group? j) ∧ { t with groups := s'.groups } = s'
  let back (w : Work) : Work := if ∃ n, w.back = some n ∧ n ≤ e.acc.seq then w
    else { w with pc := e.acc.pc, bar := none, back := some e.acc.seq }
  (∀ stop s1, releaseM g e.acc s = .error stop s1 → exec i s = .next s) ∧
  (∀ s1, releaseM g e.acc s = .ok () s1 → s1.groups = s.groups →
    (e.elems = [] → ret = none → ∃ t, exec i s = .next t ∧ ends [] s1 t) ∧
    (∀ line d s2 new olds, e.line? = some line → (∀ x ∈ e.elems, s1.place x.pa = .here) →
      atomSource g e.acc line s1 = .ok d s2 → s2.groups = s.groups → atomElems op n line e.elems d = (new, olds) →
      (e.acc.stream = .lane ∨ (∀ o ∈ olds, o.2.2 = false) → ∀ s3, s3.groups = s.groups →
        atomWrite g e.acc line ⟨new.bytes, 0⟩
          (s2.open_ line (e.elems.foldl (fun m x => m ||| maskOf (x.pa - line * 128) n) 0)) s2 = .ok () s3 →
        ∃ t, exec i s = .next t ∧ ends olds s3 t) ∧
      (e.acc.stream = .arm → ∀ x t, e.elems = [x] → d.poisoned (x.pa - line * 128) n = true →
        raise gid g.level [⟨x.va, BitVec.ofNat 64 (x.pa / 32 * 32), e.acc.pc, BitVec.ofNat 32 e.acc.word, 0, 0, false, 8, 0, false, 0, false⟩]
          ((takeMove s2 (storeDone gid e)).updWork gid g.level back) = .ok () t →
        exec i s = .next t)) ∧
    (∀ line x f t, e.line? = some line → e.elems = [x] → placeFault x.va x.pa (s1.place x.pa) = some f →
      let s2 := takeMove s1 (storeDone gid e)
      raise gid g.level [⟨f.va, f.aux, e.acc.pc, BitVec.ofNat 32 e.acc.word,
          if e.acc.stream = .arm then 0 else if e.acc.cur then 2 else 1, BitVec.ofNat 5 x.lane, false, f.cls, f.sub,
          e.acc.stream == .lane, 0, false⟩]
        (if f.cls = 10 ∧ e.acc.stream = .arm then s2.updWork gid g.level back else s2) = .ok () t → exec i s = .next t)) ∧
  (∀ (line : Nat) (x : SElem) (xs : List SElem) (d : LineData), line * 128 ≤ x.pa → x.pa + n ≤ line * 128 + 128 →
    let off := x.pa - line * 128
    let old := d.slice off n
    let new := leBytesOf n (atomNew op n (leVal old) (x.b.toNat % 2 ^ (8 * n)) (x.c.toNat % 2 ^ (8 * n)))
    let d1 : LineData := ⟨Vector.ofFn fun j : Fin 128 => if off ≤ j.val ∧ j.val < off + n then (new[j.val - off]?).getD 0 else d.bytes[j],
      d.poison⟩
    atomElems op n line (x :: xs) d = ((atomElems op n line xs d1).1,
      (x.lane, old, d.poisoned off n || x.gp) :: (atomElems op n line xs d1).2)) ∧
  (∀ line s1, e.acc.cls = .sys → sysLine line s = .ok () s1 → atomSource g e.acc line s = .ok (s.homeData line) s1) ∧
  (∀ line, e.acc.cls = .dev → e.acc.scope = .dev ∨ e.acc.scope = .sys → s.serves line = true → (s.home line).owner = none →
    atomSource g e.acc line s = .ok (s.homeData line) s) ∧
  (e.acc.cls = .non ∨ e.acc.cls = .dev ∧ (e.acc.scope = .grp ∨ e.acc.scope = .core) → ∀ line,
    let l1 (t : State) : Option L1Line := Tab.find? (t.core g.core).l1 line
    (∀ o m p d, l1 s = some ⟨.owned o m p, d⟩ → atomSource g e.acc line s = .ok d s) ∧
    ((∀ o m p d, l1 s ≠ some ⟨.owned o m p, d⟩) → (∀ m d, l1 s = some ⟨.noncoh m, d⟩ → m = 0) → s.serves line = true →
      (∀ r, s.rdcLine g.core line = some r → r.dirty = 0) → (s.home line).owner = none → (s.core g.core).setFull line = false →
      ∃ t, atomSource g e.acc line s = .ok (s.homeData line) t ∧ (t.home line).owner = some g.core ∧ t.mem = s.mem ∧
        l1 t = some ⟨.owned (s.home line).wts 0 false, s.homeData line⟩) ∧
    (∀ o m p old (d : LineData) (mask : BitVec 128), l1 s = some ⟨.owned o m p, old⟩ → ∃ t,
      atomWrite g e.acc line d mask s = .ok () t ∧ t.mem = s.mem ∧ t.homes = s.homes ∧
      l1 t = some ⟨.owned o (m ||| mask) p, mixData old d mask⟩)) ∧
  (∀ (line : Nat) (d : LineData) (mask : BitVec 128) (t : State), Memory.wf s.mem = true → e.acc.cls = .dev →
    e.acc.scope = .dev ∨ e.acc.scope = .sys → isLocal line = true → atomWrite g e.acc line d mask s = .ok () t →
    let w := if s.pkg.clock = .stopped then (s.core g.core).pts else serialMax (s.core g.core).pts ((s.home line).rts + 1)
    (t.core g.core).pts = serialMax (s.core g.core).pts w ∧ (s.pkg.clock = .stopped → t.homes = s.homes) ∧
    (s.pkg.clock ≠ .stopped → stale w (t.leadView line) = false → (t.home line).wts = w ∧ (t.home line).rts = w) ∧
    ∀ a, Memory.get t.mem a = if a / 128 = line ∧ mask.getLsbD (a % 128) then (d.bytes[a % 128]?).getD 0
      else Memory.get s.mem a) ∧
  ∀ old b c : Nat, old < 2 ^ (8 * n) → b < 2 ^ (8 * n) → c < 2 ^ (8 * n) →
    let signed (v : Nat) : Int := if v < 2 ^ (8 * n - 1) then v else v - 2 ^ (8 * n)
    let half (v : Nat) : FVal := Fmt.bf16.value (v % 2 ^ 16)
    let bf (v : FVal) : Nat := Fmt.bf16.round .rne 0 false v
    atomNew .add n old b c = (old + b) % 2 ^ (8 * n) ∧
    atomNew .min n old b c = (if signed old ≤ signed b then old else b) ∧ atomNew .minN n old b c = min old b ∧
    atomNew .max n old b c = (if signed old ≤ signed b then b else old) ∧ atomNew .maxN n old b c = max old b ∧
    atomNew .and n old b c = old &&& b ∧ atomNew .or n old b c = old ||| b ∧ atomNew .xor n old b c = old ^^^ b ∧
    atomNew .xchg n old b c = b ∧ atomNew .cas n old b c = (if old = c then b else old) ∧
    atomNew .fadd n old b c =
      Fmt.f32.round .rne 0 false ((Fmt.f32.value (old % 2 ^ 32)).add false (Fmt.f32.value (b % 2 ^ 32))) ∧
    atomNew .bfadd n old b c = bf ((half old).add false (half b)) +
      2 ^ 16 * bf ((half (old / 2 ^ 16)).add false (half (b / 2 ^ 16)))

/-- R49, R51, R52, R53, R56, R76, R78, R79: the moves of copies. A line that the core holds as non-coherent leaves as such by
writing its dirty bytes back before it is held as another kind (when that happens is the model's choice, log 10). RENEW gives
the core a leased copy of an unowned line with rts = SerialMax(rts, pts + LEASE). RECALL, which only the requests that R78 lists let go, moves the owner's dirty
bytes to its write-back buffer; the copy leaves the L1, or stays clean and pinned where a group of the core holds the line. WRITEBACK takes
dirty bytes home: from the buffer or on replacement ownership is given up, for a release it is kept with a clean copy; a
pinned copy is not replaced, and a line with no dirty byte is not written. A write home stamps the line with SerialMax(pts,
rts + 1), and the RDC of the writer's die takes the bytes. Where the spec leaves room it follows logs 27, 33, 44 and 96. Those
clauses are the model's reading. -/
def Obligations.CacheMoves : Prop := ∀ (core line : Nat) (s : State),
  let k := s.core core
  let h := s.home line
  let back (d : LineData) (dirty : BitVec 128) (s1 : State) : Prop :=
    (dirty = 0 ∧ s1 = s) ∨
      (dirty ≠ 0 ∧ ∃ w s0, storeHome core line d dirty s = .ok w s0 ∧ rdcUpdate core line d dirty w s0 = .ok () s1)
  let l1 (t : State) (c : Nat) : Option L1Line := Tab.find? (t.core c).l1 line
  ((∀ dirty d, l1 s core = some ⟨.noncoh dirty, d⟩ → dirty = 0) → (∀ r, s.rdcLine core line = some r → r.dirty = 0) →
    leaveNoncoh core line s = .ok () s) ∧
  (∀ dirty d s1, l1 s core = some ⟨.noncoh dirty, d⟩ → dirty ≠ 0 → remoteTo core line = false → back d dirty s1 →
    leaveNoncoh core line s = .ok () (s1.updCore core fun k => { k with l1 := Tab.put k.l1 line ⟨.noncoh 0, d⟩ })) ∧
  (∀ g r s1, isLocal line = true → s.place (line * 128) = .here → s.loader core line = some g → s.serves line = true →
    leaveNoncoh core line s = .ok () s →
    (h.owner = none ∨ h.owner = some core ∧ Tab.find? k.wb line = none) →
    r = (if s.pkg.clock = .stopped then h.rts else serialMax h.rts (k.pts + s.lease.setWidth 16)) → stampLead r s = .ok () s1 → ∃ t, exec (.renew core line) s = .next t ∧
      t.mem = s.mem ∧ t.lead = s1.lead ∧ (t.home line).wts = h.wts ∧ (t.home line).owner = h.owner ∧
      (stale r (s.leadView line) = false → (t.home line).rts = r) ∧ (t.core core).pts = k.pts ∧
      (∀ w d p old, l1 s core = some ⟨.owned w d p, old⟩ → l1 t core = l1 s core) ∧
      ((∀ w d p old, l1 s core ≠ some ⟨.owned w d p, old⟩) → k.setFull line = false →
        l1 t core = some ⟨.leased h.wts r, s.homeData line⟩) ∧
      (remoteTo core line = true → s.rdcFull (dieOf core) line = false →
        t.rdcLine core line = some ⟨s.homeData line, h.wts, r, false, 0⟩) ∧
      { t.core core with l1 := k.l1 } = k.count g.ctx 5 1 ∧
      (∀ j, j ≠ line → Tab.find? (t.core core).l1 j = Tab.find? k.l1 j) ∧ (∀ c, c ≠ core → t.core c = s.core c) ∧
      { t with cores := s.cores, homes := s.homes, lead := s.lead, leadLog := s.leadLog, rdc := s.rdc } = s) ∧
  (s.loader core line = none → exec (.renew core line) s = .next s) ∧
  (h.owner = none → exec (.recall line) s = .next s) ∧
  (∀ o, h.owner = some o → s.recallWanted o line = false → exec (.recall line) s = .next s) ∧
  (∀ o, s.recallWanted o line = true ↔ h.records ≠ [] ∨
    (h.holder = none ∧ ∃ i g, s.firstWaiter line = some i ∧ s.group? i = some g ∧ g.core ≠ o) ∨
    (∃ w ∈ s.walks, w.core ≠ o ∧ line ∈ s.pathLines w.ctx [w.va]) ∨
    ∃ p ∈ s.groups, p.2.present = true ∧
      ((p.2.core ≠ o ∧ ∃ e ∈ p.2.loads, (e.kind = .load ∨ e.kind = .launch) ∧ e.line? = some line) ∨
       (p.2.core ≠ o ∧ ∃ e ∈ p.2.stores, e.kind ≠ .scratch ∧ e.line? = some line ∧
          (e.acc.scope = .grp ∨ e.acc.scope = .core ∨ e.isAtomic = true)) ∨
       (∃ e ∈ p.2.stores, e.line? = some line ∧ e.isAtomic = true ∧ e.acc.scope = .dev) ∨
       ∃ r rest, p.2.work.recasts = r :: rest ∧ line ∈ s.recastLines p.2.ctx r)) ∧
  (∀ o w dirty pin d, h.owner = some o → s.recallWanted o line = true → l1 s o = some ⟨.owned w dirty pin, d⟩ →
    ∃ t, exec (.recall line) s = .next t ∧ { t with cores := s.cores } = s ∧ (∀ c, c ≠ o → t.core c = s.core c) ∧
      Tab.find? (t.core o).wb line = some (match Tab.find? (s.core o).wb line with
        | none => ⟨d, dirty⟩
        | some b => ⟨mixData b.data d dirty, b.dirty ||| dirty⟩) ∧
      l1 t o = (if s.lockedOn line o then some ⟨.owned w 0 true, d⟩ else none) ∧
      (∀ j, j ≠ line → Tab.find? (t.core o).l1 j = Tab.find? (s.core o).l1 j ∧
        Tab.find? (t.core o).wb j = Tab.find? (s.core o).wb j)) ∧
  (∀ b s1, Tab.find? k.wb line = some b → back b.data b.dirty s1 → ∃ t, exec (.writeback core line .buffer) s = .next t ∧
    t.mem = s1.mem ∧ t.poison = s1.poison ∧ Tab.find? (t.core core).wb line = none ∧ (t.core core).l1 = k.l1 ∧
    ((∃ w d p old, l1 s core = some ⟨.owned w d p, old⟩) → t.homes = s1.homes) ∧
    ((∀ w d p old, l1 s core ≠ some ⟨.owned w d p, old⟩) → (t.home line).owner = none) ∧
    { t with cores := s1.cores, homes := s1.homes } = s1) ∧
  (Tab.find? k.wb line = none → exec (.writeback core line .buffer) s = .next s) ∧
  (∀ b, Tab.find? k.wb line = some b → exec (.writeback core line .release) s = .next s ∧
    exec (.writeback core line .replace) s = .next s) ∧
  (∀ w dirty pin d s1, l1 s core = some ⟨.owned w dirty pin, d⟩ → Tab.find? k.wb line = none → s.releaseWaits core = true →
    back d dirty s1 →
    ∃ t, exec (.writeback core line .release) s = .next t ∧ l1 t core = some ⟨.owned w 0 pin, d⟩ ∧
      (∀ j, j ≠ line → Tab.find? (t.core core).l1 j = Tab.find? k.l1 j) ∧ { t with cores := s1.cores } = s1) ∧
  (s.releaseWaits core = false → exec (.writeback core line .release) s = .next s) ∧
  (s.releaseWaits core = true ↔ ∃ p ∈ s.groups, p.2.present = true ∧ p.2.core = core ∧
    ((∃ e ∈ p.2.stores, (e.acc.order = .rel ∨ e.acc.order = .ar) ∧ (e.acc.scope = .dev ∨ e.acc.scope = .sys)) ∨
     (∃ l ∈ p.2.loads, l.kind = .launch) ∨ p.2.work.recasts ≠ [] ∨ p.2.faults ≠ [] ∨ s.atFence p.2 = true)) ∧
  (∀ g : Group, s.atFence g = true ↔ ∃ w i, s.armWord g = some w ∧ decodeArm w = .ok i ∧
    ((∃ sc o, i = .fence sc o ∧ (sc = .dev ∨ sc = .sys)) ∨ (∃ a b c, i = .launch a b c) ∨ ∃ a b c, i = .rmap a b c)) ∧
  (∀ w dirty d s1, l1 s core = some ⟨.owned w dirty false, d⟩ → Tab.find? k.wb line = none → back d dirty s1 →
    ∃ t, exec (.writeback core line .replace) s = .next t ∧ l1 t core = none ∧ (t.home line).owner = none ∧
      t.mem = s1.mem ∧ { t with cores := s1.cores, homes := s1.homes } = s1) ∧
  (∀ w dirty d, l1 s core = some ⟨.owned w dirty true, d⟩ → exec (.writeback core line .replace) s = .next s) ∧
  (∀ (d : LineData) (mask : BitVec 128) w s1, Memory.wf s.mem = true → storeHome core line d mask s = .ok w s1 →
    (∀ a, Memory.get s1.mem a = if a / 128 = line ∧ mask.getLsbD (a % 128) then (d.bytes[a % 128]?).getD 0
      else Memory.get s.mem a) ∧
    (isLocal line = true → s.pkg.clock ≠ .stopped → w = serialMax k.pts (h.rts + 1) ∧ (s1.home line).owner = h.owner ∧
      (stale w (s.leadView line) = false → (s1.home line).wts = w ∧ (s1.home line).rts = w)) ∧
    (isLocal line = false ∨ s.pkg.clock = .stopped → w = k.pts ∧ s1.homes = s.homes ∧ s1.lead = s.lead))

/-- R43, R77, R97, R98, R99, R100, R101, R102, R106, R107: time. TICK raises a core's pts by one and CYC by the period of the tick that
ends, and starts a tick of TICK cycles; LEAD becomes the later of itself and the new pts. A pending group whose event has occurred is ready with the tick. It is taken by a core whose tick ends
first, once every delivery of FLOOR and every sweep that its end makes due has been made. FLOOR_JUMP takes a core's pts or a Plinth's
FLOOR to FLOOR = LEAD - 2^13. SWEEP drops the leased lines, TLB entries and clean RDC copies more than 2^14 ticks behind their core,
clamps the records of a Plinth that no lock and no copy holds, so that reading them gives what it gave, and marks the frames in
quarantine whose stamp the horizon has passed. A JUMP waits where LEAD would pass its bound. With the clocks stopped none of the
first three does anything. Where the spec leaves room it follows logs 9 and 45. Those clauses are the model's reading. -/
def Obligations.Clocks : Prop := ∀ (s : State) (c p d : Nat) (line : Nat),
  let old (t ref : Time) : Prop := (ref - t).toNat < 2 ^ 15 ∧ 2 ^ 14 < (ref - t).toNat
  let ends (c : Nat) : Nat := (s.core c).cyc.toNat + (s.core c).period
  let waits (every : Nat) (key : Nat) : Prop := s.visit key + every < ends c ∧ s.visit key < s.now
  let first : Prop := (∀ j ≤ 320, ends c ≤ ends j) ∧ (∀ j ≤ 320, ¬ waits 256 j ∧ ¬ waits 16384 (1024 + j)) ∧
    (∀ j < 384, ¬ waits 256 (512 + j) ∧ ¬ waits 16384 (1536 + j)) ∧ ∀ j < 8, ¬ waits 16384 (2048 + j)
  (s.pkg.clock = .stopped → exec (.tick c) s = .next s ∧ exec (.floorJump (.core c)) s = .next s ∧
    exec (.floorJump (.plinth p)) s = .next s ∧ exec (.sweep (.core c)) s = .next s ∧ exec (.sweep (.plinth p)) s = .next s ∧
    exec (.sweep (.die d)) s = .next s) ∧
  (s.pkg.clock ≠ .stopped →
    (c ≤ 320 → ¬ first → exec (.tick c) s = .next s) ∧
    (c ≤ 320 → first → ∃ t, exec (.tick c) s = .next t ∧ (t.core c).pts = (s.core c).pts + 1 ∧
      (t.core c).cyc = (s.core c).cyc + BitVec.ofNat 64 (s.core c).period ∧ (t.core c).period = s.tick.toNat ∧
      { t.core c with pts := (s.core c).pts, cyc := (s.core c).cyc, period := (s.core c).period, seen := (s.core c).seen
                      evcnt := (s.core c).evcnt } = s.core c ∧
      (∀ j, j ≠ c → t.core j = s.core j) ∧ t.lead = serialMax s.lead ((s.core c).pts + 1) ∧ t.now = max s.now (ends c) ∧
      t.leadLog = (if t.lead = s.lead then s.leadLog
        else (t.now, (t.lead - s.lead).toNat) :: s.leadLog.filter fun e => decide (t.now < e.1 + 16384)) ∧
      (∀ j g, s.group? j = some g → ∃ g', t.group? j = some g' ∧
        { g' with requests := g.requests, handler := g.handler, sched := g.sched } = g ∧
        { g'.sched with stalled := g.sched.stalled, ready := g.sched.ready, readyAt := g.sched.readyAt, since := g.sched.since } =
          g.sched ∧
        (¬ (g.present = true ∧ g.core = c) → g'.sched = g.sched) ∧
        (g.sched.active = true → g'.sched.ready = g.sched.ready ∧ g'.sched.readyAt = g.sched.readyAt ∧ g'.sched.since = g.sched.since) ∧
        (g.sched.active = false → g'.sched.stalled = g.sched.stalled ∧
          (g.sched.ready = true ∨ g.hold ≠ .none → g'.sched = g.sched) ∧
          (g'.sched = g.sched ∨ g'.sched.ready = true ∧ g'.sched.readyAt = t.now ∧ g'.sched.since = t.now)) ∧
        (g.present = true → g.core = c → g'.requests = (g.requests.map fun q => { q with ticks := q.ticks + 1 }) ∧
          ∀ h, g.handler = some h → g'.handler =
            some (if g.hold = .suspended then h else { h with ran := h.ran + (s.core c).period })) ∧
        (g.present = true → g.core ≠ c → g' = g)) ∧
      { t with cores := s.cores, groups := s.groups, lead := s.lead, leadLog := s.leadLog, now := s.now } = s) ∧
    (c ≤ 320 → ∃ t, exec (.floorJump (.core c)) s = .next t ∧ { t with cores := s.cores, visits := s.visits } = s ∧
      t.visit c = s.now ∧ (∀ j, j ≠ c → t.visit j = s.visit j) ∧
      (t.core c).pts = serialMax (s.core c).pts (s.lead - 0x2000) ∧ { t.core c with pts := (s.core c).pts } = s.core c ∧
      ∀ j, j ≠ c → t.core j = s.core j) ∧
    (p < 384 → ∃ t, exec (.floorJump (.plinth p)) s = .next t ∧ { t with plinths := s.plinths, visits := s.visits } = s ∧
      t.visit (512 + p) = s.now ∧ (∀ j, j ≠ 512 + p → t.visit j = s.visit j) ∧
      t.plinth p = { s.plinth p with floor := s.lead - 0x2000 } ∧ ∀ j, j ≠ p → t.plinth j = s.plinth j) ∧
    (c ≤ 320 → ∃ t, exec (.sweep (.core c)) s = .next t ∧ { t with cores := s.cores, rdc := s.rdc, visits := s.visits } = s ∧
      t.visit (1024 + c) = s.now ∧ (∀ j, j ≠ 1024 + c → t.visit j = s.visit j) ∧
      (∀ x, x ∈ (t.core c).l1 ↔ x ∈ (s.core c).l1 ∧ ∀ w r, x.2.kind = .leased w r → ¬ old r (s.core c).pts) ∧
      (∀ x, x ∈ (t.core c).tlb ↔ x ∈ (s.core c).tlb ∧ ¬ old x.lease (s.core c).pts) ∧
      (∀ x, x ∈ t.rdc ↔ x ∈ s.rdc ∧
        ¬ (c < 320 ∧ x.1 / 2 ^ 45 = c / 40 ∧ x.2.noncoh = false ∧ old x.2.rts (s.core c).pts)) ∧
      { t.core c with l1 := (s.core c).l1, tlb := (s.core c).tlb } = s.core c ∧ ∀ j, j ≠ c → t.core j = s.core j) ∧
    (p < 384 → ∃ t, exec (.sweep (.plinth p)) s = .next t ∧
      { t with homes := s.homes, plinths := s.plinths, visits := s.visits } = s ∧
      t.visit (1536 + p) = s.now ∧ (∀ j, j ≠ 1536 + p → t.visit j = s.visit j) ∧
      t.home line = s.home line ∧ ¬ old (t.plinth p).summary ((s.plinth p).floor + 0x2000) ∧
      (t.plinth p).floor = (s.plinth p).floor ∧ (∀ j, j ≠ p → t.plinth j = s.plinth j) ∧
      ∀ h, Tab.find? t.homes line = some h → plinthOf line = p → isLocal line = true → s.blocked line = false →
        ¬ old h.wts (s.leadView line) ∧ ¬ old h.rts (s.leadView line)) ∧
    (d < 8 → ∃ t, exec (.sweep (.die d)) s = .next t ∧ { t with rdc := s.rdc, ctxs := s.ctxs, visits := s.visits } = s ∧
      t.visit (2048 + d) = s.now ∧ (∀ j, j ≠ 2048 + d → t.visit j = s.visit j) ∧
      (∀ x, x ∈ t.rdc ↔ x ∈ s.rdc ∧ ¬ (x.1 / 2 ^ 45 = d ∧ x.2.noncoh = false ∧
        ∃ i < 40, old x.2.rts (s.core (40 * d + i)).pts)) ∧
      ∀ k < 16, { t.ctx k with quarantine := (s.ctx k).quarantine } = s.ctx k ∧
        (t.ctx k).quarantine = (s.ctx k).quarantine.map fun q =>
          { q with due := q.due || (pairOf (q.pfn * 65536) == d && decide ((s.horizon - q.stamp).toNat < 2 ^ 15)) })) ∧
  ∀ tm : Time,
    let new := serialMax (s.core c).pts tm
    let ok : Prop := s.now < ends c ∧ LeadTakes s new
    (s.pkg.clock = .stopped → jump c tm s = .ok () s) ∧ (s.pkg.clock ≠ .stopped → ok → ∃ t, jump c tm s = .ok () t ∧ (t.core c).pts = new ∧ { t.core c with pts := (s.core c).pts } = s.core c ∧
      (∀ j, j ≠ c → t.core j = s.core j) ∧ t.lead = serialMax s.lead new ∧
      { t with cores := s.cores, lead := s.lead, leadLog := s.leadLog } = s) ∧
    (s.pkg.clock ≠ .stopped → ¬ ok → ∃ s1, jump c tm s = .error .wait s1)

/-- R14, R80, R81, R269, R278, R279, R280, R281: the engine's moves. ENGINE_READ keeps one source line, as it stood before the
command's first write; a read that faults stalls the command, and one that gets an error response marks it, raises ERRRESP and goes on. ENGINE_WRITE writes one destination line at home once its
sources are read and its range record is the oldest there, takes the record off, and keeps the latest wts; a CPYOB writes its
slot. The last line ends the command: it leaves the engine, its status stays among the 64 most recent of its context, its counter
falls, and the core JUMPs to the latest wts it wrote, while a clock runs. Which byte goes where is said for each command: the pieces that
it copies, the physical bytes they come to, and the byte each of these takes, data before padding and a later row before an earlier; and
the tile that a CPYOB writes. A FRED whose last source line is read gives the switch its elements, each as a whole number of the grid's
steps, and one that would add up poison faults instead; a contribution that does not match the open reduction only sets ERR. FRED_REDUCE
waits for every contribution, and the root writes the rounded sum, or a NaN where an element had one. Where the spec leaves room it
follows logs 54, 57, 59, 69, 70, 92, 114 and 118. Those clauses are the model's reading. -/
def Obligations.CopyMoves : Prop := ∀ (core : Nat) (id : BitVec 16) (s : State) (k : Cmd), s.cmd? core id = some k →
  let own := s.pkg.fabricNo.toNat
  (∀ va, k.stalled = true → exec (.engineRead core id va) s = .next s) ∧
  (∀ line, k.stalled = true ∨ line ∉ k.todo → exec (.engineWrite core id line) s = .next s) ∧
  (∀ va key a, k.stalled = false → (s.unread k).find? (fun x => x.1 % 2 ^ 64 == va.toNat / 128 * 128) = some (key, a) →
    let poisoned (d : LineData) : Prop := ∃ i < bitsOf k.block.arg 31 0 * (if bitsOf k.block.arg 35 32 = 1 then 2 else 4),
      (k.block.src.toNat + i) / 128 = a / 128 ∧ d.poison.getLsbD ((k.block.src.toNat + i) % 128 / 32) = true
    (∀ pa s1, sourcePa core k key (BitVec.ofNat 64 a) s = .ok (.ok pa) s1 → s1.cmd? core id = some k →
      s1.place pa = .here → (s1.home (lineOf pa)).held = false → s1.olderRecord k (lineOf pa) = false → k.kind = .fred → a < 2 ^ 64 →
      (poisoned (s1.sourceData k (lineOf pa)) → ∀ t, stallCmd core k ⟨8, 0, BitVec.ofNat 64 a, 0⟩ s1 = .ok () t →
        exec (.engineRead core id va) s = .next t) ∧
      (¬ poisoned (s1.sourceData k (lineOf pa)) → (∀ x ∈ s.unread k, x.1 = key) →
        let sent := s1.updCore core fun c => { c with engine := c.engine.map fun x => if x.id = k.id then { x with running := true, read := x.read ++ [⟨key, s1.sourceData k (lineOf pa), false⟩] } else x }
        ∀ t, fredSend core k.id sent = .ok () t → exec (.engineRead core id va) s = .next t)) ∧
    (∀ pa s1, sourcePa core k key (BitVec.ofNat 64 a) s = .ok (.ok pa) s1 → s1.cmd? core id = some k →
      s1.place pa = .here → (s1.home (lineOf pa)).held = false → s1.olderRecord k (lineOf pa) = false →
      (k.kind = .fred → a < 2 ^ 64 ∧ ¬ poisoned (s1.sourceData k (lineOf pa)) ∧ ∃ x ∈ s.unread k, x.1 ≠ key) →
      ∃ t, exec (.engineRead core id va) s = .next t ∧ { t with cores := s1.cores } = s1 ∧
        (∀ c, c ≠ core → t.core c = s1.core c) ∧
        t.cmd? core id = some { k with running := true, read := k.read ++ [⟨key, s1.sourceData k (lineOf pa), false⟩] } ∧
        ((∀ o ∈ k.done, o.line ≠ lineOf pa) → s1.sourceData k (lineOf pa) = s1.homeData (lineOf pa))) ∧
    (∀ pa s1, sourcePa core k key (BitVec.ofNat 64 a) s = .ok (.ok pa) s1 → s1.place pa = .here →
      s1.olderRecord k (lineOf pa) = true → exec (.engineRead core id va) s = .next s) ∧
    (∀ f s1 t, sourcePa core k key (BitVec.ofNat 64 a) s = .ok (.error f) s1 → stallCmd core k f s1 = .ok () t →
      exec (.engineRead core id va) s = .next t) ∧
    (∀ pa s1 s3 g, k.kind ≠ .fred → k.kind ≠ .dup → sourcePa core k key (BitVec.ofNat 64 a) s = .ok (.ok pa) s1 → s1.place pa = .error →
      s1.group? k.group = some g →
      raise k.group k.level [⟨BitVec.ofNat 64 a, k.id.setWidth 64, k.at_, 0, 3, 0, false, 11, 0, false, 0, false⟩]
        ((s1.updCtx k.ctx fun x => { x with errKind := 4, errCount := if x.errCount = 255 then 255 else x.errCount + 1
                                            errAddr := BitVec.ofNat 52 pa }).updCore core fun c =>
          { c with engine := c.engine.map fun x => if x.id = k.id then { x with err := true } else x }) = .ok () s3 →
      exec (.engineRead core id va) s = .next (takeMove s3 (keepRead core k key ⟨Vector.replicate 128 0, 0⟩ true)))) ∧
  (∀ f g, s.group? k.group = some g → (g.work.priv = false ∨ k.level ≠ g.level ∨ k.level = 0) →
    stallCmd core k f s = raise k.group k.level
        [⟨f.va, k.id.setWidth 64, k.at_, 0, 3, 0, false, f.cls, f.sub, false, 0, false⟩]
        (s.updCore core fun c => { c with engine := c.engine.map fun x =>
          if x.id = k.id then { x with stalled := true, until_ := g.nextEntry } else x })) ∧
  (∀ line, k.stalled = false → line ∈ k.todo → k.kind ≠ .fred → k.kind ≠ .cpyob →
    let runs := (k.runs own).filter (·.line == line)
    let known : Prop := ∀ r ∈ runs, r.piece.pad = true ∨
      ∀ x ∈ sourceLines (r.piece.src + BitVec.ofNat 64 r.at_, r.piece.spkg, r.n), ∃ y ∈ k.read, y.va = x.1
    (known → s.recordOldest core id line = true → s.place (line * 128) = .here → isLocal line = true →
      (s.home line).owner = none → ∀ d mask w s1, k.outLine runs = (d, mask) → s.open_ line mask ≠ 0 →
      storeHome core line d (s.open_ line mask) s = .ok w s1 →
      ((∃ l ∈ k.todo, l ≠ line) → ∃ t, exec (.engineWrite core id line) s = .next t ∧ t.mem = s1.mem ∧ t.poison = s1.poison ∧
        t.cmd? core id = some { k with
          todo := k.todo.filter (· != line), done := ⟨line, s.homeData line⟩ :: k.done, running := true
          lastWts := some (match k.lastWts with
            | none => w
            | some b => serialMax w b) } ∧
        (t.home line).records = (s1.home line).records.filter (· != (core, id)) ∧
        (∀ j, j ≠ line → Tab.find? t.homes j = Tab.find? s1.homes j) ∧ { t with cores := s1.cores, homes := s1.homes } = s1) ∧
      (∀ t, lineDone core id line (some (s.homeData line)) (some w) s1 = .ok () t →
        exec (.engineWrite core id line) s = .next t)) ∧
    (known → s.recordOldest core id line = true → s.place (line * 128) = .here → isLocal line = true → (s.home line).owner = none →
      s.open_ line (k.outLine runs).2 = 0 → ∀ t, lineDone core id line none none s = .ok () t →
        exec (.engineWrite core id line) s = .next t) ∧
    (s.place (line * 128) = .here → isLocal line = true → (s.home line).records.head? ≠ some (core, id) →
      exec (.engineWrite core id line) s = .next s)) ∧
  (∀ line, k.stalled = false → line ∈ k.todo → k.kind = .cpyob → s.unread k = [] → s.slotBusy k = false →
    ∀ r t, s.obSlot k = some r → finishCmd core id { s with teams := Tab.modify s.teams k.team fun T =>
        { T with slots := Tab.put T.slots (k.block.dst.toNat % 64) (k.tile r) } } = .ok () t →
      exec (.engineWrite core id line) s = .next t) ∧
  (∀ flt, (∀ w, k.lastWts = some w → s.pkg.clock ≠ .stopped → s.now < (s.core core).cyc.toNat + (s.core core).period ∧
      LeadTakes s (serialMax (s.core core).pts w)) → ∃ t, endCmd core k flt s = .ok () t ∧ t.cmd? core k.id = none ∧
    ((s.core core).engine.countP (fun x => x.id != k.id && x.ctx == k.ctx && decide (k.iseq < x.iseq)) +
        (s.core core).status.countP (fun x => x.ctx == k.ctx && decide (k.iseq < x.iseq)) < 64 → (t.core core).status.head? = some ⟨k.id, k.ctx, k.iseq, k.oor, flt, k.err⟩) ∧
    (t.core core).pts = (match k.lastWts with
      | none => (s.core core).pts
      | some w => if s.pkg.clock = .stopped then (s.core core).pts else serialMax (s.core core).pts w) ∧ t.mem = s.mem ∧
    ∀ g, s.group? k.group = some g → k.level = g.level → t.group? k.group = some { g with
      work := { g.work with cnt := g.work.cnt.upd (if k.kind = .dup then .rcc else .cpc) (· - 1) } }) ∧
  (∀ (tag : BitVec 16) (f : Fred), Tab.find? s.pkg.freds tag.toNat = some f →
    let shut (s1 : State) : State := { s1 with pkg := { s1.pkg with freds := Tab.erase s1.pkg.freds tag.toNat } }
    (f.got ≠ f.contribs → exec (.fredReduce tag) s = .next s) ∧
    (f.got = f.contribs → f.root ≠ s.pkg.fabricNo → exec (.fredReduce tag) s = .next (shut s)) ∧
    (f.got = f.contribs → f.root = s.pkg.fabricNo → f.dest = some (core, id) → ∀ s1, fredWrite core k f.bytes s = .ok () s1 →
      exec (.fredReduce tag) s = .next (shut s1))) ∧
  ∀ (x : BitVec 8) (sum : Int) (bad : Bool),
    let t := if sum < -(2 ^ 127 : Int) then -(2 ^ 127 : Int) else if 2 ^ 127 - 1 < sum then 2 ^ 127 - 1 else sum
    let y : Exact := ⟨decide (t < 0), t.natAbs, x.toInt - 64, false⟩
    fredResult 0 x sum bad = (if bad then 0x7FC00000 else Fmt.f32.round .rne 0 false (.fin y)) ∧
    fredResult 1 x sum bad = (if bad then 0x7FC0 else Fmt.bf16.round .rne 0 false (.fin y)) ∧
    (∀ n, FirstStage .rne 0 y.neg (y.m * 2 ^ y.e.toNat) (-y.e).toNat n →
      let v : Int := if y.neg then -n else n
      fredResult 6 x sum bad = (BitVec.ofInt 32 (if v < -(2 ^ 31 : Int) then -(2 ^ 31 : Int) else if 2 ^ 31 - 1 < v then 2 ^ 31 - 1 else v)).toNat) ∧
    (∀ (ty bits : Nat), let q := x.toInt - 64
      let steps (neg : Bool) (m : Nat) (e : Int) : Prop := ∃ n : Nat, FirstStage .rne 0 neg (m * 2 ^ (e - q).toNat) (q - e).toNat n ∧
        contribution ty x bits = some (if neg then -(n : Int) else n)
      let float (v : FVal) : Prop := match v with
        | .fin z => steps z.neg z.m z.e
        | _ => contribution ty x bits = none
      (ty = 0 → float (Fmt.f32.value bits)) ∧ (ty = 1 → float (Fmt.bf16.value bits)) ∧
      (ty = 6 → steps (BitVec.ofNat 32 bits).msb (BitVec.ofNat 32 bits).toInt.natAbs 0)) ∧
    let b := k.block
    let count := bitsOf b.arg 31 0
    let ty := bitsOf b.arg 35 32
    let size := if ty = 1 then 2 else 4
    let source (v : Nat) (pkg : Option Nat) : Option (Byte × Bool × Bool) :=
      (k.read.find? fun r => r.va == v / 128 * 128 + 2 ^ 64 * (match pkg with
        | none => 0
        | some p => p + 1)).map fun r =>
        ((r.data.bytes[v % 128]?).getD 0, r.data.poison.getLsbD (v % 128 / 32), r.bad)
    let near (a : DWord) (d : Int) : DWord := a + BitVec.ofInt 64 d
    let stride (v : DWord) (lo : Nat) : Int := (v.extractLsb' lo 32).toInt
    (k.elements.length = count ∧ ∀ e < count,
      let bytes := (List.range size).map fun i => (source (b.src + BitVec.ofNat 64 (e * size + i)).toNat none).getD (0, false, true)
      k.elements[e]? = some (if bytes.any (·.2.2) then some 0
        else contribution ty (b.arg.extractLsb' 40 8) (leVal (bytes.map (·.1))))) ∧
    (let tag := bitsOf b.ext0 15 0
      let root := b.ext0.extractLsb' 24 8
      let began : Fred := { count := count, ty := b.arg.extractLsb' 32 4, x := b.arg.extractLsb' 40 8, contribs := bitsOf b.ext0 23 16 + 1
                            root := root, got := 0, sum := List.replicate count 0, bad := List.replicate count false, dest := none }
      let f := (Tab.find? s.pkg.freds tag).getD began
      let same : Prop := f.count = count ∧ f.ty = began.ty ∧ f.x = began.x ∧ f.contribs = began.contribs ∧ f.root = root
      let full : Prop := ∃ o, Tab.find? s.pkg.freds tag = some o ∧ o.contribs ≤ o.got
      let marked (m : Cmd → Cmd) (s : State) : State :=
        s.updCore core fun c => { c with engine := c.engine.map fun x => if x.id = id then m x else x }
      (full → ∃ s1, fredSend core id s = .error .wait s1) ∧
      (¬ full → ¬ same → ∀ t k', (marked ({ · with err := true }) s).cmd? core id = some k' →
        endCmd core k' false (marked ({ · with err := true }) s) = .ok () t → fredSend core id s = .ok () t) ∧
      (¬ full → same →
        let next : Fred := { f with
          got := f.got + 1, sum := (f.sum.zip k.elements).map (fun (a, v) => a + v.getD 0)
          bad := (f.bad.zip k.elements).map (fun (a, v) => a || v.isNone)
          dest := if root = s.pkg.fabricNo then some (core, id) else f.dest }
        let s1 : State := { s with pkg := { s.pkg with freds := Tab.put s.pkg.freds tag next } }
        (root = s.pkg.fabricNo → fredSend core id s = .ok () (marked ({ · with sent := true }) s1)) ∧
        (root ≠ s.pkg.fabricNo → ∀ t, endCmd core k false s1 = .ok () t → fredSend core id s = .ok () t))) ∧
    (∀ f : Fred, f.sum.length = f.bad.length → let w := if f.ty = 1 then 2 else 4
      f.bytes.length = f.sum.length * w ∧ ∀ (e : Nat) (v : Int) (n : Bool), f.sum[e]? = some v → f.bad[e]? = some n →
        (f.bytes.drop (e * w)).take w = leBytesOf w (fredResult f.ty.toNat f.x v n)) ∧
    (∀ bytes units t, (∀ line ∈ k.todo, s.recordOldest core k.id line = true) →
      let mine (line : Nat) : List Run := (k.runs own).filter (·.line == line)
      RunsAll (fun line => writeOut core k line (firstVa (mine line))
        ⟨Vector.ofFn fun i : Fin 128 => (((mine line).filter fun r => decide (r.off ≤ i.val ∧ i.val < r.off + r.n)).getLast?.bind fun r =>
          bytes[r.at_ + (i.val - r.off)]?).getD 0, 0⟩ (runMask (mine line))) k.todo s units t →
      k.kind = .fred → fredWrite core k bytes s = .ok () t) ∧
    -- the pieces of each command
    (k.kind = .cpy → k.pieces = if b.arg = 0 then [] else [⟨b.dst, none, b.arg.toNat, b.src, none, false⟩]) ∧
    (k.kind = .dup → k.pieces = [⟨b.dst, none, 65536, b.src, none, false⟩]) ∧
    (k.kind = .fred → k.pieces = [⟨b.dst, none, count * size, 0, none, true⟩]) ∧
    (k.kind = .cpys →
      let n1 := bitsOf b.arg 47 32
      let n2 := bitsOf b.arg 63 48
      let n3 := bitsOf b.ext0 15 0
      let dim := bitsOf b.ext0 17 16
      let e := bitsOf b.ext0 47 32
      let len := bitsOf b.arg 31 0
      (len = 0 → k.pieces = []) ∧ (0 < len → k.pieces.length = n1 * n2 * n3) ∧
      (0 < len → ∀ i1 < n1, ∀ i2 < n2, ∀ i3 < n3,
        let at_ (near_ : Bool) (base : DWord) (t1 t2 t3 : Int) : DWord :=
          let one (d i : Nat) : Int := if near_ ∧ dim = d then ((i % e : Nat) : Int) else i
          near base (one 1 i1 * t1 + one 2 i2 * t2 + one 3 i3 * t3)
        let shard : Option Nat := match dim with
          | 0 => none
          | 1 => some ((bitsOf b.ext0 55 48 + i1 / e) % 256)
          | 2 => some ((bitsOf b.ext0 55 48 + i2 / e) % 256)
          | _ => some ((bitsOf b.ext0 55 48 + i3 / e) % 256)
        let shd := b.flags.getLsbD 2
        k.pieces[(i3 * n2 + i2) * n1 + i1]? = some {
          dst := at_ shd b.dst (stride b.ext2 32) (stride b.ext3 0) (stride b.ext3 32), dpkg := if shd then shard else none, n := len
          src := at_ (!shd) b.src (stride b.ext1 0) (stride b.ext1 32) (stride b.ext2 0), spkg := if shd then none else shard
          pad := false })) ∧
    (k.kind = .cpyw →
      let w := bitsOf b.arg 15 0
      let h := bitsOf b.arg 31 16
      let kh := bitsOf b.arg 39 32
      let kw := bitsOf b.arg 47 40
      let st := bitsOf b.arg 51 48
      let p := bitsOf b.arg 55 52
      let n := 2 ^ bitsOf b.arg 57 56
      let oh := (h + 2 * p - kh) / st + 1
      let ow := (w + 2 * p - kw) / st + 1
      k.pieces.length = oh * ow * kh * kw ∧ ∀ oy < oh, ∀ ox < ow, ∀ ky < kh, ∀ kx < kw,
        let y : Int := (oy * st + ky : Nat) - (p : Int)
        let x : Int := (ox * st + kx : Nat) - (p : Int)
        let r := oy * ow + ox
        k.pieces[(r * kh + ky) * kw + kx]? = some {
          dst := b.dst + BitVec.ofNat 64 (r * kh * kw * n + (ky * kw + kx) * n), dpkg := none, n := n
          src := near b.src (y * stride b.ext0 0 + x * n), spkg := none
          pad := decide (¬ (0 ≤ y ∧ y < h ∧ 0 ≤ x ∧ x < w)) }) ∧
    (let rowBytes := bitsOf b.arg 31 0
      let inRange (i : Word) : Bool := !i.getLsbD 31 && decide (i.toNat < bitsOf b.ext1 31 0)
      let step := stride b.ext2 0
      (k.kind = .gath → k.pieces.length = k.index.length ∧ ∀ (n : Nat) (i : Word), k.index[n]? = some i →
        k.pieces[n]? = some ⟨b.dst + BitVec.ofNat 64 (n * rowBytes), none, rowBytes, near b.src (i.toNat * step), none, !inRange i⟩) ∧
      (k.kind = .scat → k.pieces = ((List.range k.index.length).filter fun n => inRange (k.index[n]?.getD 0)).map fun n =>
        ⟨near b.dst ((k.index[n]?.getD 0).toNat * step), none, rowBytes, b.src + BitVec.ofNat 64 (n * rowBytes), none, false⟩)) ∧
    -- the bytes of memory that the pieces come to
    ((∀ p ∈ k.pages, p.pa % 65536 = 0) →
      ((k.runs own).flatMap fun r => (List.range r.n).map fun i => (r.piece, r.at_ + i, r.line * 128 + r.off + i)) =
        k.pieces.flatMap fun p => (List.range p.n).filterMap fun j =>
          let v := p.dst.toNat + j
          if k.kind = .dup then some (p, j, v) else (k.pages.find? fun x => x.page == v / 65536).map fun x =>
            let pa := x.pa + v % 65536
            (p, j, match p.dpkg with
              | none => pa
              | some f => if f = own then pa % 2 ^ 41 else 2 ^ 49 + f * 2 ^ 41 + pa % 2 ^ 41)) ∧
    ((∀ p ∈ k.pages, p.pa % 65536 = 0) → ∀ r ∈ k.runs own, 0 < r.n ∧ r.off + r.n ≤ 128) ∧
    -- what each byte of a line takes
    (∀ (runs : List Run) (i : Nat), i < 128 →
      let covering := runs.filter fun r => decide (r.off ≤ i ∧ i < r.off + r.n)
      let takes (i : Nat) (covering : List Run) : Option (Byte × Bool × Bool) := match (covering.filter fun r => !r.piece.pad).getLast?, covering.getLast? with
        | some r, _ => source (r.piece.src + BitVec.ofNat 64 (r.at_ + (i - r.off))).toNat r.piece.spkg
        | none, some r => some (b.flags.extractLsb' (32 + 8 * ((r.at_ + (i - r.off)) % 4)) 8, false, false)
        | none, none => none
      ((k.outLine runs).2.getLsbD i = true ↔ ∃ v p, takes i covering = some (v, p, false)) ∧
      (∀ v p, takes i covering = some (v, p, false) → (k.outLine runs).1.bytes[i]? = some v) ∧
      ∀ j < 4, ((k.outLine runs).1.poison.getLsbD j = true ↔ ∃ i, 32 * j ≤ i ∧ i < 32 * j + 32 ∧ ∃ v,
        takes i (runs.filter fun r => decide (r.off ≤ i ∧ i < r.off + r.n)) = some (v, true, false))) ∧
    -- the tile of a CPYOB
    ∀ old : SlotRec, k.kind = .cpyob → old.fmt ≠ .acc →
      let qnt := b.flags.getLsbD 1
      let w := if old.fmt = .bf16 then 2 else if qnt then 4 else 1
      let rows := if old.fmt = .bf16 then 64 else 128
      let byte (r i : Nat) : Byte × Bool × Bool := (source (near b.src (r * stride b.arg 0) + BitVec.ofNat 64 i).toNat none).getD (0, false, true)
      let elem (r j : Nat) : Nat := leVal ((List.range w).map fun i => (byte r (j * w + i)).1)
      let bad (r j : Nat) : Prop := ∃ i < w, (byte r (j * w + i)).2.2 = true
      let t := k.tile old
      let value (r j : Nat) : Word := Tab.get t.data (r * 128 + j) 0
      { t with data := old.data, scale := old.scale, tpois := old.tpois } = old ∧
      (∀ r < rows, ∀ j < 128, bad r j → value r j = Tab.get old.data (r * 128 + j) 0) ∧
      (qnt = false → t.scale = b.arg.extractLsb' 32 32 ∧ ∀ r < rows, ∀ j < 128, ¬ bad r j → value r j = BitVec.ofNat 32 (elem r j)) ∧
      (qnt = true → old.fmt ≠ .bf16 → ∀ top : Word,
        (∀ r < rows, ∀ j < 128, ¬ bad r j → elem r j % 2 ^ 31 ≤ top.toNat) →
        (top = 0 ∨ ∃ r < rows, ∃ j < 128, ¬ bad r j ∧ elem r j % 2 ^ 31 = top.toNat) →
        let ty : F8 := if old.fmt = .e5m2 then .e5m2 else .e4m3
        let s := blockScale ty (decide (0x7F800000 ≤ top.toNat)) top
        t.scale = s.1 ∧ ∀ r < rows, ∀ j < 128, ¬ bad r j → value r j = BitVec.ofNat 32
          ((if ty = .e5m2 then Fmt.e5m2 else Fmt.e4m3).round .rne 0 true ((Fmt.f32.value (elem r j)).mul (f32Value s.2.1)))) ∧
      ((∀ r < rows, (near b.src (r * stride b.arg 0)).toNat + w * 128 ≤ 2 ^ 64) → (t.tpois = true ↔ ∃ r < rows, ∃ i < w * 128, ∃ v x, source (near b.src (r * stride b.arg 0) + BitVec.ofNat 64 i).toNat none = some (v, true, x)))

/-- R8, R90, R125, R126, R164, R282, R283, R284, R285, R286, R287, R288, R310, R312, R326: launching. QUEUE_HEAD_CHECK reads an entry of
the host in the ring, behind what the host has written, passes it exactly when R286 finds nothing wrong and else writes its rejection
code; DEPENDENCE_READ compares the word by COND; GRID_START takes
the eligible entry with the highest launch priority, then the earliest eligible, then the lowest queue; PLACE puts the next
team in visit order on the first core with room, each group with the registers of R126 and R164, and waits for a launch that comes
before its own; COMPLETION_WORD_WRITE writes the dirty bytes of the grid's cores home and then the word, from a core that has gone to
LEAD. A completion word whose write faults, by its alignment too, leaves ERRLOG with kind 2; the NOTIFY signal is sent then as well.
Where the spec leaves room it follows logs 60, 62, 63, 64, 77, 78, 81 and 109. Those clauses are the model's reading. -/
def Obligations.Launching : Prop := ∀ (s : State) (q : Nat),
  let x := s.queue q
  let pop (grid : Option Nat) (s1 : State) : State :=
    s1.updQueue q fun x => { x with entries := x.entries.drop 1, head := x.head + 1, lastGrid := grid }
  let put (f : QEntry → QEntry) (s1 : State) : State := s1.updQueue q fun x => { x with entries := match x.entries with
    | e :: rest => f e :: rest
    | [] => [] }
  let noted (s1 t : State) : Prop := noteEligible s1 = .ok () t
  (∀ s1, ∃ t, noted s1 t ∧ { t with queues := s1.queues, nextSeq := s1.nextSeq } = s1) ∧
  (s.computes = false → exec (.queueHeadCheck q) s = .next s ∧ exec (.dependenceRead q) s = .next s ∧
    exec .gridStart s = .next s ∧ exec (.place q) s = .next s) ∧
  (∀ c e rest, s.computes = true → x.ctx = some c → x.entries = e :: rest → (s.ctx c).state = .open →
    let rejects (e : QEntry) (code : Nat) (i : Instr) (s0 : State) : Prop := ∀ s1 t,
      writeCompletion (s0.partCore [] q) c q code (2 ^ 63 + code) e.packet.done s0 = .ok () s1 → noted (pop none s1) t → exec i s = .next t
    let host := (s.core 320).pts
    let ring (k : Nat) (s1 : State) := partLoad (s.partCore [] q) c (x.base + BitVec.ofNat 64 (128 * k)) 128 s1
    let reads (e' : QEntry) (s0 : State) : Prop := (e.unread = none ∧ e' = e ∧ s0 = s) ∨ ∃ k s1 image w s2, e.unread = some k ∧
      jump (s.partCore [] q) host s = .ok () s1 ∧ ring k s1 = .ok (.ok (image, w)) s2 ∧ s2.queues = s.queues ∧
      e' = { e with image := image, unread := none } ∧ s0 = put (fun _ => e') s2
    (e.checked = true → exec (.queueHeadCheck q) s = .next s) ∧
    (e.checked = false → ∀ k s1 f s2, e.unread = some k → jump (s.partCore [] q) host s = .ok () s1 →
      ring k s1 = .ok (.error f) s2 → exec (.queueHeadCheck q) s = .next s) ∧
    (e.checked = false → ∀ e' s0, reads e' s0 →
      (e'.check = none → ∀ t, noted (put (fun e => { e with checked := true, depMet := e.daddr == 0 || e.cond == 0 }) s0) t →
        exec (.queueHeadCheck q) s = .next t) ∧
      ∀ code, e'.check = some code → rejects e' code (.queueHeadCheck q) s0) ∧
    (e.checked = true → e.depMet = false → ∀ bs w s1, partLoad (s.partCore [] q) c e.daddr 8 s = .ok (.ok (bs, w)) s1 →
      s1.queues = s.queues →
      let met : Bool := if e.cond = 1 then leVal bs == e.dval else decide (e.dval ≤ leVal bs)
      (met = false → exec (.dependenceRead q) s = .next s1) ∧
      (met = true → ∀ t, noted (put ({ · with depMet := true, depTime := w }) s1) t → exec (.dependenceRead q) s = .next t)) ∧
    (e.checked = true → e.depMet = false → ∀ f s1, partLoad (s.partCore [] q) c e.daddr 8 s = .ok (.error f) s1 →
      rejects e 0x09 (.dependenceRead q) s1)) ∧
  (∀ core c code value va s1, releaseCore core s = .ok () s1 →
    let word := partStore core c va (leBytesOf 8 value) s1
    let logged (s2 : State) : State := s2.updCtx c fun y => { y with
      errKind := 2, errCount := if y.errCount = 255 then 255 else y.errCount + 1, errAddr := BitVec.ofNat 52 (code + q % 64 * 256) }
    let writes := writeCompletion core c q code value va s
    (va.toNat % 8 ≠ 0 → writes = .ok () (logged s1)) ∧
    (va.toNat % 8 = 0 → ∀ y s2, word = .ok (.ok y) s2 → writes = .ok () s2) ∧
    (va.toNat % 8 = 0 → ∀ f s2, word = .ok (.error f) s2 → writes = .ok () (logged s2))) ∧
  (∀ e : QEntry, let p := e.packet
    e.check = none ↔ (1 ≤ p.groups ∧ p.groups ≤ 16 ∧ p.counts.sum = p.groups) ∧
      (∀ y ∈ p.counts.zip p.budgets, y.1 ≠ 0 → 8 ≤ y.2 ∧ y.2 ≤ 224) ∧ p.teamRegs ≤ 4096 ∧
      (p.scratch % 1024 = 0 ∧ p.scratch ≤ 524288) ∧ (p.obuf % 16384 = 0 ∧ p.obuf ≤ 1048576) ∧
      (p.curve.toNat ≤ 3 ∧ p.tile.toNat ≤ 15) ∧ e.reserved = false ∧
      (p.bar % 8 = 0 ∧ p.entry.toNat % 4 = 0 ∧ p.table.toNat % 8 = 0 ∧ p.done.toNat % 8 = 0 ∧ e.daddr.toNat % 8 = 0) ∧
      p.gx * p.gy * p.gz ≤ 2 ^ 32) ∧
  (∀ e : QEntry, let p := e.packet
    let byte (i : Nat) : Nat := ((e.image[i]?).getD 0).toNat
    let wrong (code : Nat) : Prop :=
      code = 1 ∧ ¬ (1 ≤ p.groups ∧ p.groups ≤ 16 ∧ p.counts.sum = p.groups) ∨
      code = 2 ∧ (∃ y ∈ p.counts.zip p.budgets, y.1 ≠ 0 ∧ (y.2 < 8 ∨ 224 < y.2)) ∨
      code = 3 ∧ 4096 < ((p.counts.zip p.budgets).map fun y => y.1 * y.2).sum ∨
      code = 4 ∧ (p.scratch % 1024 ≠ 0 ∨ 524288 < p.scratch) ∨ code = 5 ∧ (p.obuf % 16384 ≠ 0 ∨ 1048576 < p.obuf) ∨
      code = 6 ∧ (3 < p.curve.toNat ∨ 15 < p.tile.toNat) ∨
      code = 7 ∧ (2 < byte 0x10 ∨ 16 ≤ byte 0x11 ∨ 4 ≤ byte 0x12 + 256 * byte 0x13 ∨ (∃ i, 0x14 ≤ i ∧ i < 0x20 ∧ byte i ≠ 0) ∨
        (∃ i, 0x20 ≤ i ∧ i < 0x40 ∧ byte i ≠ 0) ∨ 32 ≤ p.flags.toNat) ∨
      code = 8 ∧ (p.bar % 8 ≠ 0 ∨ p.entry.toNat % 4 ≠ 0 ∨ p.table.toNat % 8 ≠ 0 ∨ p.done.toNat % 8 ≠ 0 ∨ e.daddr.toNat % 8 ≠ 0) ∨
      code = 10 ∧ 2 ^ 32 < p.gx * p.gy * p.gz
    ∀ code, e.check = some code ↔ wrong code ∧ ∀ c < code, ¬ wrong c) ∧
  (∀ (c : Nat) (e : QEntry) (rest : List QEntry), s.computes = true → (q, c, e) ∈ s.eligible → x.entries = e :: rest →
    (∀ y ∈ s.eligible, y ≠ (q, c, e) → ahead e.prio e.eligibleAt q < ahead y.2.2.prio y.2.2.eligibleAt y.1) →
    ∃ t, exec .gridStart s = .next t ∧ t.nextGrid = s.nextGrid + 1 ∧
      Tab.find? t.grids s.nextGrid = some { ctx := c, queue := q, packet := e.packet, prio := e.prio, elastic := e.elastic
                                            notify := e.flags.testBit 1, order := e.eligibleAt, cursor := q % 8 * 40, placed := 0
                                            depTime := e.depTime, firstKill := none, killed := false, cores := [] } ∧
      (∀ j, j ≠ s.nextGrid → Tab.find? t.grids j = Tab.find? s.grids j) ∧
      t.queue q = (if e.packet.gx * e.packet.gy * e.packet.gz = 0
        then { x with entries := rest, head := x.head + 1, lastGrid := some s.nextGrid }
        else { x with entries := { e with grid := some s.nextGrid } :: rest }) ∧
      (∀ j, j ≠ q → t.queue j = s.queue j) ∧ { t with queues := s.queues, grids := s.grids, nextGrid := s.nextGrid } = s) ∧
  (∀ p o r p' o' r' : Nat, p ≤ 7 → p' ≤ 7 → o < 2 ^ 64 → o' < 2 ^ 64 → r < 64 → r' < 64 →
    (ahead p o r < ahead p' o' r' ↔ p' < p ∨ p = p' ∧ (o < o' ∨ o = o' ∧ r < r'))) ∧
  (∀ id d core s1 t, s.computes = true → s.placing q = some (id, d) → (s.ctx d.ctx).hasUnits d.packet.groups = true →
    s.mustYield q d = false → s.findCore d.cursor d.room = some core →
    placeTeam id d core (if d.placed = 0 then pop (some id) s else s) = .ok () s1 → noted s1 t → exec (.place q) s = .next t) ∧
  (∀ id d r e, s.placing q = some (id, d) → r < 64 → r ≠ q → s.nextLaunch r = some e → 0 < e.packet.teams →
    ahead e.prio e.order r < ahead d.prio d.order q → s.canPlace e = true → exec (.place q) s = .next s) ∧
  (∀ (core cursor : Nat) (r : Room) (without : List Nat),
    let there := s.teams.filter fun y => y.2.core == core && y.2.saved.isNone && !without.contains y.1
    let total (f : Room → Nat) : Nat := (there.map fun y => f (s.teamRoom y.2)).sum + f r
    (s.hasRoom core r without = true ↔ core / 40 ∉ s.pkg.lost ∧ total (·.groups) ≤ 32 ∧ total (·.obuf) ≤ 2 ^ 20 ∧
      total (·.scratch) ≤ 2 ^ 19 ∧ total (·.pinned) ≤ 4096 ∧ (total (·.elastic) = 0 ∨ total (·.pinned) + 256 ≤ 4096)) ∧
    (s.findCore cursor r = some core ↔ ∃ i < 320, core = (cursor + i) % 320 ∧ s.hasRoom core r [] = true ∧
      ∀ j < i, s.hasRoom ((cursor + j) % 320) r [] = false)) ∧
  (∀ (T : Team) (d : Grid), Tab.find? s.grids T.grid = some d →
    let p := d.packet
    let n := T.groups.length
    d.room = ⟨p.groups, p.obuf, p.scratch, if d.elastic then 0 else ((p.counts.zip p.budgets).map fun y => y.1 * y.2).sum,
      if d.elastic then p.groups else 0⟩ ∧
    s.teamRoom T = ⟨n, p.obuf, p.scratch, if d.elastic then 0
      else (T.groups.map fun g => ((s.group? g).map fun y => (p.budgets[y.role]?).getD 0).getD 0).sum, if d.elastic then n else 0⟩ ∧
    ∀ units n, (s.ctx d.ctx).units = units → ((s.ctx d.ctx).hasUnits n = true ↔
      (units.map (·.2)).sum + n ≤ 32 * bitsOf (s.ctx d.ctx).savebase 15 0)) ∧
  (∀ (p : LaunchPacket) (z ty tx j : Nat),
    let c := p.curve.toNat
    let t := if c = 0 then 0 else p.tile.toNat
    let n := 2 ^ t
    let w := min n (p.gx - tx * n)
    let h := min n (p.gy - ty * n)
    tx * n < p.gx → ty * n < p.gy → j < w * h →
      teamIndex p (z * (p.gx * p.gy) + ty * n * p.gx + tx * n * h + j) =
        tx * n + (tileNth c t w h j).1 + p.gx * (ty * n + (tileNth c t w h j).2 + p.gy * z)) ∧
  (∀ c t w h : Nat, w ≤ 2 ^ t → h ≤ 2 ^ t → tileNth 0 t w h 0 = (0, 0) ∧ (1 ≤ c → c ≤ 3 →
    (List.range (w * h)).map (tileNth c t w h) =
      ((List.range (2 ^ t * 2 ^ t)).map (curvePoint c t)).filter fun y => decide (y.1 < w ∧ y.2 < h))) ∧
  (∀ id d core t u, startTeam id d core s = .ok () t → makeFile core 4096 t = .ok () u → placeTeam id d core s = .ok () u) ∧
  (∀ id d core t, startTeam id d core s = .ok () t →
    let n := min d.packet.groups d.packet.roles.length
    (∃ T, Tab.find? t.teams s.nextTeam = some T ∧ T.grid = id ∧ T.core = core ∧ T.index = teamIndex d.packet d.placed ∧
      T.saved = none ∧ T.groups = (List.range n).map (s.nextGroup + ·)) ∧
    (∀ d0, Tab.find? s.grids id = some d0 → ∃ d1, Tab.find? t.grids id = some d1 ∧ d1.placed = d0.placed + 1 ∧ d1.cursor = core) ∧
    ∀ i < n, ∃ g, t.group? (s.nextGroup + i) = some g ∧ g.ctx = d.ctx ∧ g.team = s.nextTeam ∧ g.number = i ∧
      d.packet.roles[i]? = some g.role ∧ g.core = core ∧ g.present = true ∧ g.sched.prio = d.prio ∧ g.handler = none ∧
      g.work.pc = d.packet.entry ∧ g.work.priv = false ∧
      (∀ r, g.work.sreg r = if r = 2 then g.record + 0x6000 else if r = 3 then BitVec.ofNat 64 (teamIndex d.packet d.placed)
        else if r = 4 then d.packet.arg else if r = 5 then BitVec.ofNat 64 i else if r = 6 then BitVec.ofNat 64 g.role else 0) ∧
      (∀ r, g.work.kreg r = if r = 0 then BitVec.ofNat 32 (2 ^ (if d.packet.flags.getLsbD 4 then 16 else 32) - 1) else 0) ∧
      (∀ r, g.work.vreg r = VVal.zero) ∧ g.work.budget = d.packet.budget g.role ∧ g.work.sprue = [] ∧ g.work.frames = []) ∧
  ∀ id d, Tab.find? s.grids id = some d →
    (s.gridOver id d = false ∨ s.pkg.clock = .stopped → exec (.completionWordWrite id) s = .next s) ∧
    (s.gridOver id d = true ↔ d.placed = d.packet.gx * d.packet.gy * d.packet.gz ∧ (∀ y ∈ s.teams, y.2.grid ≠ id) ∧
      ∀ y ∈ s.cores, ∀ k ∈ y.2.engine, k.grid ≠ id) ∧
    (s.gridOver id d = true → s.pkg.clock ≠ .stopped → (∀ y ∈ Tab.vals s.queues, ∀ e ∈ y.entries, e.grid ≠ some id) →
      let cores := d.cores.filter s.alive
      ∀ s1 s2 s3 s4 t, each cores (fun c => do
          releaseCore c
          flushNoncoh c) s = .ok () s1 → each (dedup (cores.map dieOf)) flushRdc s1 = .ok () s2 →
        jump (s.partCore cores d.queue) s2.lead s2 = .ok () s3 →
        writeCompletion (s.partCore cores d.queue) d.ctx d.queue 0
          (if d.killed then 2 ^ 63 + 0x100 + (d.firstKill.map (·.toNat)).getD 0 else 1) d.packet.done s3 = .ok () s4 →
        noted { s4 with grids := Tab.erase s4.grids id
                        pkg := { s4.pkg with msix := s4.pkg.msix ++ if d.notify then [d.queue] else [] } } t →
        exec (.completionWordWrite id) s = .next t)

/-- R86, R119, R254, R289, R290, R291, R292, R293, R294, R305: teams that are saved and placed again, and the active and pending
sets. A chosen team stops issuing, and once quiet its scratchpad, blocks and registers are stored in the save area and its groups are
absent; placed again, they are read back, its groups are present, and their blocks stand as memory holds them. GROUP_PENDING,
TIME_SLICE_EXPIRY, PENDING_ACTIVATE and PRIORITY_AGING move groups between the sets and raise priorities; REGISTER_FILL reads a
register of an elastic group from its image in the record, and a live victim is written to its own. Where the spec leaves room it
follows logs 7 (which bytes are written, and the rest of the state kept by the model), 37, 39 (what a quiet group may leave
unperformed), 65, 79, 80, 84 and 85. Those clauses are the model's reading. -/
def Obligations.TeamsAndSets : Prop := ∀ (s : State) (gid team core : Nat),
  (∀ T, Tab.find? s.teams team = some T → T.saved = none →
    (T.saving = false → s.chosen team = false → exec (.teamSave team) s = .next s) ∧
    (T.saving = false → s.chosen team = true → exec (.teamSave team) s =
      .next { s with teams := Tab.modify s.teams team ({ · with saving := true }) }) ∧
    let handling : Prop := ∃ i ∈ T.groups, ∃ g, s.group? i = some g ∧ (g.handler ≠ none ∨ g.hold ≠ .none ∨ g.entry ≠ none)
    (T.saving = true → s.draining = false → handling → exec (.teamSave team) s =
      .next { s with teams := Tab.modify s.teams team ({ · with saving := false }) }) ∧
    (T.saving = true → s.draining = true ∨ ¬ handling →
      ((∃ g ∈ T.groups, s.groupQuiet g = false) ∨ s.unitQuiet team = false → exec (.teamSave team) s = .next s) ∧
      ((∀ g ∈ T.groups, s.groupQuiet g = true) → s.unitQuiet team = true → ∀ d record s1, Tab.find? s.grids T.grid = some d →
        takeRecord T.ctx (recordUnits d.packet) s = .ok record s1 →
        let s2 : State := { s1 with teams := Tab.modify s1.teams team ({ · with saved := some ⟨0, record⟩ }) }
        let units := T.saveUnits d.packet
        (∀ s3, saveTeamRecord T record units s2 = .ok false s3 → exec (.teamSave team) s = .next s3) ∧
        ∀ s3 s4 T4, saveTeamRecord T record units s2 = .ok true s3 → each T.groups saveGroup s3 = .ok () s4 →
          Tab.find? s4.teams team = some T4 →
          let pts := (s4.core T4.core).pts
          let last := saveTeamRecord T4 record [(d.packet.scratch + d.packet.obuf + 4094, leBytesOf 2 pts.toNat)] s4
          (∀ s5, last = .ok false s5 → exec (.teamSave team) s = .next s5) ∧
          ∀ s5 s6, last = .ok true s5 → each T4.groups groupLeaves s5 = .ok () s6 →
            exec (.teamSave team) s = .next { s6 with teams := Tab.modify s6.teams team fun T' =>
              { T' with saving := false, saved := some ⟨pts, record⟩ } }))) ∧
  (∀ (T : Team) (p : LaunchPacket),
    let holds (a : Nat) (b : Byte) : Prop := ∃ bs, (a / 65536 * 65536, bs) ∈ T.saveUnits p ∧ bs[a % 65536]? = some b
    recordUnits p = (p.scratch + p.obuf + 4096 + 65535) / 65536 ∧ (∀ a < p.scratch, holds a (Tab.get T.scratch a 0)) ∧
    ∀ i n r, T.slots[i]? = some (n, r) → ∀ e j : Nat,
      let width := if r.fmt = .acc then 4 else if r.fmt = .bf16 then 2 else 1
      let a := p.scratch + 16384 * i + width * e + j
      e < 16384 / width → j < width → a < 65536 * recordUnits p →
        holds a (BitVec.ofNat 8 ((Tab.get r.data e 0).toNat / 256 ^ j))) ∧
  (∀ (T : Team) (record : DWord) (off : Nat) (bs : List Byte) (rest : List (Nat × List Byte)),
    let store := partStore T.core T.ctx (record + BitVec.ofNat 64 off) bs s
    saveTeamRecord T record [] s = .ok true s ∧
    (∀ y s1, store = .ok (.ok y) s1 → saveTeamRecord T record ((off, bs) :: rest) s = saveTeamRecord T record rest s1) ∧
    ∀ f s1 s2, store = .ok (.error f) s1 → killTeam T.ctx T.groups f.va s1 = .ok () s2 →
      saveTeamRecord T record ((off, bs) :: rest) s = .ok false s2) ∧
  (∀ g, s.group? gid = some g →
    let h : Bool := g.handler.isSome
    let base (own : Bool) : Nat := if own then 0x8000 else 0x7000
    let file (own : Bool) (w : Work) : List (Nat × List Byte) := (if w.elastic then w.cached else w.v.map (·.1)).map fun r =>
      (base own + 128 * r, (w.vreg r).val.toList.flatMap fun x => leBytesOf 4 x.toNat)
    let held : List (Nat × List Byte) := [(if h then 0x670 else 0x270, g.work.hidden), (if h then 0x6A00 else 0x6400, g.work.stackBytes)] ++
      (file (!h) g.work ++ ((g.handler.map fun y => file true y.saved).getD []))
    let gone (w : Work) : Work := if w.elastic then w.cached.foldl (fun w r => w.evict r false) w else w
    let saves := saveParts gid ((if h then 0x400 else 0, savedBlock g) :: held) s
    (∀ s1, saves = .ok false s1 → saveGroup gid s = .ok () s1) ∧
    (∀ s1, saves = .ok true s1 → saveGroup gid s = .ok () (s1.updGroup gid fun g => { g with
      work := gone g.work, handler := g.handler.map fun y => { y with saved := gone y.saved } })) ∧
    saveParts gid [] s = .ok true s ∧ loadParts gid [] s = .ok true s ∧ (∀ off bs rest,
      (∀ s1, recordStore gid off bs s = .ok true s1 → saveParts gid ((off, bs) :: rest) s = saveParts gid rest s1) ∧
      (∀ s1, recordStore gid off bs s = .ok false s1 → saveParts gid ((off, bs) :: rest) s = .ok false s1) ∧
      (∀ y s1, recordLoad gid off bs.length s = .ok (some y) s1 → loadParts gid ((off, bs) :: rest) s = loadParts gid rest s1) ∧
      ∀ s1, recordLoad gid off bs.length s = .ok none s1 → loadParts gid ((off, bs) :: rest) s = .ok false s1) ∧
    (∀ s1, recordLoad gid (if h then 0x400 else 0) 0x270 s = .ok none s1 → restoreGroup gid s = .ok () s1) ∧
    (∀ bs s1, recordLoad gid (if h then 0x400 else 0) 0x270 s = .ok (some bs) s1 →
      (h = false → ∀ ok s2, loadParts gid held (s1.updGroup gid fun g => { g with work := g.work.reload bs }) = .ok ok s2 →
        restoreGroup gid s = .ok () s2) ∧
      (h = true →
        let location := recordStore gid 0x268 (leBytesOf 8 (g.core / 40 % 8 + g.core % 40 * 8 + g.slot % 32 * 512)) s1
        (∀ s2, location = .ok false s2 → restoreGroup gid s = .ok () s2) ∧
        ∀ s2 ok s3, location = .ok true s2 → loadParts gid held s2 = .ok ok s3 → restoreGroup gid s = .ok () s3))) ∧
  (∀ w : Work, (∀ (r : Fin 8) (j : Nat), j < 4 →
      w.hidden[8 * r.val + j]? = some (BitVec.ofNat 8 (w.q[r].bits.toNat / 256 ^ j)) ∧
      w.hidden[8 * r.val + 4 + j]? = some (BitVec.ofNat 8 (w.q[r].poison.toNat / 256 ^ j))) ∧
    (∀ (i n : Nat), [w.cnt.ldc, w.cnt.stc, w.cnt.cpc, w.cnt.mxc, w.cnt.rcc, w.cnt.lkc][i]? = some n →
      w.hidden[64 + i]? = some (BitVec.ofNat 8 n)) ∧
    (∀ i e j, w.retq[i]? = some e → j < 4 → w.hidden[70 + 4 * i + j]? = some (BitVec.ofNat 8 (e.value.toNat / 256 ^ j))) ∧
    ∀ i n j, w.frames[i]? = some n → j < 2 → w.stackBytes[2 * i + j]? = some (BitVec.ofNat 8 (n / 256 ^ j))) ∧
  (∀ g, s.group? gid = some g → g.locks = [] → ∃ t, groupLeaves gid s = .ok () t ∧ { t with groups := s.groups } = s ∧
    (∀ j, j ≠ gid → t.group? j = s.group? j) ∧ ∃ g', t.group? gid = some g' ∧ g'.present = false ∧ g'.sched.active = false ∧
    g'.sched.prio = (if g.sched.active then s.launchPrio g else g.sched.prio) ∧
    { g' with present := g.present, sched := g.sched } = g) ∧
  (∀ T sv d, Tab.find? s.teams team = some T → T.saved = some sv → Tab.find? s.grids T.grid = some d →
    let room : Prop := s.computes = true ∧ core < 320 ∧ s.hasRoom core (s.teamRoom T) [] = true
    let reads : M Bool := do
      freshCode core T.grid
      jump core sv.pts
      loadTeamRecord T core sv.record
        (T.saveUnits d.packet ++ [(d.packet.scratch + d.packet.obuf + 4094, leBytesOf 2 sv.pts.toNat)])
    (¬ room → exec (.teamRestore team core) s = .next s) ∧
    (room → ∀ s1, reads s = .ok false s1 → exec (.teamRestore team core) s = .next s1) ∧
    (room → ∀ s1 s2 s3 s4 T4, reads s = .ok true s1 →
      freeRecord T.ctx sv.record { s1 with
        nextSeq := s1.nextSeq + 1
        teams := Tab.modify s1.teams team ({ · with core, saved := none, placedAt := s1.nextSeq })
        grids := Tab.modify s1.grids T.grid fun d => { d with cores := core :: d.cores.filter (· != core) } } = .ok () s2 →
      each T.groups (groupReturns core) s2 = .ok () s3 → each T.groups restoreGroup s3 = .ok () s4 → Tab.find? s4.teams team = some T4 →
      (∀ i ∈ T4.groups, ∃ y, s4.group? i = some y ∧ y.locks = [] ∧ y.requests = [] ∧ y.faults = [] ∧ y.entry = none) →
      s4.fileUsed core ≤ 4096 → exec (.teamRestore team core) s = .next s4)) ∧
  (∀ g, s.group? gid = some g → ∃ t g', groupReturns core gid s = .ok () t ∧ { t with groups := s.groups } = s ∧
    (∀ j, j ≠ gid → t.group? j = s.group? j) ∧ t.group? gid = some g' ∧ g'.present = true ∧ g'.core = core ∧
    g'.sched.active = false ∧ g'.sched.ready = true ∧ g'.sched.prio = g.sched.prio ∧
    let joined := (g.faults.filter fun r => !r.nest && !r.alone).foldl (fun e r => some (Entry.add e r)) g.entry
    (g.hold = .none ∧ g.handler = none → g'.entry = joined ∧ g'.hold = if joined.isSome then .vectoring else .none) ∧
    (¬ (g.hold = .none ∧ g.handler = none) → g'.entry = g.entry ∧ g'.hold = g.hold) ∧
    { g' with present := g.present, core := g.core, slot := g.slot, sched := g.sched, hold := g.hold, entry := g.entry } = g) ∧
  (∀ g, s.group? gid = some g →
    let only (i : Instr) (C : Prop) (f : Sched) : Prop :=
      (¬ C → exec i s = .next s) ∧ (C → ∃ t, exec i s = .next t ∧ t.group? gid = some { g with sched := f } ∧
        (∀ j, j ≠ gid → t.group? j = s.group? j) ∧ { t with groups := s.groups } = s)
    let waits (y : Group) : Prop := y.present = true ∧ y.core = g.core ∧ y.sched.active = false ∧ y.hold = .none ∧ y.sched.ready = true
    only (.groupPending gid)
      (s.running = true ∧ g.present = true ∧ g.sched.active = true ∧ g.hold = .none ∧ s.pendTrigger gid g = true)
      { g.sched with active := false, ready := false, readyAt := s.now, since := s.now, prio := s.launchPrio g } ∧
    only (.timeSliceExpiry gid)
      (s.running = true ∧ g.present = true ∧ g.sched.active = true ∧ g.sched.since + 65536 ≤ s.now ∧
        ∃ y ∈ Tab.vals s.groups, waits y ∧ g.sched.prio ≤ y.sched.prio)
      { g.sched with active := false, ready := true, readyAt := s.now, since := s.now, prio := s.launchPrio g } ∧
    only (.priorityAging gid) (waits g ∧ g.sched.since + 4096 ≤ s.now)
      { g.sched with prio := min 7 (g.sched.prio + 1), since := g.sched.since + 4096 }) ∧
  (s.running = false → exec (.pendingActivate core) s = .next s) ∧
  (s.running = true →
    let w := s.wake core
    (∀ j g, s.group? j = some g → ∃ g', w.group? j = some g' ∧ { g' with sched := g.sched } = g ∧
      (g.present = true → g.core = core → g.sched.active = false → g.hold = .none → s.stalled j g = false → g'.sched.ready = true ∧
        (g.sched.ready = false → g'.sched.readyAt = s.now)) ∧ (g.sched.ready = true → g' = g)) ∧
    (8 ≤ w.activeOn core → exec (.pendingActivate core) s = .next w) ∧
    (w.nextActive core = none → exec (.pendingActivate core) s = .next w) ∧
    (∀ j g, w.activeOn core < 8 → w.nextActive core = some (j, g) → exec (.pendingActivate core) s = .next
      (w.updGroup j fun g => { g with sched := { g.sched with
        active := true, ready := false, since := s.now, issuedAt := s.now, stalled := none } })) ∧
    ∀ j g i y, w.nextActive core = some (j, g) → (i, y) ∈ w.groups → y.readyAt core = true → i < 2 ^ 64 → j < 2 ^ 64 →
      y.sched.readyAt < 2 ^ 64 → g.sched.readyAt < 2 ^ 64 → y.sched.prio ≤ 7 → g.sched.prio ≤ 7 →
      y.sched.prio < g.sched.prio ∨ y.sched.prio = g.sched.prio ∧ g.sched.readyAt ≤ y.sched.readyAt) ∧
  (∀ h : Holding, h ∈ s.elasticOn core ↔ ∃ p ∈ s.groups, p.2.present = true ∧ p.2.core = core ∧ h.gid = p.1 ∧ h.ctx = p.2.ctx ∧
    h.work.elastic = true ∧ (h.own = p.2.handler.isNone ∧ h.work = p.2.work ∨ h.own = true ∧ ∃ y, p.2.handler = some y ∧ h.work = y.saved)) ∧
  (s.fileUsed core = ((s.elasticOn core).map fun h => h.work.cached.length).sum + (s.used core []).pinned) ∧
  (∀ n, s.fileUsed core ≤ 4096 → makeFile core n s = .ok () s) ∧
  (∀ n v s1, 4096 < s.fileUsed core → s.victimOn core = some v → evictVictim core v s = .ok () s1 →
    makeFile core (n + 1) s = makeFile core n s1) ∧
  ∀ g reg c, s.group? gid = some g → g.present = true → (g.work.cur0 = some c ∨ g.work.cur1 = some c) → reg ∈ missing s g c →
    let slot (g : Group) (r : Nat) : Nat := (if g.handler = none then 0x8000 else 0x7000) + 128 * r
    let filled (u : State) : State := u.updGroup gid fun g => { g with work := { g.work with
      cached := reg :: g.work.cached, v := Tab.put g.work.v reg (Tab.get g.work.image reg VVal.zero)
      used := Tab.put g.work.used reg s.now } }
    let ends (i : Instr) (u : State) : Prop :=
      (∀ bs s2, recordLoad gid (slot g reg) 128 u = .ok (some bs) s2 → exec i s = .next (filled s2)) ∧
      ∀ s2, recordLoad gid (slot g reg) 128 u = .ok none s2 → exec i s = .next s2
    (s.fileRoom g.core = true → ends (.registerFill gid reg none) s) ∧
    (s.fileRoom g.core = false → exec (.registerFill gid reg none) s = .next s) ∧
    (∀ v, s.fileRoom g.core = true → exec (.registerFill gid reg (some v)) s = .next s) ∧
    ∀ v : Victim, s.fileRoom g.core = false →
      let named (h : Holding) : Prop := h ∈ s.elasticOn g.core ∧ h.gid = v.group ∧ h.own = v.own ∧ v.reg ∈ h.work.cached
      let dead (h : Holding) : Prop := s.dead h.ctx h.work v.reg = true
      let oldest (h : Holding) : Prop := s.anyDead g.core = false ∧ h.work.cached.getLast? = some v.reg ∧
        ∀ y ∈ s.elasticOn g.core, ∀ r, y.work.cached.getLast? = some r → Tab.get h.work.used v.reg 0 ≤ Tab.get y.work.used r 0
      let gone (keep : Bool) (u : State) : State := u.updGroup v.group fun z => z.updWork (if v.own then 0 else z.level) fun w => { w with
        cached := w.cached.filter (· != v.reg), v := Tab.erase w.v v.reg, used := Tab.erase w.used v.reg
        image := if keep then Tab.put w.image v.reg (w.vreg v.reg) else w.image }
      ((∀ h, named h → ¬ dead h ∧ ¬ oldest h) → exec (.registerFill gid reg (some v)) s = .next s) ∧
      ∀ h, (s.elasticOn g.core).find? (fun h => h.gid == v.group && h.own == v.own) = some h → named h → dead h ∨ oldest h →
        (dead h → ends (.registerFill gid reg (some v)) (gone false s)) ∧
        (¬ dead h → ∀ s1, recordStore v.group ((if v.own then 0x8000 else 0x7000) + 128 * v.reg)
            ((h.work.vreg v.reg).val.toList.flatMap fun x => leBytesOf 4 x.toNat) s = .ok true s1 →
          ends (.registerFill gid reg (some v)) (gone true s1))

/-- R32, R36, R43, R121, R307, R308, R310, R326, R327, R329: the host's context commands and the group commands. CONTEXT_OPEN
takes the next generation when its drain marker is back; CONTEXT_CLOSE discards entries that have not started; CONTEXT_RESET
kills the context's groups, stops its copies and gives its grids their value; CLOSE_COMPLETE ends the generation. POOLADD,
MAPCNT and QUARANTINE_RELEASE act on frames; GROUP_RESUME returns a suspended group from its handler and GROUP_KILL ends it;
WATCHDOG records a handler that has run 2^24 cycles and suspends its group. Where its condition fails each leaves the state as
it was. Where the spec leaves room it follows logs 9 (when a frame in quarantine is free), 81 (the values given to grids), 5 (the
watchdog's cycles), 107 (which free frame comes first), 50, 82 and 87. Those clauses are the model's reading. -/
def Obligations.Contexts : Prop := ∀ (s : State) (ctx gid : Nat) (v : DWord),
  let x := s.ctx ctx
  let on : Prop := s.pkg.power ≠ .off
  let upd (f : Ctx → Ctx) : State := s.updCtx ctx f
  (on → ctx < 16 → x.state = .closed → (ctx, x.gen + 1) ∉ s.pkg.markers →
    exec (.contextOpen ctx) s = .next (upd fun x => { x with state := .open, gen := x.gen + 1 })) ∧
  (x.state ≠ .closed ∨ (ctx, x.gen + 1) ∈ s.pkg.markers → exec (.contextOpen ctx) s = .next s) ∧
  (on → ctx < 16 → x.state = .open → ∃ t, exec (.contextClose ctx) s = .next t ∧
    t.ctxs = (upd ({ · with state := .closing })).ctxs ∧
    (∀ q y, Tab.find? t.queues q = some y → y.ctx = some ctx → y.entries = []) ∧
    (∀ q, (∀ y ∈ s.queues, y.1 = q → y.2.ctx ≠ some ctx) → Tab.find? t.queues q = Tab.find? s.queues q) ∧
    { t with ctxs := s.ctxs, queues := s.queues, grids := s.grids } = s) ∧
  (x.state ≠ .open → exec (.contextClose ctx) s = .next s) ∧
  (on → ctx < 16 → x.state ≠ .closed → ∀ s1 s2 s3 s4,
    each (s.groups.filter fun y => y.2.ctx == ctx) (fun y => haltGroup y.1) s = .ok () s1 →
    discardEntries ctx s1 = .ok () s2 → stopCopies (fun _ k => k.ctx == ctx) s2 = .ok () s3 →
    endGrids (2 ^ 63 + 0x300) (s3.grids.filter fun y => y.2.ctx == ctx) s3 = .ok () s4 →
    exec (.contextReset ctx) s = .next (s4.updCtx ctx ({ · with state := .closing }))) ∧
  (x.state = .closed → exec (.contextReset ctx) s = .next s) ∧
  (ctx < 16 → x.state = .closing → s.ctxDone ctx = true → ∃ t, exec (.closeComplete ctx) s = .next t ∧
    t.ctxs = (upd ({ · with state := .closed })).ctxs ∧
    (∀ c, (∀ e, e ∈ (t.core c).tlb ↔ e ∈ (s.core c).tlb ∧ e.ctx ≠ ctx) ∧ (∀ r, r ∈ (t.core c).ro ↔ r ∈ (s.core c).ro ∧ r.ctx ≠ ctx) ∧
      { t.core c with tlb := (s.core c).tlb, ro := (s.core c).ro } = s.core c) ∧
    (∀ w, w ∈ t.walks ↔ w ∈ s.walks ∧ w.ctx ≠ ctx) ∧
    (∀ m, m ∈ t.pkg.markers ↔ m ∈ s.pkg.markers ∨ m = (ctx, x.gen)) ∧ { t.pkg with markers := s.pkg.markers } = s.pkg ∧
    { t with ctxs := s.ctxs, cores := s.cores, walks := s.walks, pkg := s.pkg } = s) ∧
  (x.state ≠ .closing ∨ s.ctxDone ctx = false → exec (.closeComplete ctx) s = .next s) ∧
  (∀ gen, ∃ t, exec (.drainMarkerReturn ctx gen) s = .next t ∧ (∀ m, m ∈ t.pkg.markers ↔ m ∈ s.pkg.markers ∧ m ≠ (ctx, gen)) ∧
    { t with pkg := { t.pkg with markers := s.pkg.markers } } = s) ∧
  (on → exec (.pooladd ctx v) s = .next (upd fun x => { x with pool := x.pool ++ [⟨v.toNat / 2 ^ 16 % 2 ^ 36, none⟩] })) ∧
  (let pfn := v.toNat / 2 ^ 16 % 2 ^ 36
   (on → pfn * 2 ^ 16 < 2 ^ 41 → ∃ t, exec (.mapcnt v) s = .next t ∧ t.mapCount pfn = v.toNat % 256 ∧
     (∀ j, j ≠ pfn → t.mapCount j = s.mapCount j) ∧ { t with mapcnt := s.mapcnt } = s) ∧
   (¬ pfn * 2 ^ 16 < 2 ^ 41 → exec (.mapcnt v) s = .next s)) ∧
  (∀ q f s1, s.pkg.clock ≠ .stopped → x.quarantine.find? (fun q => q.free s.horizon && s.place (q.pfn * 2 ^ 16) == .here) = some q →
    zeroLines ((List.range 512).map (q.pfn * 512 + ·)) none s = .ok f s1 →
    exec (.quarantineRelease ctx) s = .next (s1.updCtx ctx fun x =>
      { x with quarantine := x.quarantine.erase q, pool := x.pool ++ [⟨q.pfn, f⟩] })) ∧
  (s.pkg.clock = .stopped ∨ (∀ q ∈ x.quarantine, q.free s.horizon = false) → exec (.quarantineRelease ctx) s = .next s) ∧
  (∀ (q : QFrame) (hor : Time), q.free hor = true ↔ q.due = true ∨ (hor - q.stamp).toNat < 2 ^ 15) ∧
  (∀ g h, v.toNat / 2 ^ 14 % 4 = 1 → s.suspendedAt ctx v = some gid → s.group? gid = some g → g.hold = .suspended →
    g.handler = some h →
    (∀ bs w s1 g1, partLoad g.core g.ctx g.record 0x270 s = .ok (.ok (bs, w)) s1 → g.faults = [] → s1.group? gid = some g1 →
      g1.entry = none → g1.faults = [] → ∃ t, exec (.groupResume ctx v) s = .next t ∧ t.mem = s1.mem ∧
        (∀ j, j ≠ gid → t.group? j = s1.group? j) ∧ ∃ g', t.group? gid = some g' ∧ g'.handler = none ∧ g'.hold = .none ∧
        g'.sched.active = false ∧ g'.sched.ready = true ∧ g'.work =
          { h.saved.reload bs with priv := false, recasts := h.saved.recasts ++ g1.work.recasts }) ∧
    (∀ f s1 s2 t, partLoad g.core g.ctx g.record 0x270 s = .ok (.error f) s1 → logError g.ctx 5 f.va.toNat s1 = .ok () s2 →
      killGroup gid (g.entry.map (·.cls)) s2 = .ok () t → exec (.groupResume ctx v) s = .next t)) ∧
  (v.toNat / 2 ^ 14 % 4 ≠ 1 ∨ s.suspendedAt ctx v = none → exec (.groupResume ctx v) s = .next s) ∧
  (∀ t, v.toNat / 2 ^ 14 % 4 = 2 → s.suspendedAt ctx v = some gid → haltGroup gid s = .ok () t →
    exec (.groupKill ctx v) s = .next t) ∧
  (v.toNat / 2 ^ 14 % 4 ≠ 2 ∨ s.suspendedAt ctx v = none → exec (.groupKill ctx v) s = .next s) ∧
  (∀ y, s.suspendedAt ctx v = some y → (∃ g, (y, g) ∈ s.groups ∧ g.ctx = ctx ∧ g.present = true ∧ g.hold = .suspended ∧
    g.core / 40 = v.toNat % 8 ∧ g.core % 40 = v.toNat / 8 % 64 ∧ g.slot = v.toNat / 2 ^ 9 % 32)) ∧
  ∀ g h, s.group? gid = some g → g.handler = some h →
    let r : Rec := ⟨0, BitVec.ofNat 64 h.ran, g.work.pc, 0, 0, 0, true, 12, 0, false, 0, false⟩
    let u : State := s.updGroup gid fun g => { g with faults := (g.faults.map ({ · with seq := 0 })) ++ [r], hold := .vectoring }
    (g.hold = .suspended ∨ h.ran < 2 ^ 24 ∨ (∃ y ∈ g.faults, y.cls = 12) → exec (.watchdog gid) s = .next s) ∧
    (g.hold ≠ .suspended → 2 ^ 24 ≤ h.ran → (∀ y ∈ g.faults, y.cls ≠ 12) → exec (.watchdog gid) s = .next (vectorNow (g.faults.length + 1) gid u) ∧
      (g.faults = [] → ∀ b s1 t, writeRec gid r u = .ok b s1 → suspend gid (s1.updGroup gid ({ · with faults := [] })) = .ok () t →
        exec (.watchdog gid) s = .next t ∧ ∀ y, s1.group? gid = some y → t.pkg.msix = s1.pkg.msix ++ [64 + y.ctx] ∧
          ∃ y', t.group? gid = some y' ∧ y'.hold = .suspended ∧ y'.work = y.work ∧ y'.faults = []))

/-- R59, R60, R98, R107, R314, R315, R316, R317, R318, R319, R320, R321, R322, R330, R331, R332: power, temperature and the host's
commands about them. A sample of the 64 sensors gives TMAX, TMIN, PEAK and RATE, and the bands in turn by their hysteresis, each with
a SEQ step, a signal and, where the part comes from a colder band, an excursion; then the state takes its transition among COOLING,
SOAK, RUN, RETREAT, HOLD, WARMING and AMBIENT. CLOCK_STEP brings the clock to the band, and RUN and RETREAT then take the transition
that has waited for it. Each command and timeout acts in the states the spec names and changes nothing in others. HOLD_ENTRY takes
the caches home and stops the clocks. Where the spec leaves room it follows logs 3 (the memory that power leaves), 45 (when
HOLD_ENTRY may come), 66, 67, 86, 87, 88, 92 (what the array walk poisons) and 111 (the hash). Those clauses are the model's
reading. -/
def Obligations.PowerStates : Prop := ∀ s : State,
  let p := s.pkg
  let sets (i : Instr) (q : Pkg) : Prop := exec i s = .next { s with pkg := q }
  let idle (i : Instr) : Prop := exec i s = .next s
  -- the temperature that the part acts on, and a state's transition on it
  let T (x : Pkg) : Nat := if 8 < x.sensors.countP (· == none) then max x.tmax.toNat 921 else x.tmax.toNat
  let enter (x : Pkg) (st : Power) : Pkg := { x with power := st, samples := 0, soaked := 0 }
  let move (x : Pkg) : Pkg := match x.power with
    | .cooling => if T x ≤ 712 then enter x .soak else x
    | .soak => if 736 < T x then enter x .cooling else x
    | .run => if x.stepping = false ∧ x.exiting = false ∧ (736 < T x ∨ x.hostHold = true) then { enter x .retreat with stepping := true } else x
    | .retreat =>
      if x.stepping = true ∨ x.exiting = true then x
      else if 920 < T x ∨ x.hostHold = true then { enter x .hold with
        drained := false, warmWanted := false, exiting := false, clock := if x.clock = .stopped then .stopped else .mhz1000 }
      else if T x ≤ 712 then { enter x .run with stepping := true } else x
    | .warming => if 1600 < x.tmin.toNat then enter x .ambient else x
    | _ => x
  -- the exit of HOLD ends once it has placed every saved team that finds room
  let placed : Bool := (Tab.vals s.teams).all fun X => X.saved.isNone || (List.range 320).all fun c => !s.hasRoom c (s.teamRoom X) []
  let p1 : Pkg := if p.exiting = true ∧ placed = true then { p with exiting := false } else p
  let ticked : Prop := ∀ k ≤ 320, s.now < (s.core k).cyc.toNat + (s.core k).period
  let floored (t : State) : Prop := { t with cores := s.cores, pkg := p } = s ∧ ∀ k ≤ 320,
    { t.core k with pts := (s.core k).pts } = s.core k ∧
    (t.core k).pts = if ((s.core k).pts - s.floor).toNat < 2 ^ 15 then (s.core k).pts else s.floor
  let nothing : Prop := (∀ k ∈ Tab.vals s.cores, k.engine = []) ∧ s.grids = []
  let warmed (q : Pkg) (t : State) : Prop := t.pkg.power = .warming ∧ t.pkg.hostHold = false ∧ t.pkg.warmWanted = false ∧
    t.pkg.samples = 0 ∧ t.pkg.soaked = 0 ∧ t.pkg.code = q.code ∧ t.pkg.tmax = q.tmax ∧ t.groups = [] ∧ t.teams = [] ∧ t.grids = [] ∧
    t.walks = [] ∧ t.mem = s.mem ∧ (∀ c < 16, (t.ctx c).state = .closed) ∧ (∀ x ∈ t.queues, x.2.entries = []) ∧
    ∀ line h, Tab.find? t.homes line = some h → h.holder = none ∧ h.queue = [] ∧ h.records = []
  sets .bandmaxClear { p with exc1 := 0, exc2 := 0, exc3 := 0, peakBand := p.code, peak := p.tmax, rate := 0 } ∧
  (if p.power = .ambient ∧ p.firmware ≠ none
    then sets .cool { p with power := .cooling, samples := 0, soaked := 0, coolFailed := false } else idle .cool) ∧
  (p.power = .off → idle .hold) ∧
  (p.power = .run ∨ p.power = .retreat → sets .hold (move { p1 with hostHold := true })) ∧
  (p.power ≠ .off → p.power ≠ .run → p.power ≠ .retreat → sets .hold { p1 with hostHold := true }) ∧
  sets .resume { p with hostHold := false } ∧
  (p.power ≠ .hold → idle .warm) ∧
  (p.power = .hold → p.drained = false → sets .warm { p with warmWanted := true }) ∧
  (p.power = .hold → p.drained = true →
    (∀ t, enterWarming { s with pkg := { p with warmWanted := true } } = .ok () t → exec .warm s = .next t) ∧
    (nothing → ∃ t, exec .warm s = .next t ∧ warmed p t)) ∧
  (∀ image good, if p.power = .ambient
    then sets (.firmwareVerify image good) { p with firmware := if good then some (sha384 image) else none, fwFailed := !good }
    else idle (.firmwareVerify image good)) ∧
  (∀ nonce, (p.power = .off ∨ nonce.length ≠ 48 → idle (.attestation nonce)) ∧
    (p.power ≠ .off → nonce.length = 48 → ∃ t r, exec (.attestation nonce) s = .next t ∧ t.pkg.report = some r ∧
      { t with pkg := p } = s ∧ { t.pkg with report := p.report } = p ∧ r.nonce = nonce ∧ r.hash = p.firmware.getD [] ∧
      r.lost = p.lost ∧ r.open_ = s.openContexts ∧
      r.signature = Config.attestationSignature (reportBytes nonce r.hash r.open_ r.lost))) ∧
  (p.power ≠ .off → idle .powerOn) ∧
  (p.power = .off → ∃ t, exec .powerOn s = .next t ∧ t.pkg = State.reset.pkg ∧ t.mem = [] ∧ t.groups = [] ∧ t.cores = [] ∧
    t.ctxs = State.reset.ctxs) ∧
  (∃ t, exec .powerOff s = .next t ∧ t.pkg = { State.reset.pkg with power := .off } ∧ t.mem = [] ∧ t.groups = [] ∧
    t.cores = []) ∧
  -- a sample
  (∀ readings : List (Option (BitVec 12)), (p.power = .off ∨ readings.length ≠ 64 → idle (.sensorSample readings)) ∧
    (p.power ≠ .off → readings.length = 64 → ∃ m q : Pkg, q = move m ∧
      (let due : Prop := q.power = .hold ∧ q.drained = true ∧ (1600 < T q ∨ q.warmWanted = true)
       (¬ due → sets (.sensorSample readings) q) ∧
       (due → (∀ t, enterWarming { s with pkg := q } = .ok () t → exec (.sensorSample readings) s = .next t) ∧
         (nothing → ∃ t, exec (.sensorSample readings) s = .next t ∧ warmed q t))) ∧
      m.sensors = readings ∧
      (∀ v, some v ∈ readings → some m.tmax ∈ readings ∧ some m.tmin ∈ readings ∧
        m.tmin.toNat ≤ v.toNat ∧ v.toNat ≤ m.tmax.toNat) ∧
      ((∀ v, some v ∉ readings) → m.tmax = p.tmax ∧ m.tmin = p.tmin) ∧
      m.history = (m.tmax :: p.history).take 60001 ∧ m.peak.toNat = max p.peak.toNat m.tmax.toNat ∧
      (let change (v : BitVec 12) : Nat := max v.toNat m.tmax.toNat - min v.toNat m.tmax.toNat
       p.rate.toNat ≤ m.rate.toNat ∧ (∀ v ∈ m.history, change v ≤ m.rate.toNat) ∧
       (m.rate = p.rate ∨ ∃ v ∈ m.history, m.rate.toNat = change v)) ∧
      (let path := bandPath 4 p.code.toNat (T m)
       let a := p.code.toNat
       let b := m.code.toNat
       b = path.getLastD a ∧ m.seq = p.seq + BitVec.ofNat 8 path.length ∧
       m.msix = p.msix ++ List.replicate path.length 80 ∧ m.peakBand.toNat = max p.peakBand.toNat (max a b) ∧
       let exc (k : Nat) (old new : BitVec 8) : Prop := new = if a < k ∧ k ≤ b ∧ old ≠ 255 then old + 1 else old
       exc 1 p.exc1 m.exc1 ∧ exc 2 p.exc2 m.exc2 ∧ exc 3 p.exc3 m.exc3) ∧
      m.samples = p.samples + 1 ∧
      m.soaked = (if p.power = .soak ∧ T m ≤ 712 ∧ m.tmax.toNat ≤ m.tmin.toNat + 16 then p.soaked + 1 else 0) ∧
      (let failed := (p.sensors.zip readings).countP fun x => x.1.isSome && x.2.isNone
       ∀ j, Tab.get m.counters j 0 = if j = 3 ∧ failed ≠ 0 then (Tab.get p.counters 3 0 + failed) % 2 ^ 64
         else Tab.get p.counters j 0) ∧
      { m with sensors := p.sensors, tmax := p.tmax, tmin := p.tmin, history := p.history, peak := p.peak, rate := p.rate
               code := p.code, seq := p.seq, msix := p.msix, peakBand := p.peakBand, exc1 := p.exc1, exc2 := p.exc2
               exc3 := p.exc3, samples := p.samples, soaked := p.soaked, counters := p.counters } = p1)) ∧
  -- the clock
  (let band : Clock := if p.code = 0 then .mhz1200 else if p.code = 1 then .mhz1000 else .stopped
   let c : Clock := if p.power = .off ∨ p.power = .hold ∨ p.power = .warming then p.clock
     else if (p.power = .run ∨ p.power = .retreat) ∧ band = .stopped ∧ p.clock ≠ .stopped then .mhz1000 else band
   let after (x : Pkg) : Pkg := if p.stepping = true ∨ p.exiting = true then move { x with stepping := false } else x
   (c = .stopped → p.clock ≠ .stopped → ¬ ticked → sets .clockStep (after p1)) ∧
   (c = .stopped → p.clock = .stopped ∨ ticked → sets .clockStep (after { p1 with clock := c })) ∧
   (c ≠ .stopped → p.clock ≠ .stopped → sets .clockStep (after { p1 with clock := c })) ∧
   (p.clock = .stopped → c ≠ .stopped → ∃ t, exec .clockStep s = .next t ∧ t.pkg = after { p1 with clock := c } ∧ floored t)) ∧
  -- HOLD
  (p.power ≠ .hold ∨ p.drained = true ∨ (∃ X ∈ Tab.vals s.teams, X.saved = none) ∨
    (∃ k ∈ Tab.vals s.cores, ∃ c ∈ k.engine, c.stalled = false) ∨
    (p.clock ≠ .stopped ∧ ¬ ticked) → idle .holdEntry) ∧
  (p.power = .hold → p.drained = false → (∀ X ∈ Tab.vals s.teams, X.saved ≠ none) →
    (∀ k ∈ Tab.vals s.cores, ∀ c ∈ k.engine, c.stalled = true) →
    (p.clock = .stopped ∨ ticked) →
    (∀ s1 s2, each (Tab.keys s.cores) emptyCore s = .ok () s1 → each (List.range 8) flushRdc s1 = .ok () s2 →
      let s3 : State := { s2 with rdc := [], walks := [], pkg := { s2.pkg with drained := true, clock := .stopped } }
      (∀ t, warmIfDue s3 = .ok () t → exec .holdEntry s = .next t) ∧
      ∀ e t, warmIfDue s3 = .error e t → exec .holdEntry s = .next s3) ∧
    ((∀ k ∈ Tab.vals s.cores, k.l1 = [] ∧ k.wb = []) → s.rdc = [] → T p ≤ 1600 → p.warmWanted = false →
      ∃ t, exec .holdEntry s = .next t ∧ t.pkg = { p with drained := true, clock := .stopped } ∧ t.walks = [] ∧
        (∀ k, (t.core k).l1 = [] ∧ (t.core k).wb = [] ∧ (t.core k).ro = [] ∧ (t.core k).tlb = [] ∧ (t.core k).icache = [] ∧
          (t.core k).lcache = [] ∧ (t.core k).pts = (s.core k).pts) ∧
        { t with cores := s.cores, walks := s.walks, pkg := p } = s)) ∧
  (let out : Prop := p.power = .hold ∧ p.drained = true ∧ T p ≤ 896 ∧ p.hostHold = false
   (¬ out → idle .holdExit) ∧
   (out → ∃ t, exec .holdExit s = .next t ∧ floored t ∧
     t.pkg = { enter p .retreat with drained := false, stepping := false, exiting := true, clock := .mhz1000 })) ∧
  (if p.power = .cooling ∧ 5400000 ≤ p.samples
    then sets .coolingTimeout { enter p .ambient with coolFailed := true } else idle .coolingTimeout) ∧
  (if p.power = .soak ∧ 60000 ≤ p.soaked then sets .soakComplete (enter p .train) else idle .soakComplete) ∧
  (∀ pairs, (p.power ≠ .train → idle (.trainComplete pairs)) ∧ (p.power = .train → ∃ t, exec (.trainComplete pairs) s = .next t ∧
    t.pkg.power = .run ∧ t.mem = [] ∧ t.poison = [] ∧ (∀ n, t.mapCount n = 1) ∧ t.homes = [] ∧ t.rdc = [] ∧ t.walks = [] ∧
    t.pkg.snooped = [] ∧ (∀ k, k ∈ t.pkg.lost ↔ k ∈ p.lost ∨ k ∈ pairs ∧ k < 8) ∧ t.groups = s.groups ∧ t.ctxs = s.ctxs ∧
    ∀ k, (t.core k).l1 = [] ∧ (t.core k).tlb = [] ∧ (t.core k).engine = [] ∧ (t.core k).pts = (s.core k).pts)) ∧
  -- the array walk
  (let walks : Prop := p.power ≠ .off ∧ (p.code = 0 ∨ p.code = 1)
   let plus (k : Nat) (t : State) : Prop := (∀ j, Tab.get t.pkg.counters j 0 =
     if j = k then (Tab.get p.counters k 0 + 1) % 2 ^ 64 else Tab.get p.counters j 0) ∧ { t.pkg with counters := p.counters } = p
   let spoil (k : Nat) (d : LineData) : LineData := { d with poison := d.poison ||| 1 <<< k }
   let bad (sector : Sector) (f : State → Prop) : Prop :=
     ∃ t, exec (.arrayWalk (.uncorrectable sector)) s = .next t ∧ plus 2 t ∧ f t
   let core (c : Nat) (f : Core → Core) (t : State) : Prop :=
     (∀ j, t.core j = if j = c then f (s.core c) else s.core j) ∧ { t with cores := s.cores, pkg := p } = s
   (¬ walks → ∀ f, idle (.arrayWalk f)) ∧ (walks → idle (.arrayWalk .clean) ∧
     (∃ t, exec (.arrayWalk .corrected) s = .next t ∧ plus 0 t ∧ { t with pkg := p } = s) ∧
     (∃ t, exec (.arrayWalk .dramCorrected) s = .next t ∧ plus 1 t ∧ { t with pkg := p } = s) ∧
     ∀ c ctx line k,
       bad (.home k) (fun t => (∀ n, n ∈ t.poison ↔ n ∈ s.poison ∨ n = k) ∧ { t with poison := s.poison, pkg := p } = s) ∧
       bad (.l1 c line k) (core c fun x => { x with l1 := Tab.modify x.l1 line fun l => { l with data := spoil k l.data } }) ∧
       bad (.ro c ctx line k) (core c fun x => { x with
         ro := x.ro.map fun r => if r.ctx = ctx ∧ r.line = line then { r with data := spoil k r.data } else r }) ∧
       bad (.code c line k false) (core c fun x => { x with icache := Tab.modify x.icache line (spoil k) }) ∧
       bad (.code c line k true) (core c fun x => { x with lcache := Tab.modify x.lcache line (spoil k) }) ∧
       (∀ va, bad (.tlb c ctx va) (core c fun x => { x with tlb := x.tlb.filter fun e => !(e.ctx == ctx && e.covers va) })) ∧
       (∀ die, bad (.rdc die line k) fun t =>
         t.rdc = Tab.modify s.rdc (die * 2 ^ 45 + line) (fun r => { r with data := spoil k r.data }) ∧
         { t with rdc := s.rdc, pkg := p } = s) ∧
       (∀ id X, Tab.find? s.teams id = some X →
         (bad (.scratch id k) fun t => (∃ Y, Tab.find? t.teams id = some Y ∧ (∀ n, n ∈ Y.bad ↔ n ∈ X.bad ∨ n = k) ∧
           { Y with bad := X.bad } = X) ∧ (∀ j, j ≠ id → Tab.find? t.teams j = Tab.find? s.teams j) ∧
           { t with teams := s.teams, pkg := p } = s) ∧
         ∀ i r, Tab.find? X.slots i = some r → bad (.slot id i k) fun t =>
           (∃ Y, Tab.find? t.teams id = some Y ∧ Tab.find? Y.slots i = some (if r.fmt = .acc
             then { r with rpois := r.rpois ||| 1 <<< k } else { r with tpois := true }) ∧
             (∀ j, j ≠ i → Tab.find? Y.slots j = Tab.find? X.slots j) ∧ { Y with slots := X.slots } = X) ∧
           (∀ j, j ≠ id → Tab.find? t.teams j = Tab.find? s.teams j) ∧ { t with teams := s.teams, pkg := p } = s) ∧
       (∀ gid g reg, s.group? gid = some g → ¬ (reg < g.work.budget ∧ (g.work.elastic = true → reg ∈ g.work.cached)) →
         bad (.vreg gid reg k) fun t => { t with pkg := p } = s) ∧
       ∀ gid g reg, s.group? gid = some g → reg < g.work.budget → (g.work.elastic = true → reg ∈ g.work.cached) → k < 4 →
         bad (.vreg gid reg k) fun t =>
         (∃ g', t.group? gid = some g' ∧ (g'.work.vreg reg).val = (g.work.vreg reg).val ∧
           (∀ l < 32, (g'.work.vreg reg).poison.getLsbD l = ((g.work.vreg reg).poison.getLsbD l || decide (l / 8 = k))) ∧
           (∀ j, j ≠ reg → Tab.find? g'.work.v j = Tab.find? g.work.v j) ∧
           { g' with work := { g'.work with v := g.work.v } } = g) ∧
         (∀ j, j ≠ gid → t.group? j = s.group? j) ∧ { t with groups := s.groups, pkg := p } = s)) ∧
  ∀ pair, idle (.dramRefresh pair)

/-- R13, R14, R61, R84, R103, R107, R121, R274, R278, R319, R324, R325, R328, R329, R332: requests from outside. A memory read answers
the bytes at home, a write takes its bytes home at device scope or, for a line of the directory, with no times, and both answer an
error outside the HDM window; in HOLD and while the clocks stand they wait, and are tried again. A packet for this package performs
if its context generation is open, and is dropped and counted if not; copy data is stamped past the leases of its lines. A timeout
answers a waiting request with an error. Replays are counted flit by flit; after sixteen of one flit a port may go down, and the
accesses whose packets it loses receive error responses. PAIR_LOSS ends what runs on the die, logs the dirty lines it lost, and takes
the pair away. Where the spec leaves room it follows logs 68, 89, 90, 91 and 110. Those clauses are the model's reading. -/
def Obligations.HostAndFabric : Prop := ∀ s : State,
  let idle (i : Instr) : Prop := exec i s = .next s
  -- what comes of trying request `id`, in a state `s0` that holds it
  let tried (o : Host.Outcome State Fault Refusal) (id : Nat) (r : Request) (s0 : State) : Prop :=
    let answers (y : Option (List Byte)) (s1 : State) : Prop := o = .next { s1 with pkg := { s1.pkg with
      answers := s1.pkg.answers ++ [⟨id, y.isSome, y.getD []⟩], requests := Tab.erase s1.pkg.requests id } }
    (s0.pkg.power = .hold → o = .next s0) ∧
    (s0.pkg.power = .run ∨ s0.pkg.power = .retreat → (s0.pkg.clock = .stopped → o = .next s0) ∧
      (s0.pkg.clock ≠ .stopped → (∀ y s1, r.run s0 = .ok y s1 → answers y s1) ∧ ∀ e s1, r.run s0 = .error e s1 → o = .next s0)) ∧
    (s0.pkg.power ≠ .hold → s0.pkg.power ≠ .run → s0.pkg.power ≠ .retreat → answers none s0)
  let arrives (i : Instr) (r : Request) : Prop := tried (exec i s) s.nextReq r
    { s with nextReq := s.nextReq + 1, pkg := { s.pkg with requests := Tab.put s.pkg.requests s.nextReq r } }
  let plus (k : Nat) (t : State) : Prop := ∀ j, Tab.get t.pkg.counters j 0 =
    if j = k then (Tab.get s.pkg.counters k 0 + 1) % 2 ^ 64 else Tab.get s.pkg.counters j 0
  let runs (pa : BitVec 52) (n : Nat) := paRuns pa.toNat n
  let open_ (p : Packet) : Prop := s.genOpen p.ctx p.gen = true
  -- memory with some bytes in the place of what stood there
  let holds (t : State) (pa : BitVec 52) (bytes : List Byte) : Prop := ∀ a, Memory.get t.mem a =
    if pa.toNat ≤ a ∧ a < pa.toNat + bytes.length then (bytes[a - pa.toNat]?).getD 0 else Memory.get s.mem a
  -- no line of a range can hold the location word of a saved-state block
  let free (l : List (Nat × Nat × Nat)) : Prop := s.groups = [] ∨ ∀ x ∈ l, lineOf x.1 % 512 ≠ 4
  let read (pa : BitVec 52) (n : Nat) : List Byte := (List.range n).map fun j => Memory.get s.mem (pa.toNat + j)
  -- a peer's access leaves its lines in the directory
  let directed (t : State) (l : List (Nat × Nat × Nat)) : Prop :=
    (∀ x, x ∈ t.pkg.snooped ↔ x ∈ s.pkg.snooped ∨ ∃ y ∈ l, x = lineOf y.1) ∧
    { t with mem := s.mem, poison := s.poison, pkg := { t.pkg with snooped := s.pkg.snooped } } = s
  -- requests
  (∀ pa n, (s.pkg.power = .off → idle (.cxlMemRead pa n)) ∧ (s.pkg.power ≠ .off → arrives (.cxlMemRead pa n) (.read pa n))) ∧
  (∀ pa bytes, (s.pkg.power = .off → idle (.cxlMemWrite pa bytes)) ∧
    (s.pkg.power ≠ .off → arrives (.cxlMemWrite pa bytes) (.write pa bytes))) ∧
  (∀ p : Packet, (s.pkg.power = .off ∨ p.dst ≠ s.pkg.fabricNo ∨ (∀ x ∈ s.pkg.ports, x.up = false) → idle (.fabricPacket p)) ∧
    (s.pkg.power ≠ .off → p.dst = s.pkg.fabricNo → (∃ x ∈ s.pkg.ports, x.up = true) →
      (open_ p → arrives (.fabricPacket p) (.fabric p)) ∧
      (¬ open_ p → ∃ t, exec (.fabricPacket p) s = .next t ∧ plus 5 t ∧
        { t with pkg := { t.pkg with counters := s.pkg.counters } } = s))) ∧
  (∀ req, (Tab.find? s.pkg.requests req = none → runMove (.retry req) s = .next s ∧ idle (.completionTimeout req)) ∧
    ∀ r, Tab.find? s.pkg.requests req = some r →
      ((∀ p, r = .fabric p → open_ p) → tried (runMove (.retry req) s) req r s) ∧
      (∀ p, r = .fabric p → ¬ open_ p → ∃ t, runMove (.retry req) s = .next t ∧ plus 5 t ∧
        t.pkg.requests = Tab.erase s.pkg.requests req ∧
        { t with pkg := { t.pkg with counters := s.pkg.counters, requests := s.pkg.requests } } = s) ∧
      exec (.completionTimeout req) s = .next { s with pkg := { s.pkg with
        answers := s.pkg.answers ++ [⟨req, false, []⟩], requests := Tab.erase s.pkg.requests req } }) ∧
  (∀ (ctx : Nat) (gen : BitVec 12), s.genOpen ctx gen = true ↔ ctx < 16 ∧ (s.ctx ctx).state ≠ .closed ∧ (s.ctx ctx).gen = gen) ∧
  -- what the host reads and writes
  (∀ l, s.mapped l = true ↔ s.windowed l = true ∧
    ∀ x ∈ l, pairOf x.1 * 0x2FC0000000 + x.1 % 2 ^ 38 + x.2.2 ≤ s.pkg.hdm * 2 ^ 28) ∧
  (∀ l, s.windowed l = true ↔ ∀ x ∈ l, usableLocal x.1 = true ∧ s.place x.1 = .here) ∧
  (∀ (pa : BitVec 52) (n : Nat), s.mapped (runs pa n) = false → (Request.read pa n).run s = .ok none s) ∧
  (∀ (pa : BitVec 52) (n : Nat) bs s1, (Request.read pa n).run s = .ok (some bs) s1 → Memory.wf s.mem = true →
    (∀ c, (s.core c).wb = [] ∧ (s.core c).l1 = []) → s1.mem = s.mem ∧ bs = read pa n) ∧
  (∀ (pa : BitVec 52) (n a off k : Nat) bs s1, runs pa n = [(a, off, k)] → (Request.read pa n).run s = .ok (some bs) s1 →
    Memory.wf s.mem = true → lineOf a ∉ s.pkg.snooped → ∀ o w dirty pin d, (s.home (lineOf a)).owner = some o → o ≠ 320 →
      Tab.find? (s.core o).l1 (lineOf a) = some ⟨.owned w dirty pin, d⟩ →
      let now (b : Nat) : Byte := if b / 128 ≠ lineOf a then Memory.get s.mem b
        else if dirty.getLsbD (b % 128) then (d.bytes[b % 128]?).getD 0
        else match Tab.find? (s.core o).wb (lineOf a) with
          | none => Memory.get s.mem b
          | some x => if x.dirty.getLsbD (b % 128) then (x.data.bytes[b % 128]?).getD 0 else Memory.get s.mem b
      bs = (List.range n).map (fun j => now (pa.toNat + j)) ∧ ∀ b, Memory.get s1.mem b = now b) ∧
  (∀ (pa : BitVec 52) bytes, s.mapped (runs pa bytes.length) = false → (Request.write pa bytes).run s = .ok none s) ∧
  (∀ (pa : BitVec 52) bytes y s1, s.mapped (runs pa bytes.length) = true → (Request.write pa bytes).run s = .ok y s1 →
    Memory.wf s.mem = true → free (runs pa bytes.length) → y = some [] ∧ holds s1 pa bytes) ∧
  (∀ (pa : BitVec 52) bytes a off k, runs pa bytes.length = [(a, off, k)] → Memory.wf s.mem = true →
    let takes (t : State) : Prop := ∀ b, Memory.get t.mem b =
      if pa.toNat ≤ b ∧ b < pa.toNat + bytes.length ∧ (s.open_ (lineOf a) (maskOf (a % 128) k)).getLsbD (b % 128) = true
      then (bytes[b - pa.toNat]?).getD 0 else Memory.get s.mem b
    (s.mapped (runs pa bytes.length) = true → s.serves (lineOf a) = true → lineOf a ∈ s.pkg.snooped →
      ∃ t, (Request.write pa bytes).run s = .ok (some []) t ∧ takes t) ∧
    (s.windowed (runs pa bytes.length) = true → s.serves (lineOf a) = true →
      ∃ t, packetEffect (.store pa bytes) s = .ok (some []) t ∧ takes t)) ∧
  (∀ (pa : BitVec 52) bytes, s.mapped (runs pa bytes.length) = true → Memory.wf s.mem = true → free (runs pa bytes.length) →
    (∀ x ∈ runs pa bytes.length, s.serves (lineOf x.1) = true ∧ lineOf x.1 ∈ s.pkg.snooped) →
    ∃ t, (Request.write pa bytes).run s = .ok (some []) t ∧ holds t pa bytes ∧ { t with mem := s.mem, poison := s.poison } = s) ∧
  -- what packets do
  (∀ (pa : BitVec 52) bytes, s.windowed (runs pa bytes.length) = true → Memory.wf s.mem = true →
    free (runs pa bytes.length) → (∀ x ∈ runs pa bytes.length, s.serves (lineOf x.1) = true) → ∃ t, packetEffect (.store pa bytes) s = .ok (some []) t ∧
      holds t pa bytes ∧ directed t (runs pa bytes.length)) ∧
  (∀ (pa : BitVec 52) n, s.windowed (runs pa n) = true → Memory.wf s.mem = true →
    (∀ x ∈ runs pa n, s.serves (lineOf x.1) = true) → ∃ t, packetEffect (.load pa n) s = .ok (some (read pa n)) t ∧
      t.mem = s.mem ∧ t.poison = s.poison ∧ directed t (runs pa n)) ∧
  (∀ (pa : BitVec 52) op n b c, s.windowed (runs pa n) = true → Memory.wf s.mem = true →
    free (runs pa n) → (∀ x ∈ runs pa n, s.serves (lineOf x.1) = true) → ∃ t, packetEffect (.atomic pa op n b c) s = .ok (some (read pa n)) t ∧
      holds t pa (leBytesOf n (atomNew op n (leVal (read pa n)) (b.toNat % 2 ^ (8 * n)) (c.toNat % 2 ^ (8 * n)))) ∧
      directed t (runs pa n)) ∧
  (∀ (pa : BitVec 52) bytes, s.windowed (runs pa bytes.length) = true → Memory.wf s.mem = true →
    (free (runs pa bytes.length) → ∀ y t, packetEffect (.copyData pa bytes) s = .ok y t → y = some [] ∧ holds t pa bytes) ∧
    ∀ a off k, runs pa bytes.length = [(a, off, k)] → let w := serialMax (s.core 320).pts ((s.home (lineOf a)).rts + 1)
      s.serves (lineOf a) = true → s.pkg.clock ≠ .stopped → s.now < (s.core 320).cyc.toNat + (s.core 320).period → LeadTakes s w →
      ∃ t h, packetEffect (.copyData pa bytes) s = .ok (some []) t ∧ Tab.find? t.homes (lineOf a) = some h ∧ h.wts = w ∧ h.rts = w) ∧
  (∀ (pa : BitVec 52) n bytes op b c, s.windowed (runs pa n) = false → bytes.length = n →
    packetEffect (.load pa n) s = .ok none s ∧ packetEffect (.store pa bytes) s = .ok none s ∧
    packetEffect (.copyData pa bytes) s = .ok none s ∧ packetEffect (.atomic pa op n b c) s = .ok none s) ∧
  (∀ (pa : BitVec 52) held, ∃ t, packetEffect (.directory pa held) s = .ok (some []) t ∧
    (∀ x, x ∈ t.pkg.snooped ↔ if usableLocal pa.toNat = true ∧ x = lineOf pa.toNat then held = true else x ∈ s.pkg.snooped) ∧
    { t with pkg := { t.pkg with snooped := s.pkg.snooped } } = s) ∧
  -- ports
  (∀ i flit, (s.pkg.portUp i = true ↔ ∃ x, s.pkg.ports[i]? = some x ∧ x.up = true) ∧
    (s.pkg.portUp i = false → idle (.flitReplay ⟨i, flit⟩)) ∧
    (∀ x, s.pkg.ports[i]? = some x → 16 ≤ Tab.get x.replays flit 0 → idle (.flitReplay ⟨i, flit⟩)) ∧
    ∀ x, s.pkg.ports[i]? = some x → x.up = true → Tab.get x.replays flit 0 < 16 → ∃ t y, exec (.flitReplay ⟨i, flit⟩) s = .next t ∧ t.pkg.ports[i]? = some y ∧
      y.up = true ∧ (∀ j, Tab.get y.replays j 0 = Tab.get x.replays j 0 + if j = flit then 1 else 0) ∧
      (∀ j, j ≠ i → t.pkg.ports[j]? = s.pkg.ports[j]?) ∧ plus 4 t ∧
      { t with pkg := { t.pkg with ports := s.pkg.ports, counters := s.pkg.counters } } = s) ∧
  (∀ i lost, let worn : Prop := ∃ x, s.pkg.ports[i]? = some x ∧ x.up = true ∧ ∃ n ∈ Tab.vals x.replays, 16 ≤ n
    (¬ worn → idle (.portDown ⟨i, lost⟩)) ∧
    (worn → ∃ s1, plus 6 s1 ∧ s1.pkg.ports[i]? = some ⟨false, []⟩ ∧ (∀ j, j ≠ i → s1.pkg.ports[j]? = s.pkg.ports[j]?) ∧
      { s1 with pkg := { s1.pkg with ports := s.pkg.ports, counters := s.pkg.counters } } = s ∧
      (lost = [] → exec (.portDown ⟨i, lost⟩) s = .next s1) ∧
      (∀ t, each lost loseAccess s1 = .ok () t → exec (.portDown ⟨i, lost⟩) s = .next t) ∧
      ∀ e t, each lost loseAccess s1 = .error e t → idle (.portDown ⟨i, lost⟩))) ∧
  (∀ gid g st e, s.group? gid = some g → headLoad g st s = .ok e s → (∃ line f, e.line? = some line ∧ region (line * 128) = .peer f) →
    e.kind ≠ .launch → ∀ s1 t, loadDone gid e s = .ok () s1 → raise gid e.acc.level (performRecs e.acc
      (e.elems.map fun x => (x.lane, ⟨11, 0, x.va, BitVec.ofNat 64 x.pa⟩))) s1 = .ok () t → loseAccess (.load gid st) s = .ok () t) ∧
  (∀ gid g st e, s.group? gid = some g → headStore g st s = .ok e s → (∃ line f, e.line? = some line ∧ region (line * 128) = .peer f) →
    ∀ s1 t, storeDone gid e s = .ok () s1 → raise gid e.acc.level (performRecs e.acc
      (e.elems.map fun x => (x.lane, ⟨11, 0, x.va, BitVec.ofNat 64 x.pa⟩))) s1 = .ok () t → loseAccess (.store gid st) s = .ok () t) ∧
  (∀ core id k line f, s.cmd? core id = some k → k.stalled = false → k.kind ≠ .fred → line ∈ k.todo →
    region (line * 128) = .peer f → loseAccess (.copyWrite core id line) s =
      writeRefused core k line (firstVa ((k.runs s.pkg.fabricNo.toNat).filter (·.line == line))) s) ∧
  (∀ (pa : Nat) f, region pa = .peer f → f ≠ s.pkg.fabricNo.toNat →
    s.place pa = if (∃ x ∈ s.pkg.ports, x.up = true) ∧ Config.remotePresent pa = true then .here else .error) ∧
  (let peer (pa : Nat) : Prop := ∃ f, region (lineOf pa * 128) = .peer f
   let lost (va : DWord) (pa : Nat) (pc : DWord) (word : Word) (src : BitVec 3) : Rec :=
     ⟨va, BitVec.ofNat 64 pa, pc, word, src, 0, false, 11, 0, false, 0, false⟩
   (∀ gid g y s1 t, s.runnable gid = some g → g.armBlocked = false →
     accessAt g.core g.ctx g.work.pc .fetch none false false s = .ok (.ok y) s1 → peer y.pa →
     Tab.find? (s1.core g.core).icache (lineOf y.pa) = none → raise gid g.level [lost g.work.pc y.pa g.work.pc 0 0] s1 = .ok () t →
     loseAccess (.fetchA gid) s = .ok () t) ∧
   (∀ gid g cur (part : BitVec 2) z y s1 t, s.runnable gid = some g → laneAt { s with focus := ⟨gid, cur, 0⟩ } = some z → part ≠ 3 →
     let va := z.cursor.pc + 4 * part.setWidth 64
     accessAt g.core g.ctx va .fetch none false false s = .ok (.ok y) s1 → peer y.pa → Tab.find? (s1.core g.core).lcache (lineOf y.pa) = none →
     raise gid g.level [lost va y.pa z.cursor.pc 0 (if cur then 2 else 1)] (s1.updWork gid g.level (·.reread cur)) = .ok () t →
     loseAccess (.fetchL gid cur part) s = .ok () t) ∧
   (∀ gid g cur c T d y s1 t, s.runnable gid = some g → g.work.cursor cur = some c → c.start = none →
     Tab.find? s.teams g.team = some T → Tab.find? s.grids T.grid = some d →
     let va := d.packet.table + 8 * c.token.block.setWidth 64
     accessAt g.core g.ctx va .load none false false s = .ok (.ok y) s1 → peer y.pa →
     raiseLogged gid g.level (tokenRecs cur va c.token.block ⟨11, 0, va, BitVec.ofNat 64 y.pa⟩) [y.pa] s1 = .ok () t →
     loseAccess (.table gid cur) s = .ok () t) ∧
   (∀ gid g w i va s1 y s2 t, s.runnable gid = some g → g.armBlocked = false → fetchArm g.core g.ctx g.work.pc s = .ok w s1 →
     decodeArm w = .ok i → issueLoad g i = some va → accessAt g.core g.ctx va .load none false false s1 = .ok (.ok y) s2 → peer y.pa →
     raise gid g.level [lost va y.pa g.work.pc (BitVec.ofNat 32 w) 0] s2 = .ok () t → loseAccess (.issue gid) s = .ok () t) ∧
   (∀ (g : Group) (d a b : SReg), g.work.list = none → issueLoad g (.cpy d a) = some (g.work.sreg a) ∧
     (g.work.tokensRetired = true → g.accessesDone = true → issueLoad g (.launch d a b) = some (g.work.sreg a))) ∧
   (∀ core id k s1 k1 t, s.cmd? core id = some k → k.stalled = false → k.kind = .fred → k.sent = true ∨ (s.unread k).length ≤ 1 →
     copyError core k k.block.src 0 s = .ok () s1 → s1.cmd? core id = some k1 → endCmd core k1 false s1 = .ok () t →
     loseAccess (.contribution core id) s = .ok () t) ∧
   (∀ q c z e y s1 t, headOfQueue q s = .ok (c, z, e) s → e.checked = true → e.depMet = false →
     accessAt (s.partCore [] q) c e.daddr .load none false false s = .ok (.ok y) s1 → peer y.pa → reject q c e 9 s1 = .ok () t →
     loseAccess (.dependence q) s = .ok () t) ∧
   (let noWord (d : Grid) (core : Nat) : M Unit := do
      let _ ← peerPa core d.ctx d.packet.done .store
      logError d.ctx 2 (d.queue % 64 * 256)
    (∀ id t, finishGrid id noWord s = .ok () t → loseAccess (.completion id) s = .ok () t) ∧
    ∀ d core y s1 t, accessAt core d.ctx d.packet.done .store none false false s = .ok (.ok y) s1 → peer y.pa →
      logError d.ctx 2 (d.queue % 64 * 256) s1 = .ok () t → noWord d core s = .ok () t) ∧
   ∀ core id k va key a pa s1, s.cmd? core id = some k → k.stalled = false →
     (s.unread k).find? (fun y => y.1 % 2 ^ 64 == va.toNat / 128 * 128) = some (key, a) →
     sourcePa core k key (BitVec.ofNat 64 a) s = .ok (.ok pa) s1 → peer pa →
     loseAccess (.copyRead core id va) s = readRefused core k key (BitVec.ofNat 64 a) pa s1) ∧
  (∀ req, Tab.find? s.pkg.requests req ≠ none → loseAccess (.request req) s = .ok () { s with pkg := { s.pkg with
    answers := s.pkg.answers ++ [⟨req, false, []⟩], requests := Tab.erase s.pkg.requests req } }) ∧
  ∀ k, (8 ≤ k ∨ k ∈ s.pkg.lost → idle (.pairLoss k)) ∧
    (k < 8 → k ∉ s.pkg.lost → ∀ s1 s2 s4 t,
      each (s.groups.filter fun x => x.2.present && dieOf x.2.core == k) (fun x => haltGroup x.1) s = .ok () s1 →
      stopCopies (fun c _ => dieOf c == k) s1 = .ok () s2 →
      let gone := s2.lostDirty k
      let s3 : State := { s2 with
        cores := Tab.mapVals s2.cores fun c x => x.afterLoss k c
        rdc := s2.rdc.filter fun (i, _) => i / 2 ^ 45 != k && !homedOn k (i % 2 ^ 45)
        homes := s2.homesAfter k
        walks := s2.walks.filter fun w => dieOf w.core != k
        pkg := { s2.pkg with lost := s2.pkg.lost ++ [k], errlog := s2.pkg.errlog ++ gone.map (· * 128) } }
      s4 = { s3 with pkg := { s3.pkg with msix := s3.pkg.msix ++ gone.map fun _ => 81 } } → faultWaiters k s4 = .ok () t →
      exec (.pairLoss k) s = .next t ∧ (∀ pa, pa < 2 ^ 41 → pa / 2 ^ 38 = k → s4.place pa = .lost k) ∧
      (∀ line, homedOn k line = true → Tab.find? s4.homes line = none) ∧
      (∀ line h, Tab.find? s4.homes line = some h → ∀ o, h.owner = some o → dieOf o ≠ k) ∧
      ∀ line, line ∈ gone ↔ (∃ c x l, (c, x) ∈ s2.cores ∧ dieOf c ≠ k ∧ (line, l) ∈ x.l1 ∧ homedOn k line = true ∧
          l.kind.dirty = true) ∨
        (∃ c x b, (c, x) ∈ s2.cores ∧ dieOf c ≠ k ∧ (line, b) ∈ x.wb ∧ homedOn k line = true ∧ b.dirty ≠ 0) ∨
        ∃ i r, (i, r) ∈ s2.rdc ∧ i / 2 ^ 45 ≠ k ∧ i % 2 ^ 45 = line ∧ homedOn k line = true ∧ r.dirty ≠ 0)

/-- R69, R127, R146, R158, R166: a step runs the decoded instruction. With an instruction of the Armature or of a cursor next
on the agenda, the step fetches the word at that stream's pc, and where it decodes to a well-formed instruction the step is
exec of it, in focus; a word that names none raises ILLEGAL; a move of the table that is next is exec of it. With an empty
agenda the step takes the move that the model's default order picks (the model's choice, log 1). The fetched word is the four
bytes at the pc. Where the spec leaves room it follows log 42. Those clauses are the model's reading. -/
def Obligations.StepRunsDecoded : Prop := ∀ (s : State) (rest : List Move) (gid : Nat),
  let s0 : State := { s with agenda := rest }
  (∀ i, s.agenda = .act i :: rest → step s = exec i s0) ∧
  (s.agenda = [] → step s = runMove (defaultMove s) { s with turn := s.turn + 1 }) ∧
  (∀ g w s1, s.agenda = .issueA gid :: rest → s0.runnable gid = some g → g.armBlocked = false →
    fetchArm g.core g.ctx g.work.pc s0 = .ok w s1 →
    (∀ i, decodeArm w = .ok i → i.wf = true → (∀ r ∈ armRegs i, r ∉ g.pendingRegs) →
      step s = exec i { s1 with focus := ⟨gid, false, w⟩ }) ∧
    (∀ i, decodeArm w = .ok i → i.wf = true → (∃ r ∈ armRegs i, r ∈ g.pendingRegs) → step s = .next s1) ∧
    (((∃ e, decodeArm w = .error e) ∨ ∃ i, decodeArm w = .ok i ∧ i.wf = false) → step s = .next (takeMove s1 (raise gid g.level
      [⟨0, 0, g.work.pc, BitVec.ofNat 32 w, 0, 0, false, 5, 0, false, 0, false⟩])))) ∧
  (∀ cur g x w s1, s.agenda = .issueL gid cur :: rest → s0.runnable gid = some g →
    laneAt { s0 with focus := ⟨gid, cur, 0⟩ } = some x → fetchLane g.core g.ctx x.cursor.pc s0 = .ok w s1 →
    (∀ i, decodeLane w = .ok i → i.wf = true → step s = exec i { s1 with focus := ⟨gid, cur, w⟩ }) ∧
    (((∃ e, decodeLane w = .error e) ∨ ∃ i, decodeLane w = .ok i ∧ i.wf = false) →
      step s = .next (laneIllegal { s1 with focus := ⟨gid, cur, w⟩ } x))) ∧
  (∀ cur, (s.agenda = .issueA gid :: rest ∨ s.agenda = .issueL gid cur :: rest) → s0.runnable gid = none → step s = .next s0) ∧
  ∀ c ctx (va : DWord) (x : Xlat) d s1, va.toNat % 4 = 0 → accessM c ctx va .fetch none s = .ok x s1 →
    (Tab.find? (s1.core c).icache (lineOf x.pa) = some d ∨
      (Tab.find? (s1.core c).icache (lineOf x.pa) = none ∧ isLocal (lineOf x.pa) = false ∧ s1.place x.pa = .here ∧
        d = s1.homeData (lineOf x.pa)) ∨
      (Tab.find? (s1.core c).icache (lineOf x.pa) = none ∧ isLocal (lineOf x.pa) = true ∧ s1.place x.pa = .here ∧
        ∃ w r s2 s3, readHome c (lineOf x.pa) s1 = .ok (w, r) s2 ∧ jump c w s2 = .ok () s3 ∧ d = s3.homeData (lineOf x.pa))) →
    d.poisoned (x.pa % 128) 4 = false → ∃ s2, fetchArm c ctx va s = .ok (leVal (d.slice (x.pa % 128) 4)) s2

/-- R142, R145, R146, R147, R148, R149, R152, R155: words written out from the encodings of the spec decode to the instructions they
stand for, and words with a reserved code or an unused field that is not zero decode to none. -/
def Obligations.DecodeWords : Prop :=
  decodeTableWord 32 (0x01 * 2 ^ 26 + 5 * 2 ^ 20 + 6 * 2 ^ 14 + 7 * 2 ^ 8 + 0x01) = some (.ssub 5 6 7) ∧
  decodeTableWord 32 (0x3E * 2 ^ 26 + 9 * 2 ^ 14) = some (.trap 9) ∧
  decodeTableWord 32 (0x3E * 2 ^ 26 + 3) = some .exit ∧
  decodeTableWord 32 (0x3E * 2 ^ 26 + 1 * 2 ^ 20 + 3) = none ∧
  decodeTableWord 32 (0x01 * 2 ^ 26 + 0xFF) = none ∧
  (∀ w < 2 ^ 26, decodeTableWord 32 w = none) ∧
  decodeTableWord 96 (0x81000000 + 0x80000000 * 2 ^ 32 + 0x60003C38 * 2 ^ 64) =
    some (.vld ⟨none, none⟩ 0 ⟨1, .lane, 0⟩ .b true .dev .rlx) ∧
  decodeTableWord 96 (0x080 * 2 ^ 86 + 3 * 2 ^ 78 + 4 * 2 ^ 70 + 0xE5 * 2 ^ 62 + 1 * 2 ^ 42 + 1 * 2 ^ 41 + 2 * 2 ^ 38 +
    1 * 2 ^ 34 + 3 * 2 ^ 32) = some (.viadd ⟨some ⟨true, 2⟩, some (.ldc, 3)⟩ 3 (.v 4) (.w 5)) ∧
  decodeTableWord 96 (0x1E1 * 2 ^ 86) = some .lend ∧
  decodeTableWord 96 (0x1E1 * 2 ^ 86 + 1) = none ∧
  decodeTableWord 96 (0x000 * 2 ^ 86) = none

/-- R141 to R157: the decoder reads back every field that the encoder writes. For every well-formed instruction that has an
encoding, with every operand at every value, decoding its word gives the instruction, and the word fits its 32 or 96 bits. -/
def Obligations.EncodeDecode : Prop := ∀ (i : Instr) (n w : Nat), i.wf = true → encode i = some (n, w) →
  w < 2 ^ n ∧ (n = 32 ∨ n = 96) ∧ decodeTableWord n w = some i

/-- R13, R60, R320 (the form of the listing is the model's own, log 3): home memory keeps its canonical form, with addresses
strictly rising and no listed byte zero, through every step of the machine from every state that has it. -/
def Obligations.MemoryCanonical : Prop := ∀ s t : State, Memory.wf s.mem = true → step s = .next t → Memory.wf t.mem = true

/-- R104, R105, R106, R115, R265, R300, R301, R306, R312, R320, R332: what the machine is after power is applied. That
contexts are closed, that the clocks stand, that LEAD and the host agent's pts are 0, that there is no group, no grid and no lost pair,
and that engines, matrix units and TLBs are empty is the model's own choice, where the spec gives no value (log 2, DESIGN CHOICE); the
other values are the spec's. -/
def Obligations.ResetState : Prop :=
  let s := State.reset
  s.pkg.power = .ambient ∧ s.pkg.clock = .stopped ∧ s.lead = 0 ∧ s.lease = 0x0A ∧ s.tick = 0x40 ∧ Memory.wf s.mem = true ∧
  s.groups = [] ∧ s.grids = [] ∧ s.pkg.lost = [] ∧ s.computes = false ∧
  (∀ c, (s.core c).pts = 0 ∧ (s.core c).engine = [] ∧ (s.core c).matrix = [] ∧ (s.core c).tlb = [] ∧
    ∀ n : Fin 16, (s.core c).mons[n].act = 0 ∧ (s.core c).mons[n].lo = 0xFF800000 ∧ (s.core c).mons[n].hi = 0x7F800000 ∧
      (s.core c).mons[n].nan = 0 ∧ (s.core c).mons[n].flag = 0 ∧ ∀ j : Fin 32, (s.core c).mons[n].bins[j] = 0) ∧
  ∀ c < 16, (s.ctx c).quota = 0x100 ∧ (s.ctx c).used = 0 ∧ (s.ctx c).state = .closed ∧ (s.ctx c).ovf = false ∧
    (s.ctx c).drops = 0 ∧ (s.ctx c).errCount = 0

/-- R67, R166, R295, R303: nothing stops the machine. Every fault of the spec is an exception of one group, and a move whose
precondition fails waits, so exec of every instruction and every step answer a next state, from every state. -/
def Obligations.EveryStepIsNext : Prop := ∀ s : State, (∀ i : Instr, ∃ t, exec i s = .next t) ∧ ∃ t, step s = .next t
end

