-- ==== Sys2Proof/Laws/Memory.lean ====
section
/-!
SUPPORT. What the operations over home memory do, and that each of them keeps the canonical form.
-/
namespace Sys2Proof.Machine

namespace Memory

theorem wfFrom_le {lo hi : Nat} {m : List Host.Cell} (h : wfFrom hi m = true) (hle : lo ≤ hi) : wfFrom lo m = true := by
  cases m with
  | nil => rfl
  | cons x m => simp_all [wfFrom]; omega

/-- Below the first address that a listing may hold, everything reads as the blank value. -/
theorem get_of_lt {lo a : Nat} {m : List Host.Cell} (h : wfFrom lo m = true) (ha : a < lo) : get m a = blank := by
  cases m with
  | nil => rfl
  | cons x m => simp only [wfFrom, Bool.and_eq_true, decide_eq_true_eq] at h; grind [get]

/-- A byte stored reads back, and every other byte reads as before. -/
theorem get_set_from {lo : Nat} {m : List Host.Cell} (h : wfFrom lo m = true) (a : Nat) (v : Byte) (b : Nat) :
    get (set m a v) b = if b = a then v else get m b := by
  induction m generalizing lo with
  | nil => grind [get, set]
  | cons x m ih =>
    obtain ⟨k, w⟩ := x
    simp only [wfFrom, Bool.and_eq_true, decide_eq_true_eq] at h
    have hb : ∀ c, c < k + 1 → get m c = blank := fun c hc => get_of_lt h.2 hc
    have ih := ih h.2
    grind [get, set]

theorem get_set {m : List Host.Cell} (h : wf m = true) (a : Nat) (v : Byte) (b : Nat) :
    get (set m a v) b = if b = a then v else get m b := get_set_from h a v b

/-- A store keeps the canonical form. -/
theorem wfFrom_set {lo : Nat} {m : List Host.Cell} (h : wfFrom lo m = true) {a : Nat} (ha : lo ≤ a) (v : Byte) :
    wfFrom lo (set m a v) = true := by
  induction m generalizing lo with
  | nil => grind [wfFrom, set]
  | cons x m ih =>
    obtain ⟨k, w⟩ := x
    simp only [wfFrom, Bool.and_eq_true, decide_eq_true_eq, Bool.not_eq_true', beq_eq_false_iff_ne] at h
    simp only [set]
    split
    · split
      · simp [wfFrom, h]
      · grind [wfFrom]
    · split
      · split
        · exact wfFrom_le h.2 (by omega)
        · subst_vars; simp [wfFrom, *]
      · have := ih h.2 (by omega : k + 1 ≤ a)
        simp [wfFrom, h, this]

theorem wf_set {m : List Host.Cell} (h : wf m = true) (a : Nat) (v : Byte) : wf (set m a v) = true :=
  wfFrom_set h (Nat.zero_le a) v

theorem wf_setBytes {m : List Host.Cell} (h : wf m = true) (a : Nat) (l : List Byte) : wf (setBytes m a l) = true := by
  induction l generalizing m a with
  | nil => exact h
  | cons v l ih => exact ih (wf_set h a v) (a + 1)

/-- Bytes stored one after another read back. -/
theorem get_setBytes {m : List Host.Cell} (h : wf m = true) (a : Nat) (l : List Byte) (b : Nat) :
    get (setBytes m a l) b = if a ≤ b ∧ b < a + l.length then (l[b - a]?).getD 0 else get m b := by
  induction l generalizing m a with
  | nil => grind [setBytes]
  | cons v l ih =>
    rw [setBytes, ih (wf_set h a v), get_set h, List.length_cons]
    by_cases hb : b = a
    · subst hb; rw [if_neg (by omega), if_pos rfl, if_pos (by omega)]; simp
    · rw [if_neg hb]
      by_cases hc : a + 1 ≤ b ∧ b < a + 1 + l.length
      · rw [if_pos hc, if_pos (by omega)]
        obtain ⟨d, rfl⟩ : ∃ d, b = a + 1 + d := ⟨b - (a + 1), by omega⟩
        rw [show a + 1 + d - (a + 1) = d by omega, show a + 1 + d - a = d + 1 by omega, List.getElem?_cons_succ]
      · rw [if_neg hc, if_neg (by omega)]

/-- Leaving out the listing below an address changes no byte from there on. -/
theorem get_dropBelow_from {lo : Nat} {m : List Host.Cell} (h : wfFrom lo m = true) {a b : Nat} (hab : a ≤ b) :
    get (dropBelow m a) b = get m b := by
  induction m generalizing lo with
  | nil => rfl
  | cons x m ih =>
    obtain ⟨k, w⟩ := x
    simp only [wfFrom, Bool.and_eq_true] at h
    have ih := ih h.2
    grind [get, dropBelow]

theorem get_dropBelow {m : List Host.Cell} (h : wf m = true) {a b : Nat} (hab : a ≤ b) : get (dropBelow m a) b = get m b :=
  get_dropBelow_from h hab

/-- Bytes read are the bytes that are there. -/
theorem getElem?_getBytes {m : List Host.Cell} (h : wf m = true) (a n i : Nat) (hi : i < n) :
    (getBytes m a n)[i]? = some (get m (a + i)) := by
  simp [getBytes, hi, get_dropBelow h (Nat.le_add_right a i)]

end Memory

/-! ## Lines at home -/

theorem writeMasked_wf {m : List Host.Cell} (h : Memory.wf m = true) (base : Nat) (d : Vector Byte 128) (mask : BitVec 128)
    (l : List Nat) : Memory.wf (writeMasked m base d mask l) = true := by
  induction l generalizing m with
  | nil => exact h
  | cons i l ih => exact ih (by split <;> simp [Memory.wf_set, h])

/-- Of the offsets listed, those under the mask take their bytes; every other byte reads as before. -/
theorem get_writeMasked {m : List Host.Cell} (h : Memory.wf m = true) (base : Nat) (d : Vector Byte 128) (mask : BitVec 128)
    (l : List Nat) (b : Nat) : Memory.get (writeMasked m base d mask l) b =
      if base ≤ b ∧ (b - base) ∈ l ∧ mask.getLsbD (b - base) = true then (d[b - base]?).getD 0 else Memory.get m b := by
  induction l generalizing m with
  | nil => simp [writeMasked]
  | cons i l ih =>
    rw [writeMasked, ih (by split <;> simp [Memory.wf_set, h])]
    by_cases hm : mask.getLsbD i = true
    · rw [if_pos hm, Memory.get_set h]
      by_cases hb : b = base + i
      · subst hb; simp [hm]
      · have : b - base = i → ¬ base ≤ b := by omega
        grind
    · rw [if_neg hm]; grind

/-- A write at home keeps the canonical form. -/
theorem State.putHome_wf {s : State} (h : Memory.wf s.mem = true) (line : Nat) (d : LineData) (mask : BitVec 128) :
    Memory.wf (s.putHome line d mask).mem = true := writeMasked_wf h _ _ _ _

/-- The bytes of a line under the mask take their values; every other byte of memory reads as before. -/
theorem State.get_putHome {s : State} (h : Memory.wf s.mem = true) (line : Nat) (d : LineData) (mask : BitVec 128) (a : Nat) :
    Memory.get (s.putHome line d mask).mem a =
      if a / 128 = line ∧ mask.getLsbD (a % 128) = true then (d.bytes[a % 128]?).getD 0 else Memory.get s.mem a := by
  show Memory.get (writeMasked _ _ _ _ _) a = _
  rw [get_writeMasked h]
  by_cases hl : a / 128 = line
  · have e : a - line * 128 = a % 128 := by omega
    have hm : a % 128 < 128 := Nat.mod_lt _ (by omega)
    simp [e, hl, hm, show line * 128 ≤ a by omega]
  · have hn : ¬ (line * 128 ≤ a ∧ a - line * 128 ∈ List.range 128 ∧ mask.getLsbD (a - line * 128) = true) := by
      simp only [List.mem_range]; omega
    rw [if_neg hn, if_neg (by simp [hl])]

/-- A write at home changes nothing but memory and poison. -/
theorem State.putHome_rest (s : State) (line : Nat) (d : LineData) (mask : BitVec 128) :
    { s.putHome line d mask with mem := s.mem, poison := s.poison } = s := rfl

/-- The data of a line are the bytes that are there. -/
theorem State.homeData_bytes {s : State} (h : Memory.wf s.mem = true) (line : Nat) (i : Fin 128) :
    (s.homeData line).bytes[i] = Memory.get s.mem (line * 128 + i.val) := by
  simp [State.homeData, Memory.get_dropBelow h (Nat.le_add_right (line * 128) i.val)]

theorem State.placeBytes_wf {s : State} (h : Memory.wf s.mem = true) (a : Nat) (l : List Byte) :
    Memory.wf (s.placeBytes a l).mem = true := Memory.wf_setBytes h a l

/-- Memory after reset has the form. -/
theorem reset_mem_wf : Memory.wf State.reset.mem = true := rfl

end Sys2Proof.Machine
end

