-- ==== Sys2Proof/Laws/Monad.lean ====
section
/-!
SUPPORT. How the monad of the moves runs: each operation applied to a state, as a rewrite rule. With these a body is computed
by `simp` and never unfolded.
-/
namespace Sys2Proof.Machine

variable {α β : Type}

theorem run_bind (m : M α) (f : α → M β) (s : State) :
    (m >>= f) s = match m s with | .ok a s' => f a s' | .error e s' => .error e s' := by
  show EStateM.bind m f s = _
  unfold EStateM.bind
  split <;> simp_all

@[simp] theorem run_pure (a : α) (s : State) : (pure a : M α) s = .ok a s := rfl
@[simp] theorem run_get (s : State) : (get : M State) s = .ok s s := rfl
@[simp] theorem run_set (t s : State) : (set t : M PUnit) s = .ok ⟨⟩ t := rfl
@[simp] theorem run_modify (f : State → State) (s : State) : (modify f : M PUnit) s = .ok ⟨⟩ (f s) := rfl
@[simp] theorem run_throw (e : Stop) (s : State) : (throw e : M α) s = .error e s := rfl
@[simp] theorem run_waitM (s : State) : (waitM : M α) s = .error .wait s := rfl
@[simp] theorem run_faultM (c b : BitVec 4) (v a : DWord) (s : State) :
    (faultM c b v a : M α) s = .error (.faults [(0, ⟨c, b, v, a⟩)]) s := rfl
@[simp] theorem run_illegalM (s : State) : (illegalM : M α) s = .error (.faults [(0, ⟨Cls.illegal, 0, 0, 0⟩)]) s := rfl
@[simp] theorem run_privilegeM (s : State) : (privilegeM : M α) s = .error (.faults [(0, ⟨Cls.illegal, 1, 0, 0⟩)]) s := rfl

@[simp] theorem run_bind_pure (a : α) (f : α → M β) (s : State) : ((pure a : M α) >>= f) s = f a s := rfl
@[simp] theorem run_bind_get (f : State → M β) (s : State) : ((get : M State) >>= f) s = f s s := rfl
@[simp] theorem run_bind_set (t : State) (f : PUnit → M β) (s : State) : ((set t : M PUnit) >>= f) s = f ⟨⟩ t := rfl
@[simp] theorem run_bind_modify (h : State → State) (f : PUnit → M β) (s : State) :
    ((modify h : M PUnit) >>= f) s = f ⟨⟩ (h s) := rfl
@[simp] theorem run_bind_throw (e : Stop) (f : α → M β) (s : State) : ((throw e : M α) >>= f) s = .error e s := rfl
@[simp] theorem run_bind_waitM (f : α → M β) (s : State) : ((waitM : M α) >>= f) s = .error .wait s := rfl
@[simp] theorem run_bind_faultM (c b : BitVec 4) (v a : DWord) (f : α → M β) (s : State) :
    ((faultM c b v a : M α) >>= f) s = .error (.faults [(0, ⟨c, b, v, a⟩)]) s := rfl
@[simp] theorem run_bind_illegalM (f : α → M β) (s : State) :
    ((illegalM : M α) >>= f) s = .error (.faults [(0, ⟨Cls.illegal, 0, 0, 0⟩)]) s := rfl
@[simp] theorem run_bind_privilegeM (f : α → M β) (s : State) :
    ((privilegeM : M α) >>= f) s = .error (.faults [(0, ⟨Cls.illegal, 1, 0, 0⟩)]) s := rfl

/-- What a bind comes to once its first part is known. -/
theorem run_bind_ok {m : M α} {a : α} {s s' : State} (h : m s = .ok a s') (f : α → M β) : (m >>= f) s = f a s' := by
  rw [run_bind, h]

theorem run_bind_error {m : M α} {e : Stop} {s s' : State} (h : m s = .error e s') (f : α → M β) :
    (m >>= f) s = .error e s' := by rw [run_bind, h]

/-- A bind that ends well, taken apart. -/
theorem run_bind_ok_inv {m : M α} {f : α → M β} {b : β} {s t : State} (h : (m >>= f) s = .ok b t) :
    ∃ a s', m s = .ok a s' ∧ f a s' = .ok b t := by
  rw [run_bind] at h
  split at h
  · exact ⟨_, _, ‹_›, h⟩
  · cases h

@[simp] theorem run_need_true (s : State) : need true s = .ok () s := rfl
@[simp] theorem run_need_false (s : State) : need false s = .error .wait s := rfl

theorem run_need (b : Bool) (s : State) : need b s = if b then .ok () s else .error .wait s := by cases b <;> rfl

@[simp] theorem run_bind_need (b : Bool) (f : Unit → M β) (s : State) :
    (need b >>= f) s = if b then f () s else .error .wait s := by cases b <;> rfl

@[simp] theorem run_modCore (c : Nat) (f : Core → Core) (s : State) : modCore c f s = .ok ⟨⟩ (s.updCore c f) := rfl
@[simp] theorem run_modGroup (g : Nat) (f : Group → Group) (s : State) : modGroup g f s = .ok ⟨⟩ (s.updGroup g f) := rfl
@[simp] theorem run_modWork (g l : Nat) (f : Work → Work) (s : State) : modWork g l f s = .ok ⟨⟩ (s.updWork g l f) := rfl
@[simp] theorem run_modCtx (c : Nat) (f : Ctx → Ctx) (s : State) : modCtx c f s = .ok ⟨⟩ (s.updCtx c f) := rfl
@[simp] theorem run_nextPc (g l : Nat) (s : State) :
    nextPc g l s = .ok ⟨⟩ (s.updWork g l fun w => { w with pc := w.pc + 4 }) := rfl
@[simp] theorem run_bind_modCore (c : Nat) (h : Core → Core) (f : Unit → M β) (s : State) :
    (modCore c h >>= f) s = f () (s.updCore c h) := rfl
@[simp] theorem run_bind_modGroup (g : Nat) (h : Group → Group) (f : Unit → M β) (s : State) :
    (modGroup g h >>= f) s = f () (s.updGroup g h) := rfl
@[simp] theorem run_bind_modWork (g l : Nat) (h : Work → Work) (f : Unit → M β) (s : State) :
    (modWork g l h >>= f) s = f () (s.updWork g l h) := rfl
@[simp] theorem run_bind_modCtx (c : Nat) (h : Ctx → Ctx) (f : Unit → M β) (s : State) :
    (modCtx c h >>= f) s = f () (s.updCtx c h) := rfl
@[simp] theorem run_bind_nextPc (g l : Nat) (f : Unit → M β) (s : State) :
    (nextPc g l >>= f) s = f () (s.updWork g l fun w => { w with pc := w.pc + 4 }) := rfl

@[simp] theorem run_fresh (s : State) : fresh s = .ok s.nextSeq { s with nextSeq := s.nextSeq + 1 } := rfl
@[simp] theorem run_bind_fresh (f : Nat → M β) (s : State) :
    (fresh >>= f) s = f s.nextSeq { s with nextSeq := s.nextSeq + 1 } := rfl
@[simp] theorem run_bind_draw (f : Nat → M β) (s : State) :
    (draw >>= f) s = f s.draws { s with draws := s.draws + 1 } := rfl

theorem run_bind_theGroup {i : Nat} {s : State} {g : Group} (h : s.group? i = some g) (f : Group → M β) :
    (theGroup i >>= f) s = f g s := by simp [run_bind, theGroup, h]

theorem run_bind_theTeam {i : Nat} {s : State} {t : Team} (h : Tab.find? s.teams i = some t) (f : Team → M β) :
    (theTeam i >>= f) s = f t s := by simp [run_bind, theTeam, h]

theorem run_bind_theGrid {i : Nat} {s : State} {d : Grid} (h : Tab.find? s.grids i = some d) (f : Grid → M β) :
    (theGrid i >>= f) s = f d s := by simp [run_bind, theGrid, h]

/-- A conditional step. -/
@[simp] theorem run_ite (c : Prop) [Decidable c] (m n : M α) (s : State) : (if c then m else n) s = if c then m s else n s := by
  split <;> rfl

/-- A move taken: its end state if it ends well, else the state as it was. -/
theorem takeMove_ok {m : M Unit} {s t : State} (h : m s = .ok () t) : takeMove s m = t := by simp [takeMove, h]
theorem takeMove_error {m : M Unit} {s t : State} {e : Stop} (h : m s = .error e t) : takeMove s m = s := by
  simp [takeMove, h]
theorem moveStep_ok {m : M Unit} {s t : State} (h : m s = .ok () t) : moveStep s m = .next t := by
  rw [moveStep, takeMove_ok h]
theorem moveStep_error {m : M Unit} {s t : State} {e : Stop} (h : m s = .error e t) : moveStep s m = .next s := by
  rw [moveStep, takeMove_error h]

@[simp] theorem each_nil (f : α → M Unit) : each [] f = pure () := rfl
theorem each_cons (a : α) (l : List α) (f : α → M Unit) : each (a :: l) f = (do f a; each l f) := rfl

/-- A loop whose every turn keeps a property, and that ends well, keeps it. -/
theorem each_ok_keeps {P : State → Prop} {f : α → M Unit} {l : List α}
    (h : ∀ a ∈ l, ∀ s t, P s → f a s = .ok () t → P t) {s t : State} (hs : P s) (he : each l f s = .ok () t) : P t := by
  induction l generalizing s with
  | nil => cases he; exact hs
  | cons a l ih =>
    obtain ⟨_, s', h1, h2⟩ := run_bind_ok_inv he
    exact ih (fun b hb => h b (List.mem_cons_of_mem a hb)) (h a List.mem_cons_self s s' hs h1) h2

end Sys2Proof.Machine
end

