-- ==== Sys2Proof/Laws/Tab.lean ====
section
/-!
SUPPORT. What the operations on sparse tables do, for every table and every key.
-/
namespace Sys2Proof.Tab

@[simp] theorem find?_nil {α : Type} (n : Nat) : find? ([] : Tab α) n = none := rfl

theorem find?_cons {α : Type} (k : Nat) (a : α) (t : Tab α) (n : Nat) :
    find? ((k, a) :: t) n = if n = k then some a else find? t n := rfl

/-- A key that was put has its value; every other key is as before. -/
theorem find?_put {α : Type} (t : Tab α) (n m : Nat) (a : α) :
    find? (put t n a) m = if m = n then some a else find? t m := by
  induction t with
  | nil => rfl
  | cons x t ih => grind [put, find?]

@[simp] theorem find?_put_self {α : Type} (t : Tab α) (n : Nat) (a : α) : find? (put t n a) n = some a := by
  simp [find?_put]

theorem find?_put_ne {α : Type} {t : Tab α} {n m : Nat} (a : α) (h : m ≠ n) : find? (put t n a) m = find? t m := by
  simp [find?_put, h]

/-- `modify` changes the value of its key, if there is one, and no other. -/
theorem find?_modify {α : Type} (t : Tab α) (n m : Nat) (f : α → α) :
    find? (modify t n f) m = if m = n then (find? t n).map f else find? t m := by
  induction t with
  | nil => simp [modify]
  | cons x t ih => grind [modify, find?]

@[simp] theorem find?_modify_self {α : Type} (t : Tab α) (n : Nat) (f : α → α) :
    find? (modify t n f) n = (find? t n).map f := by simp [find?_modify]

theorem find?_modify_ne {α : Type} {t : Tab α} {n m : Nat} (f : α → α) (h : m ≠ n) :
    find? (modify t n f) m = find? t m := by simp [find?_modify, h]

/-- `mapVals` changes every value. -/
theorem find?_mapVals {α : Type} (t : Tab α) (m : Nat) (f : Nat → α → α) :
    find? (mapVals t f) m = (find? t m).map (f m) := by
  induction t with
  | nil => rfl
  | cons x t ih => grind [mapVals, find?]

/-- Erasing takes its key out and leaves every other key as it was. -/
theorem find?_erase {α : Type} (t : Tab α) (n m : Nat) : find? (erase t n) m = if m = n then none else find? t m := by
  induction t with
  | nil => simp [erase]
  | cons x t ih => grind [erase, find?]

@[simp] theorem find?_erase_self {α : Type} (t : Tab α) (n : Nat) : find? (erase t n) n = none := by simp [find?_erase]

theorem find?_erase_ne {α : Type} {t : Tab α} {n m : Nat} (h : m ≠ n) : find? (erase t n) m = find? t m := by
  simp [find?_erase, h]

/-- Two changes of one key are one change. -/
theorem modify_modify {α : Type} (t : Tab α) (n : Nat) (f g : α → α) :
    modify (modify t n f) n g = modify t n (fun a => g (f a)) := by
  induction t with
  | nil => rfl
  | cons x t ih => grind [modify]

theorem get_put {α : Type} (t : Tab α) (n m : Nat) (a d : α) :
    get (put t n a) m d = if m = n then a else get t m d := by
  unfold get; rw [find?_put]; split <;> rfl

@[simp] theorem get_put_self {α : Type} (t : Tab α) (n : Nat) (a d : α) : get (put t n a) n d = a := by
  simp [get_put]

theorem get_put_ne {α : Type} {t : Tab α} {n m : Nat} (a d : α) (h : m ≠ n) : get (put t n a) m d = get t m d := by
  simp [get_put, h]

end Sys2Proof.Tab
end

