-- ==== Sys2Proof/Laws/State.lean ====
section
/-!
SUPPORT. What each update of the state leaves in each field, one lemma per field, all true by definition; then what the
updates do to the groups, cores and contexts that are read back. Proofs cite these and never unfold a record update.
-/
namespace Sys2Proof.Machine
open Tab

/-! ## A group -/

@[simp] theorem State.updGroup_mem (s : State) (i : Nat) (f : Group → Group) : (s.updGroup i f).mem = s.mem := rfl
@[simp] theorem State.updGroup_poison (s : State) (i : Nat) (f : Group → Group) : (s.updGroup i f).poison = s.poison := rfl
@[simp] theorem State.updGroup_homes (s : State) (i : Nat) (f : Group → Group) : (s.updGroup i f).homes = s.homes := rfl
@[simp] theorem State.updGroup_plinths (s : State) (i : Nat) (f : Group → Group) : (s.updGroup i f).plinths = s.plinths := rfl
@[simp] theorem State.updGroup_mapcnt (s : State) (i : Nat) (f : Group → Group) : (s.updGroup i f).mapcnt = s.mapcnt := rfl
@[simp] theorem State.updGroup_rdc (s : State) (i : Nat) (f : Group → Group) : (s.updGroup i f).rdc = s.rdc := rfl
@[simp] theorem State.updGroup_cores (s : State) (i : Nat) (f : Group → Group) : (s.updGroup i f).cores = s.cores := rfl
@[simp] theorem State.updGroup_teams (s : State) (i : Nat) (f : Group → Group) : (s.updGroup i f).teams = s.teams := rfl
@[simp] theorem State.updGroup_grids (s : State) (i : Nat) (f : Group → Group) : (s.updGroup i f).grids = s.grids := rfl
@[simp] theorem State.updGroup_queues (s : State) (i : Nat) (f : Group → Group) : (s.updGroup i f).queues = s.queues := rfl
@[simp] theorem State.updGroup_ctxs (s : State) (i : Nat) (f : Group → Group) : (s.updGroup i f).ctxs = s.ctxs := rfl
@[simp] theorem State.updGroup_pkg (s : State) (i : Nat) (f : Group → Group) : (s.updGroup i f).pkg = s.pkg := rfl
@[simp] theorem State.updGroup_lease (s : State) (i : Nat) (f : Group → Group) : (s.updGroup i f).lease = s.lease := rfl
@[simp] theorem State.updGroup_tick (s : State) (i : Nat) (f : Group → Group) : (s.updGroup i f).tick = s.tick := rfl
@[simp] theorem State.updGroup_lead (s : State) (i : Nat) (f : Group → Group) : (s.updGroup i f).lead = s.lead := rfl
@[simp] theorem State.updGroup_leadLog (s : State) (i : Nat) (f : Group → Group) : (s.updGroup i f).leadLog = s.leadLog := rfl
@[simp] theorem State.updGroup_walks (s : State) (i : Nat) (f : Group → Group) : (s.updGroup i f).walks = s.walks := rfl
@[simp] theorem State.updGroup_visits (s : State) (i : Nat) (f : Group → Group) : (s.updGroup i f).visits = s.visits := rfl
@[simp] theorem State.updGroup_now (s : State) (i : Nat) (f : Group → Group) : (s.updGroup i f).now = s.now := rfl
@[simp] theorem State.updGroup_probedAt (s : State) (i : Nat) (f : Group → Group) : (s.updGroup i f).probedAt = s.probedAt := rfl
@[simp] theorem State.updGroup_agenda (s : State) (i : Nat) (f : Group → Group) : (s.updGroup i f).agenda = s.agenda := rfl
@[simp] theorem State.updGroup_turn (s : State) (i : Nat) (f : Group → Group) : (s.updGroup i f).turn = s.turn := rfl
@[simp] theorem State.updGroup_focus (s : State) (i : Nat) (f : Group → Group) : (s.updGroup i f).focus = s.focus := rfl
@[simp] theorem State.updGroup_draws (s : State) (i : Nat) (f : Group → Group) : (s.updGroup i f).draws = s.draws := rfl
@[simp] theorem State.updGroup_nextSeq (s : State) (i : Nat) (f : Group → Group) : (s.updGroup i f).nextSeq = s.nextSeq := rfl
@[simp] theorem State.updGroup_nextGroup (s : State) (i : Nat) (f : Group → Group) : (s.updGroup i f).nextGroup = s.nextGroup := rfl
@[simp] theorem State.updGroup_nextTeam (s : State) (i : Nat) (f : Group → Group) : (s.updGroup i f).nextTeam = s.nextTeam := rfl
@[simp] theorem State.updGroup_nextGrid (s : State) (i : Nat) (f : Group → Group) : (s.updGroup i f).nextGrid = s.nextGrid := rfl
@[simp] theorem State.updGroup_nextReq (s : State) (i : Nat) (f : Group → Group) : (s.updGroup i f).nextReq = s.nextReq := rfl

/-! ## A level of a group's work -/

@[simp] theorem State.updWork_mem (s : State) (i l : Nat) (f : Work → Work) : (s.updWork i l f).mem = s.mem := rfl
@[simp] theorem State.updWork_poison (s : State) (i l : Nat) (f : Work → Work) : (s.updWork i l f).poison = s.poison := rfl
@[simp] theorem State.updWork_homes (s : State) (i l : Nat) (f : Work → Work) : (s.updWork i l f).homes = s.homes := rfl
@[simp] theorem State.updWork_plinths (s : State) (i l : Nat) (f : Work → Work) : (s.updWork i l f).plinths = s.plinths := rfl
@[simp] theorem State.updWork_mapcnt (s : State) (i l : Nat) (f : Work → Work) : (s.updWork i l f).mapcnt = s.mapcnt := rfl
@[simp] theorem State.updWork_rdc (s : State) (i l : Nat) (f : Work → Work) : (s.updWork i l f).rdc = s.rdc := rfl
@[simp] theorem State.updWork_cores (s : State) (i l : Nat) (f : Work → Work) : (s.updWork i l f).cores = s.cores := rfl
@[simp] theorem State.updWork_teams (s : State) (i l : Nat) (f : Work → Work) : (s.updWork i l f).teams = s.teams := rfl
@[simp] theorem State.updWork_grids (s : State) (i l : Nat) (f : Work → Work) : (s.updWork i l f).grids = s.grids := rfl
@[simp] theorem State.updWork_queues (s : State) (i l : Nat) (f : Work → Work) : (s.updWork i l f).queues = s.queues := rfl
@[simp] theorem State.updWork_ctxs (s : State) (i l : Nat) (f : Work → Work) : (s.updWork i l f).ctxs = s.ctxs := rfl
@[simp] theorem State.updWork_pkg (s : State) (i l : Nat) (f : Work → Work) : (s.updWork i l f).pkg = s.pkg := rfl
@[simp] theorem State.updWork_lease (s : State) (i l : Nat) (f : Work → Work) : (s.updWork i l f).lease = s.lease := rfl
@[simp] theorem State.updWork_tick (s : State) (i l : Nat) (f : Work → Work) : (s.updWork i l f).tick = s.tick := rfl
@[simp] theorem State.updWork_lead (s : State) (i l : Nat) (f : Work → Work) : (s.updWork i l f).lead = s.lead := rfl
@[simp] theorem State.updWork_leadLog (s : State) (i l : Nat) (f : Work → Work) : (s.updWork i l f).leadLog = s.leadLog := rfl
@[simp] theorem State.updWork_walks (s : State) (i l : Nat) (f : Work → Work) : (s.updWork i l f).walks = s.walks := rfl
@[simp] theorem State.updWork_visits (s : State) (i l : Nat) (f : Work → Work) : (s.updWork i l f).visits = s.visits := rfl
@[simp] theorem State.updWork_now (s : State) (i l : Nat) (f : Work → Work) : (s.updWork i l f).now = s.now := rfl
@[simp] theorem State.updWork_probedAt (s : State) (i l : Nat) (f : Work → Work) : (s.updWork i l f).probedAt = s.probedAt := rfl
@[simp] theorem State.updWork_agenda (s : State) (i l : Nat) (f : Work → Work) : (s.updWork i l f).agenda = s.agenda := rfl
@[simp] theorem State.updWork_turn (s : State) (i l : Nat) (f : Work → Work) : (s.updWork i l f).turn = s.turn := rfl
@[simp] theorem State.updWork_focus (s : State) (i l : Nat) (f : Work → Work) : (s.updWork i l f).focus = s.focus := rfl
@[simp] theorem State.updWork_draws (s : State) (i l : Nat) (f : Work → Work) : (s.updWork i l f).draws = s.draws := rfl
@[simp] theorem State.updWork_nextSeq (s : State) (i l : Nat) (f : Work → Work) : (s.updWork i l f).nextSeq = s.nextSeq := rfl
@[simp] theorem State.updWork_nextGroup (s : State) (i l : Nat) (f : Work → Work) : (s.updWork i l f).nextGroup = s.nextGroup := rfl
@[simp] theorem State.updWork_nextTeam (s : State) (i l : Nat) (f : Work → Work) : (s.updWork i l f).nextTeam = s.nextTeam := rfl
@[simp] theorem State.updWork_nextGrid (s : State) (i l : Nat) (f : Work → Work) : (s.updWork i l f).nextGrid = s.nextGrid := rfl
@[simp] theorem State.updWork_nextReq (s : State) (i l : Nat) (f : Work → Work) : (s.updWork i l f).nextReq = s.nextReq := rfl

/-! ## A core -/

@[simp] theorem State.updCore_mem (s : State) (c : Nat) (f : Core → Core) : (s.updCore c f).mem = s.mem := rfl
@[simp] theorem State.updCore_poison (s : State) (c : Nat) (f : Core → Core) : (s.updCore c f).poison = s.poison := rfl
@[simp] theorem State.updCore_homes (s : State) (c : Nat) (f : Core → Core) : (s.updCore c f).homes = s.homes := rfl
@[simp] theorem State.updCore_plinths (s : State) (c : Nat) (f : Core → Core) : (s.updCore c f).plinths = s.plinths := rfl
@[simp] theorem State.updCore_mapcnt (s : State) (c : Nat) (f : Core → Core) : (s.updCore c f).mapcnt = s.mapcnt := rfl
@[simp] theorem State.updCore_rdc (s : State) (c : Nat) (f : Core → Core) : (s.updCore c f).rdc = s.rdc := rfl
@[simp] theorem State.updCore_groups (s : State) (c : Nat) (f : Core → Core) : (s.updCore c f).groups = s.groups := rfl
@[simp] theorem State.updCore_teams (s : State) (c : Nat) (f : Core → Core) : (s.updCore c f).teams = s.teams := rfl
@[simp] theorem State.updCore_grids (s : State) (c : Nat) (f : Core → Core) : (s.updCore c f).grids = s.grids := rfl
@[simp] theorem State.updCore_queues (s : State) (c : Nat) (f : Core → Core) : (s.updCore c f).queues = s.queues := rfl
@[simp] theorem State.updCore_ctxs (s : State) (c : Nat) (f : Core → Core) : (s.updCore c f).ctxs = s.ctxs := rfl
@[simp] theorem State.updCore_pkg (s : State) (c : Nat) (f : Core → Core) : (s.updCore c f).pkg = s.pkg := rfl
@[simp] theorem State.updCore_lease (s : State) (c : Nat) (f : Core → Core) : (s.updCore c f).lease = s.lease := rfl
@[simp] theorem State.updCore_tick (s : State) (c : Nat) (f : Core → Core) : (s.updCore c f).tick = s.tick := rfl
@[simp] theorem State.updCore_lead (s : State) (c : Nat) (f : Core → Core) : (s.updCore c f).lead = s.lead := rfl
@[simp] theorem State.updCore_leadLog (s : State) (c : Nat) (f : Core → Core) : (s.updCore c f).leadLog = s.leadLog := rfl
@[simp] theorem State.updCore_walks (s : State) (c : Nat) (f : Core → Core) : (s.updCore c f).walks = s.walks := rfl
@[simp] theorem State.updCore_visits (s : State) (c : Nat) (f : Core → Core) : (s.updCore c f).visits = s.visits := rfl
@[simp] theorem State.updCore_now (s : State) (c : Nat) (f : Core → Core) : (s.updCore c f).now = s.now := rfl
@[simp] theorem State.updCore_probedAt (s : State) (c : Nat) (f : Core → Core) : (s.updCore c f).probedAt = s.probedAt := rfl
@[simp] theorem State.updCore_agenda (s : State) (c : Nat) (f : Core → Core) : (s.updCore c f).agenda = s.agenda := rfl
@[simp] theorem State.updCore_turn (s : State) (c : Nat) (f : Core → Core) : (s.updCore c f).turn = s.turn := rfl
@[simp] theorem State.updCore_focus (s : State) (c : Nat) (f : Core → Core) : (s.updCore c f).focus = s.focus := rfl
@[simp] theorem State.updCore_draws (s : State) (c : Nat) (f : Core → Core) : (s.updCore c f).draws = s.draws := rfl
@[simp] theorem State.updCore_nextSeq (s : State) (c : Nat) (f : Core → Core) : (s.updCore c f).nextSeq = s.nextSeq := rfl
@[simp] theorem State.updCore_nextGroup (s : State) (c : Nat) (f : Core → Core) : (s.updCore c f).nextGroup = s.nextGroup := rfl
@[simp] theorem State.updCore_nextTeam (s : State) (c : Nat) (f : Core → Core) : (s.updCore c f).nextTeam = s.nextTeam := rfl
@[simp] theorem State.updCore_nextGrid (s : State) (c : Nat) (f : Core → Core) : (s.updCore c f).nextGrid = s.nextGrid := rfl
@[simp] theorem State.updCore_nextReq (s : State) (c : Nat) (f : Core → Core) : (s.updCore c f).nextReq = s.nextReq := rfl

/-! ## A context -/

@[simp] theorem State.updCtx_mem (s : State) (c : Nat) (f : Ctx → Ctx) : (s.updCtx c f).mem = s.mem := rfl
@[simp] theorem State.updCtx_poison (s : State) (c : Nat) (f : Ctx → Ctx) : (s.updCtx c f).poison = s.poison := rfl
@[simp] theorem State.updCtx_homes (s : State) (c : Nat) (f : Ctx → Ctx) : (s.updCtx c f).homes = s.homes := rfl
@[simp] theorem State.updCtx_plinths (s : State) (c : Nat) (f : Ctx → Ctx) : (s.updCtx c f).plinths = s.plinths := rfl
@[simp] theorem State.updCtx_mapcnt (s : State) (c : Nat) (f : Ctx → Ctx) : (s.updCtx c f).mapcnt = s.mapcnt := rfl
@[simp] theorem State.updCtx_rdc (s : State) (c : Nat) (f : Ctx → Ctx) : (s.updCtx c f).rdc = s.rdc := rfl
@[simp] theorem State.updCtx_cores (s : State) (c : Nat) (f : Ctx → Ctx) : (s.updCtx c f).cores = s.cores := rfl
@[simp] theorem State.updCtx_groups (s : State) (c : Nat) (f : Ctx → Ctx) : (s.updCtx c f).groups = s.groups := rfl
@[simp] theorem State.updCtx_teams (s : State) (c : Nat) (f : Ctx → Ctx) : (s.updCtx c f).teams = s.teams := rfl
@[simp] theorem State.updCtx_grids (s : State) (c : Nat) (f : Ctx → Ctx) : (s.updCtx c f).grids = s.grids := rfl
@[simp] theorem State.updCtx_queues (s : State) (c : Nat) (f : Ctx → Ctx) : (s.updCtx c f).queues = s.queues := rfl
@[simp] theorem State.updCtx_pkg (s : State) (c : Nat) (f : Ctx → Ctx) : (s.updCtx c f).pkg = s.pkg := rfl
@[simp] theorem State.updCtx_lease (s : State) (c : Nat) (f : Ctx → Ctx) : (s.updCtx c f).lease = s.lease := rfl
@[simp] theorem State.updCtx_tick (s : State) (c : Nat) (f : Ctx → Ctx) : (s.updCtx c f).tick = s.tick := rfl
@[simp] theorem State.updCtx_lead (s : State) (c : Nat) (f : Ctx → Ctx) : (s.updCtx c f).lead = s.lead := rfl
@[simp] theorem State.updCtx_leadLog (s : State) (c : Nat) (f : Ctx → Ctx) : (s.updCtx c f).leadLog = s.leadLog := rfl
@[simp] theorem State.updCtx_walks (s : State) (c : Nat) (f : Ctx → Ctx) : (s.updCtx c f).walks = s.walks := rfl
@[simp] theorem State.updCtx_visits (s : State) (c : Nat) (f : Ctx → Ctx) : (s.updCtx c f).visits = s.visits := rfl
@[simp] theorem State.updCtx_now (s : State) (c : Nat) (f : Ctx → Ctx) : (s.updCtx c f).now = s.now := rfl
@[simp] theorem State.updCtx_probedAt (s : State) (c : Nat) (f : Ctx → Ctx) : (s.updCtx c f).probedAt = s.probedAt := rfl
@[simp] theorem State.updCtx_agenda (s : State) (c : Nat) (f : Ctx → Ctx) : (s.updCtx c f).agenda = s.agenda := rfl
@[simp] theorem State.updCtx_turn (s : State) (c : Nat) (f : Ctx → Ctx) : (s.updCtx c f).turn = s.turn := rfl
@[simp] theorem State.updCtx_focus (s : State) (c : Nat) (f : Ctx → Ctx) : (s.updCtx c f).focus = s.focus := rfl
@[simp] theorem State.updCtx_draws (s : State) (c : Nat) (f : Ctx → Ctx) : (s.updCtx c f).draws = s.draws := rfl
@[simp] theorem State.updCtx_nextSeq (s : State) (c : Nat) (f : Ctx → Ctx) : (s.updCtx c f).nextSeq = s.nextSeq := rfl
@[simp] theorem State.updCtx_nextGroup (s : State) (c : Nat) (f : Ctx → Ctx) : (s.updCtx c f).nextGroup = s.nextGroup := rfl
@[simp] theorem State.updCtx_nextTeam (s : State) (c : Nat) (f : Ctx → Ctx) : (s.updCtx c f).nextTeam = s.nextTeam := rfl
@[simp] theorem State.updCtx_nextGrid (s : State) (c : Nat) (f : Ctx → Ctx) : (s.updCtx c f).nextGrid = s.nextGrid := rfl
@[simp] theorem State.updCtx_nextReq (s : State) (c : Nat) (f : Ctx → Ctx) : (s.updCtx c f).nextReq = s.nextReq := rfl

/-! ## An event -/

@[simp] theorem State.event_mem (s : State) (c x : Nat) (e : BitVec 8) : (s.event c x e).mem = s.mem := rfl
@[simp] theorem State.event_poison (s : State) (c x : Nat) (e : BitVec 8) : (s.event c x e).poison = s.poison := rfl
@[simp] theorem State.event_homes (s : State) (c x : Nat) (e : BitVec 8) : (s.event c x e).homes = s.homes := rfl
@[simp] theorem State.event_plinths (s : State) (c x : Nat) (e : BitVec 8) : (s.event c x e).plinths = s.plinths := rfl
@[simp] theorem State.event_mapcnt (s : State) (c x : Nat) (e : BitVec 8) : (s.event c x e).mapcnt = s.mapcnt := rfl
@[simp] theorem State.event_rdc (s : State) (c x : Nat) (e : BitVec 8) : (s.event c x e).rdc = s.rdc := rfl
@[simp] theorem State.event_groups (s : State) (c x : Nat) (e : BitVec 8) : (s.event c x e).groups = s.groups := rfl
@[simp] theorem State.event_teams (s : State) (c x : Nat) (e : BitVec 8) : (s.event c x e).teams = s.teams := rfl
@[simp] theorem State.event_grids (s : State) (c x : Nat) (e : BitVec 8) : (s.event c x e).grids = s.grids := rfl
@[simp] theorem State.event_queues (s : State) (c x : Nat) (e : BitVec 8) : (s.event c x e).queues = s.queues := rfl
@[simp] theorem State.event_ctxs (s : State) (c x : Nat) (e : BitVec 8) : (s.event c x e).ctxs = s.ctxs := rfl
@[simp] theorem State.event_pkg (s : State) (c x : Nat) (e : BitVec 8) : (s.event c x e).pkg = s.pkg := rfl
@[simp] theorem State.event_lease (s : State) (c x : Nat) (e : BitVec 8) : (s.event c x e).lease = s.lease := rfl
@[simp] theorem State.event_tick (s : State) (c x : Nat) (e : BitVec 8) : (s.event c x e).tick = s.tick := rfl
@[simp] theorem State.event_lead (s : State) (c x : Nat) (e : BitVec 8) : (s.event c x e).lead = s.lead := rfl
@[simp] theorem State.event_leadLog (s : State) (c x : Nat) (e : BitVec 8) : (s.event c x e).leadLog = s.leadLog := rfl
@[simp] theorem State.event_walks (s : State) (c x : Nat) (e : BitVec 8) : (s.event c x e).walks = s.walks := rfl
@[simp] theorem State.event_visits (s : State) (c x : Nat) (e : BitVec 8) : (s.event c x e).visits = s.visits := rfl
@[simp] theorem State.event_now (s : State) (c x : Nat) (e : BitVec 8) : (s.event c x e).now = s.now := rfl
@[simp] theorem State.event_probedAt (s : State) (c x : Nat) (e : BitVec 8) : (s.event c x e).probedAt = s.probedAt := rfl
@[simp] theorem State.event_agenda (s : State) (c x : Nat) (e : BitVec 8) : (s.event c x e).agenda = s.agenda := rfl
@[simp] theorem State.event_turn (s : State) (c x : Nat) (e : BitVec 8) : (s.event c x e).turn = s.turn := rfl
@[simp] theorem State.event_focus (s : State) (c x : Nat) (e : BitVec 8) : (s.event c x e).focus = s.focus := rfl
@[simp] theorem State.event_draws (s : State) (c x : Nat) (e : BitVec 8) : (s.event c x e).draws = s.draws := rfl
@[simp] theorem State.event_nextSeq (s : State) (c x : Nat) (e : BitVec 8) : (s.event c x e).nextSeq = s.nextSeq := rfl
@[simp] theorem State.event_nextGroup (s : State) (c x : Nat) (e : BitVec 8) : (s.event c x e).nextGroup = s.nextGroup := rfl
@[simp] theorem State.event_nextTeam (s : State) (c x : Nat) (e : BitVec 8) : (s.event c x e).nextTeam = s.nextTeam := rfl
@[simp] theorem State.event_nextGrid (s : State) (c x : Nat) (e : BitVec 8) : (s.event c x e).nextGrid = s.nextGrid := rfl
@[simp] theorem State.event_nextReq (s : State) (c x : Nat) (e : BitVec 8) : (s.event c x e).nextReq = s.nextReq := rfl

/-! ## Bytes at home -/

@[simp] theorem State.putHome_homes (s : State) (l : Nat) (d : LineData) (m : BitVec 128) : (s.putHome l d m).homes = s.homes := rfl
@[simp] theorem State.putHome_plinths (s : State) (l : Nat) (d : LineData) (m : BitVec 128) : (s.putHome l d m).plinths = s.plinths := rfl
@[simp] theorem State.putHome_mapcnt (s : State) (l : Nat) (d : LineData) (m : BitVec 128) : (s.putHome l d m).mapcnt = s.mapcnt := rfl
@[simp] theorem State.putHome_rdc (s : State) (l : Nat) (d : LineData) (m : BitVec 128) : (s.putHome l d m).rdc = s.rdc := rfl
@[simp] theorem State.putHome_cores (s : State) (l : Nat) (d : LineData) (m : BitVec 128) : (s.putHome l d m).cores = s.cores := rfl
@[simp] theorem State.putHome_groups (s : State) (l : Nat) (d : LineData) (m : BitVec 128) : (s.putHome l d m).groups = s.groups := rfl
@[simp] theorem State.putHome_teams (s : State) (l : Nat) (d : LineData) (m : BitVec 128) : (s.putHome l d m).teams = s.teams := rfl
@[simp] theorem State.putHome_grids (s : State) (l : Nat) (d : LineData) (m : BitVec 128) : (s.putHome l d m).grids = s.grids := rfl
@[simp] theorem State.putHome_queues (s : State) (l : Nat) (d : LineData) (m : BitVec 128) : (s.putHome l d m).queues = s.queues := rfl
@[simp] theorem State.putHome_ctxs (s : State) (l : Nat) (d : LineData) (m : BitVec 128) : (s.putHome l d m).ctxs = s.ctxs := rfl
@[simp] theorem State.putHome_pkg (s : State) (l : Nat) (d : LineData) (m : BitVec 128) : (s.putHome l d m).pkg = s.pkg := rfl
@[simp] theorem State.putHome_lease (s : State) (l : Nat) (d : LineData) (m : BitVec 128) : (s.putHome l d m).lease = s.lease := rfl
@[simp] theorem State.putHome_tick (s : State) (l : Nat) (d : LineData) (m : BitVec 128) : (s.putHome l d m).tick = s.tick := rfl
@[simp] theorem State.putHome_lead (s : State) (l : Nat) (d : LineData) (m : BitVec 128) : (s.putHome l d m).lead = s.lead := rfl
@[simp] theorem State.putHome_leadLog (s : State) (l : Nat) (d : LineData) (m : BitVec 128) : (s.putHome l d m).leadLog = s.leadLog := rfl
@[simp] theorem State.putHome_walks (s : State) (l : Nat) (d : LineData) (m : BitVec 128) : (s.putHome l d m).walks = s.walks := rfl
@[simp] theorem State.putHome_visits (s : State) (l : Nat) (d : LineData) (m : BitVec 128) : (s.putHome l d m).visits = s.visits := rfl
@[simp] theorem State.putHome_now (s : State) (l : Nat) (d : LineData) (m : BitVec 128) : (s.putHome l d m).now = s.now := rfl
@[simp] theorem State.putHome_probedAt (s : State) (l : Nat) (d : LineData) (m : BitVec 128) : (s.putHome l d m).probedAt = s.probedAt := rfl
@[simp] theorem State.putHome_agenda (s : State) (l : Nat) (d : LineData) (m : BitVec 128) : (s.putHome l d m).agenda = s.agenda := rfl
@[simp] theorem State.putHome_turn (s : State) (l : Nat) (d : LineData) (m : BitVec 128) : (s.putHome l d m).turn = s.turn := rfl
@[simp] theorem State.putHome_focus (s : State) (l : Nat) (d : LineData) (m : BitVec 128) : (s.putHome l d m).focus = s.focus := rfl
@[simp] theorem State.putHome_draws (s : State) (l : Nat) (d : LineData) (m : BitVec 128) : (s.putHome l d m).draws = s.draws := rfl
@[simp] theorem State.putHome_nextSeq (s : State) (l : Nat) (d : LineData) (m : BitVec 128) : (s.putHome l d m).nextSeq = s.nextSeq := rfl
@[simp] theorem State.putHome_nextGroup (s : State) (l : Nat) (d : LineData) (m : BitVec 128) : (s.putHome l d m).nextGroup = s.nextGroup := rfl
@[simp] theorem State.putHome_nextTeam (s : State) (l : Nat) (d : LineData) (m : BitVec 128) : (s.putHome l d m).nextTeam = s.nextTeam := rfl
@[simp] theorem State.putHome_nextGrid (s : State) (l : Nat) (d : LineData) (m : BitVec 128) : (s.putHome l d m).nextGrid = s.nextGrid := rfl
@[simp] theorem State.putHome_nextReq (s : State) (l : Nat) (d : LineData) (m : BitVec 128) : (s.putHome l d m).nextReq = s.nextReq := rfl

/-! ## Work: setV -/

@[simp] theorem Work.setV_pc (w : Work) (r : Nat) (v : VVal) : (w.setV r v).pc = w.pc := rfl
@[simp] theorem Work.setV_priv (w : Work) (r : Nat) (v : VVal) : (w.setV r v).priv = w.priv := rfl
@[simp] theorem Work.setV_s (w : Work) (r : Nat) (v : VVal) : (w.setV r v).s = w.s := rfl
@[simp] theorem Work.setV_k (w : Work) (r : Nat) (v : VVal) : (w.setV r v).k = w.k := rfl
@[simp] theorem Work.setV_w (w : Work) (r : Nat) (v : VVal) : (w.setV r v).w = w.w := rfl
@[simp] theorem Work.setV_q (w : Work) (r : Nat) (v : VVal) : (w.setV r v).q = w.q := rfl
@[simp] theorem Work.setV_budget (w : Work) (r : Nat) (v : VVal) : (w.setV r v).budget = w.budget := rfl
@[simp] theorem Work.setV_elastic (w : Work) (r : Nat) (v : VVal) : (w.setV r v).elastic = w.elastic := rfl
@[simp] theorem Work.setV_image (w : Work) (r : Nat) (v : VVal) : (w.setV r v).image = w.image := rfl
@[simp] theorem Work.setV_cached (w : Work) (r : Nat) (v : VVal) : (w.setV r v).cached = w.cached := rfl
@[simp] theorem Work.setV_used (w : Work) (r : Nat) (v : VVal) : (w.setV r v).used = w.used := rfl
@[simp] theorem Work.setV_cnt (w : Work) (r : Nat) (v : VVal) : (w.setV r v).cnt = w.cnt := rfl
@[simp] theorem Work.setV_sprue (w : Work) (r : Nat) (v : VVal) : (w.setV r v).sprue = w.sprue := rfl
@[simp] theorem Work.setV_cur0 (w : Work) (r : Nat) (v : VVal) : (w.setV r v).cur0 = w.cur0 := rfl
@[simp] theorem Work.setV_cur1 (w : Work) (r : Nat) (v : VVal) : (w.setV r v).cur1 = w.cur1 := rfl
@[simp] theorem Work.setV_aForks (w : Work) (r : Nat) (v : VVal) : (w.setV r v).aForks = w.aForks := rfl
@[simp] theorem Work.setV_lForks (w : Work) (r : Nat) (v : VVal) : (w.setV r v).lForks = w.lForks := rfl
@[simp] theorem Work.setV_frames (w : Work) (r : Nat) (v : VVal) : (w.setV r v).frames = w.frames := rfl
@[simp] theorem Work.setV_retq (w : Work) (r : Nat) (v : VVal) : (w.setV r v).retq = w.retq := rfl
@[simp] theorem Work.setV_latch (w : Work) (r : Nat) (v : VVal) : (w.setV r v).latch = w.latch := rfl
@[simp] theorem Work.setV_srseed (w : Work) (r : Nat) (v : VVal) : (w.setV r v).srseed = w.srseed := rfl
@[simp] theorem Work.setV_epoch (w : Work) (r : Nat) (v : VVal) : (w.setV r v).epoch = w.epoch := rfl
@[simp] theorem Work.setV_gens (w : Work) (r : Nat) (v : VVal) : (w.setV r v).gens = w.gens := rfl
@[simp] theorem Work.setV_bar (w : Work) (r : Nat) (v : VVal) : (w.setV r v).bar = w.bar := rfl
@[simp] theorem Work.setV_recasts (w : Work) (r : Nat) (v : VVal) : (w.setV r v).recasts = w.recasts := rfl
@[simp] theorem Work.setV_list (w : Work) (r : Nat) (v : VVal) : (w.setV r v).list = w.list := rfl
@[simp] theorem Work.setV_back (w : Work) (r : Nat) (v : VVal) : (w.setV r v).back = w.back := rfl

/-! ## Work: setW -/

@[simp] theorem Work.setW_pc (w : Work) (r : WReg) (v : Word) : (w.setW r v).pc = w.pc := rfl
@[simp] theorem Work.setW_priv (w : Work) (r : WReg) (v : Word) : (w.setW r v).priv = w.priv := rfl
@[simp] theorem Work.setW_s (w : Work) (r : WReg) (v : Word) : (w.setW r v).s = w.s := rfl
@[simp] theorem Work.setW_k (w : Work) (r : WReg) (v : Word) : (w.setW r v).k = w.k := rfl
@[simp] theorem Work.setW_v (w : Work) (r : WReg) (v : Word) : (w.setW r v).v = w.v := rfl
@[simp] theorem Work.setW_q (w : Work) (r : WReg) (v : Word) : (w.setW r v).q = w.q := rfl
@[simp] theorem Work.setW_budget (w : Work) (r : WReg) (v : Word) : (w.setW r v).budget = w.budget := rfl
@[simp] theorem Work.setW_elastic (w : Work) (r : WReg) (v : Word) : (w.setW r v).elastic = w.elastic := rfl
@[simp] theorem Work.setW_image (w : Work) (r : WReg) (v : Word) : (w.setW r v).image = w.image := rfl
@[simp] theorem Work.setW_cached (w : Work) (r : WReg) (v : Word) : (w.setW r v).cached = w.cached := rfl
@[simp] theorem Work.setW_used (w : Work) (r : WReg) (v : Word) : (w.setW r v).used = w.used := rfl
@[simp] theorem Work.setW_cnt (w : Work) (r : WReg) (v : Word) : (w.setW r v).cnt = w.cnt := rfl
@[simp] theorem Work.setW_sprue (w : Work) (r : WReg) (v : Word) : (w.setW r v).sprue = w.sprue := rfl
@[simp] theorem Work.setW_cur0 (w : Work) (r : WReg) (v : Word) : (w.setW r v).cur0 = w.cur0 := rfl
@[simp] theorem Work.setW_cur1 (w : Work) (r : WReg) (v : Word) : (w.setW r v).cur1 = w.cur1 := rfl
@[simp] theorem Work.setW_aForks (w : Work) (r : WReg) (v : Word) : (w.setW r v).aForks = w.aForks := rfl
@[simp] theorem Work.setW_lForks (w : Work) (r : WReg) (v : Word) : (w.setW r v).lForks = w.lForks := rfl
@[simp] theorem Work.setW_frames (w : Work) (r : WReg) (v : Word) : (w.setW r v).frames = w.frames := rfl
@[simp] theorem Work.setW_retq (w : Work) (r : WReg) (v : Word) : (w.setW r v).retq = w.retq := rfl
@[simp] theorem Work.setW_latch (w : Work) (r : WReg) (v : Word) : (w.setW r v).latch = w.latch := rfl
@[simp] theorem Work.setW_srseed (w : Work) (r : WReg) (v : Word) : (w.setW r v).srseed = w.srseed := rfl
@[simp] theorem Work.setW_epoch (w : Work) (r : WReg) (v : Word) : (w.setW r v).epoch = w.epoch := rfl
@[simp] theorem Work.setW_gens (w : Work) (r : WReg) (v : Word) : (w.setW r v).gens = w.gens := rfl
@[simp] theorem Work.setW_bar (w : Work) (r : WReg) (v : Word) : (w.setW r v).bar = w.bar := rfl
@[simp] theorem Work.setW_recasts (w : Work) (r : WReg) (v : Word) : (w.setW r v).recasts = w.recasts := rfl
@[simp] theorem Work.setW_list (w : Work) (r : WReg) (v : Word) : (w.setW r v).list = w.list := rfl
@[simp] theorem Work.setW_back (w : Work) (r : WReg) (v : Word) : (w.setW r v).back = w.back := rfl

/-! ## Work: setQ -/

@[simp] theorem Work.setQ_pc (w : Work) (r : QReg) (v : QVal) : (w.setQ r v).pc = w.pc := rfl
@[simp] theorem Work.setQ_priv (w : Work) (r : QReg) (v : QVal) : (w.setQ r v).priv = w.priv := rfl
@[simp] theorem Work.setQ_s (w : Work) (r : QReg) (v : QVal) : (w.setQ r v).s = w.s := rfl
@[simp] theorem Work.setQ_k (w : Work) (r : QReg) (v : QVal) : (w.setQ r v).k = w.k := rfl
@[simp] theorem Work.setQ_w (w : Work) (r : QReg) (v : QVal) : (w.setQ r v).w = w.w := rfl
@[simp] theorem Work.setQ_v (w : Work) (r : QReg) (v : QVal) : (w.setQ r v).v = w.v := rfl
@[simp] theorem Work.setQ_budget (w : Work) (r : QReg) (v : QVal) : (w.setQ r v).budget = w.budget := rfl
@[simp] theorem Work.setQ_elastic (w : Work) (r : QReg) (v : QVal) : (w.setQ r v).elastic = w.elastic := rfl
@[simp] theorem Work.setQ_image (w : Work) (r : QReg) (v : QVal) : (w.setQ r v).image = w.image := rfl
@[simp] theorem Work.setQ_cached (w : Work) (r : QReg) (v : QVal) : (w.setQ r v).cached = w.cached := rfl
@[simp] theorem Work.setQ_used (w : Work) (r : QReg) (v : QVal) : (w.setQ r v).used = w.used := rfl
@[simp] theorem Work.setQ_cnt (w : Work) (r : QReg) (v : QVal) : (w.setQ r v).cnt = w.cnt := rfl
@[simp] theorem Work.setQ_sprue (w : Work) (r : QReg) (v : QVal) : (w.setQ r v).sprue = w.sprue := rfl
@[simp] theorem Work.setQ_cur0 (w : Work) (r : QReg) (v : QVal) : (w.setQ r v).cur0 = w.cur0 := rfl
@[simp] theorem Work.setQ_cur1 (w : Work) (r : QReg) (v : QVal) : (w.setQ r v).cur1 = w.cur1 := rfl
@[simp] theorem Work.setQ_aForks (w : Work) (r : QReg) (v : QVal) : (w.setQ r v).aForks = w.aForks := rfl
@[simp] theorem Work.setQ_lForks (w : Work) (r : QReg) (v : QVal) : (w.setQ r v).lForks = w.lForks := rfl
@[simp] theorem Work.setQ_frames (w : Work) (r : QReg) (v : QVal) : (w.setQ r v).frames = w.frames := rfl
@[simp] theorem Work.setQ_retq (w : Work) (r : QReg) (v : QVal) : (w.setQ r v).retq = w.retq := rfl
@[simp] theorem Work.setQ_latch (w : Work) (r : QReg) (v : QVal) : (w.setQ r v).latch = w.latch := rfl
@[simp] theorem Work.setQ_srseed (w : Work) (r : QReg) (v : QVal) : (w.setQ r v).srseed = w.srseed := rfl
@[simp] theorem Work.setQ_epoch (w : Work) (r : QReg) (v : QVal) : (w.setQ r v).epoch = w.epoch := rfl
@[simp] theorem Work.setQ_gens (w : Work) (r : QReg) (v : QVal) : (w.setQ r v).gens = w.gens := rfl
@[simp] theorem Work.setQ_bar (w : Work) (r : QReg) (v : QVal) : (w.setQ r v).bar = w.bar := rfl
@[simp] theorem Work.setQ_recasts (w : Work) (r : QReg) (v : QVal) : (w.setQ r v).recasts = w.recasts := rfl
@[simp] theorem Work.setQ_list (w : Work) (r : QReg) (v : QVal) : (w.setQ r v).list = w.list := rfl
@[simp] theorem Work.setQ_back (w : Work) (r : QReg) (v : QVal) : (w.setQ r v).back = w.back := rfl

/-! ## Work: raise -/

@[simp] theorem Work.raise_pc (w : Work) (c : Counter) : (w.raise c).pc = w.pc := rfl
@[simp] theorem Work.raise_priv (w : Work) (c : Counter) : (w.raise c).priv = w.priv := rfl
@[simp] theorem Work.raise_s (w : Work) (c : Counter) : (w.raise c).s = w.s := rfl
@[simp] theorem Work.raise_k (w : Work) (c : Counter) : (w.raise c).k = w.k := rfl
@[simp] theorem Work.raise_w (w : Work) (c : Counter) : (w.raise c).w = w.w := rfl
@[simp] theorem Work.raise_v (w : Work) (c : Counter) : (w.raise c).v = w.v := rfl
@[simp] theorem Work.raise_q (w : Work) (c : Counter) : (w.raise c).q = w.q := rfl
@[simp] theorem Work.raise_budget (w : Work) (c : Counter) : (w.raise c).budget = w.budget := rfl
@[simp] theorem Work.raise_elastic (w : Work) (c : Counter) : (w.raise c).elastic = w.elastic := rfl
@[simp] theorem Work.raise_image (w : Work) (c : Counter) : (w.raise c).image = w.image := rfl
@[simp] theorem Work.raise_cached (w : Work) (c : Counter) : (w.raise c).cached = w.cached := rfl
@[simp] theorem Work.raise_used (w : Work) (c : Counter) : (w.raise c).used = w.used := rfl
@[simp] theorem Work.raise_sprue (w : Work) (c : Counter) : (w.raise c).sprue = w.sprue := rfl
@[simp] theorem Work.raise_cur0 (w : Work) (c : Counter) : (w.raise c).cur0 = w.cur0 := rfl
@[simp] theorem Work.raise_cur1 (w : Work) (c : Counter) : (w.raise c).cur1 = w.cur1 := rfl
@[simp] theorem Work.raise_aForks (w : Work) (c : Counter) : (w.raise c).aForks = w.aForks := rfl
@[simp] theorem Work.raise_lForks (w : Work) (c : Counter) : (w.raise c).lForks = w.lForks := rfl
@[simp] theorem Work.raise_frames (w : Work) (c : Counter) : (w.raise c).frames = w.frames := rfl
@[simp] theorem Work.raise_retq (w : Work) (c : Counter) : (w.raise c).retq = w.retq := rfl
@[simp] theorem Work.raise_latch (w : Work) (c : Counter) : (w.raise c).latch = w.latch := rfl
@[simp] theorem Work.raise_srseed (w : Work) (c : Counter) : (w.raise c).srseed = w.srseed := rfl
@[simp] theorem Work.raise_epoch (w : Work) (c : Counter) : (w.raise c).epoch = w.epoch := rfl
@[simp] theorem Work.raise_gens (w : Work) (c : Counter) : (w.raise c).gens = w.gens := rfl
@[simp] theorem Work.raise_bar (w : Work) (c : Counter) : (w.raise c).bar = w.bar := rfl
@[simp] theorem Work.raise_recasts (w : Work) (c : Counter) : (w.raise c).recasts = w.recasts := rfl
@[simp] theorem Work.raise_list (w : Work) (c : Counter) : (w.raise c).list = w.list := rfl
@[simp] theorem Work.raise_back (w : Work) (c : Counter) : (w.raise c).back = w.back := rfl

/-! ## Work: lower -/

@[simp] theorem Work.lower_pc (w : Work) (c : Counter) : (w.lower c).pc = w.pc := rfl
@[simp] theorem Work.lower_priv (w : Work) (c : Counter) : (w.lower c).priv = w.priv := rfl
@[simp] theorem Work.lower_s (w : Work) (c : Counter) : (w.lower c).s = w.s := rfl
@[simp] theorem Work.lower_k (w : Work) (c : Counter) : (w.lower c).k = w.k := rfl
@[simp] theorem Work.lower_w (w : Work) (c : Counter) : (w.lower c).w = w.w := rfl
@[simp] theorem Work.lower_v (w : Work) (c : Counter) : (w.lower c).v = w.v := rfl
@[simp] theorem Work.lower_q (w : Work) (c : Counter) : (w.lower c).q = w.q := rfl
@[simp] theorem Work.lower_budget (w : Work) (c : Counter) : (w.lower c).budget = w.budget := rfl
@[simp] theorem Work.lower_elastic (w : Work) (c : Counter) : (w.lower c).elastic = w.elastic := rfl
@[simp] theorem Work.lower_image (w : Work) (c : Counter) : (w.lower c).image = w.image := rfl
@[simp] theorem Work.lower_cached (w : Work) (c : Counter) : (w.lower c).cached = w.cached := rfl
@[simp] theorem Work.lower_used (w : Work) (c : Counter) : (w.lower c).used = w.used := rfl
@[simp] theorem Work.lower_sprue (w : Work) (c : Counter) : (w.lower c).sprue = w.sprue := rfl
@[simp] theorem Work.lower_cur0 (w : Work) (c : Counter) : (w.lower c).cur0 = w.cur0 := rfl
@[simp] theorem Work.lower_cur1 (w : Work) (c : Counter) : (w.lower c).cur1 = w.cur1 := rfl
@[simp] theorem Work.lower_aForks (w : Work) (c : Counter) : (w.lower c).aForks = w.aForks := rfl
@[simp] theorem Work.lower_lForks (w : Work) (c : Counter) : (w.lower c).lForks = w.lForks := rfl
@[simp] theorem Work.lower_frames (w : Work) (c : Counter) : (w.lower c).frames = w.frames := rfl
@[simp] theorem Work.lower_retq (w : Work) (c : Counter) : (w.lower c).retq = w.retq := rfl
@[simp] theorem Work.lower_latch (w : Work) (c : Counter) : (w.lower c).latch = w.latch := rfl
@[simp] theorem Work.lower_srseed (w : Work) (c : Counter) : (w.lower c).srseed = w.srseed := rfl
@[simp] theorem Work.lower_epoch (w : Work) (c : Counter) : (w.lower c).epoch = w.epoch := rfl
@[simp] theorem Work.lower_gens (w : Work) (c : Counter) : (w.lower c).gens = w.gens := rfl
@[simp] theorem Work.lower_bar (w : Work) (c : Counter) : (w.lower c).bar = w.bar := rfl
@[simp] theorem Work.lower_recasts (w : Work) (c : Counter) : (w.lower c).recasts = w.recasts := rfl
@[simp] theorem Work.lower_list (w : Work) (c : Counter) : (w.lower c).list = w.list := rfl
@[simp] theorem Work.lower_back (w : Work) (c : Counter) : (w.lower c).back = w.back := rfl

/-! ## Work: setS and setK, which leave s0 and k0 -/

@[simp] theorem Work.setS_pc (w : Work) (d : SReg) (v : DWord) : (w.setS d v).pc = w.pc := by unfold Work.setS; split <;> rfl
@[simp] theorem Work.setS_priv (w : Work) (d : SReg) (v : DWord) : (w.setS d v).priv = w.priv := by unfold Work.setS; split <;> rfl
@[simp] theorem Work.setS_k (w : Work) (d : SReg) (v : DWord) : (w.setS d v).k = w.k := by unfold Work.setS; split <;> rfl
@[simp] theorem Work.setS_w (w : Work) (d : SReg) (v : DWord) : (w.setS d v).w = w.w := by unfold Work.setS; split <;> rfl
@[simp] theorem Work.setS_v (w : Work) (d : SReg) (v : DWord) : (w.setS d v).v = w.v := by unfold Work.setS; split <;> rfl
@[simp] theorem Work.setS_q (w : Work) (d : SReg) (v : DWord) : (w.setS d v).q = w.q := by unfold Work.setS; split <;> rfl
@[simp] theorem Work.setS_budget (w : Work) (d : SReg) (v : DWord) : (w.setS d v).budget = w.budget := by unfold Work.setS; split <;> rfl
@[simp] theorem Work.setS_elastic (w : Work) (d : SReg) (v : DWord) : (w.setS d v).elastic = w.elastic := by unfold Work.setS; split <;> rfl
@[simp] theorem Work.setS_image (w : Work) (d : SReg) (v : DWord) : (w.setS d v).image = w.image := by unfold Work.setS; split <;> rfl
@[simp] theorem Work.setS_cached (w : Work) (d : SReg) (v : DWord) : (w.setS d v).cached = w.cached := by unfold Work.setS; split <;> rfl
@[simp] theorem Work.setS_used (w : Work) (d : SReg) (v : DWord) : (w.setS d v).used = w.used := by unfold Work.setS; split <;> rfl
@[simp] theorem Work.setS_cnt (w : Work) (d : SReg) (v : DWord) : (w.setS d v).cnt = w.cnt := by unfold Work.setS; split <;> rfl
@[simp] theorem Work.setS_sprue (w : Work) (d : SReg) (v : DWord) : (w.setS d v).sprue = w.sprue := by unfold Work.setS; split <;> rfl
@[simp] theorem Work.setS_cur0 (w : Work) (d : SReg) (v : DWord) : (w.setS d v).cur0 = w.cur0 := by unfold Work.setS; split <;> rfl
@[simp] theorem Work.setS_cur1 (w : Work) (d : SReg) (v : DWord) : (w.setS d v).cur1 = w.cur1 := by unfold Work.setS; split <;> rfl
@[simp] theorem Work.setS_aForks (w : Work) (d : SReg) (v : DWord) : (w.setS d v).aForks = w.aForks := by unfold Work.setS; split <;> rfl
@[simp] theorem Work.setS_lForks (w : Work) (d : SReg) (v : DWord) : (w.setS d v).lForks = w.lForks := by unfold Work.setS; split <;> rfl
@[simp] theorem Work.setS_frames (w : Work) (d : SReg) (v : DWord) : (w.setS d v).frames = w.frames := by unfold Work.setS; split <;> rfl
@[simp] theorem Work.setS_retq (w : Work) (d : SReg) (v : DWord) : (w.setS d v).retq = w.retq := by unfold Work.setS; split <;> rfl
@[simp] theorem Work.setS_latch (w : Work) (d : SReg) (v : DWord) : (w.setS d v).latch = w.latch := by unfold Work.setS; split <;> rfl
@[simp] theorem Work.setS_srseed (w : Work) (d : SReg) (v : DWord) : (w.setS d v).srseed = w.srseed := by unfold Work.setS; split <;> rfl
@[simp] theorem Work.setS_epoch (w : Work) (d : SReg) (v : DWord) : (w.setS d v).epoch = w.epoch := by unfold Work.setS; split <;> rfl
@[simp] theorem Work.setS_gens (w : Work) (d : SReg) (v : DWord) : (w.setS d v).gens = w.gens := by unfold Work.setS; split <;> rfl
@[simp] theorem Work.setS_bar (w : Work) (d : SReg) (v : DWord) : (w.setS d v).bar = w.bar := by unfold Work.setS; split <;> rfl
@[simp] theorem Work.setS_recasts (w : Work) (d : SReg) (v : DWord) : (w.setS d v).recasts = w.recasts := by unfold Work.setS; split <;> rfl
@[simp] theorem Work.setS_list (w : Work) (d : SReg) (v : DWord) : (w.setS d v).list = w.list := by unfold Work.setS; split <;> rfl
@[simp] theorem Work.setS_back (w : Work) (d : SReg) (v : DWord) : (w.setS d v).back = w.back := by unfold Work.setS; split <;> rfl
@[simp] theorem Work.setK_pc (w : Work) (d : KReg) (v : Word) : (w.setK d v).pc = w.pc := by unfold Work.setK; split <;> rfl
@[simp] theorem Work.setK_priv (w : Work) (d : KReg) (v : Word) : (w.setK d v).priv = w.priv := by unfold Work.setK; split <;> rfl
@[simp] theorem Work.setK_s (w : Work) (d : KReg) (v : Word) : (w.setK d v).s = w.s := by unfold Work.setK; split <;> rfl
@[simp] theorem Work.setK_w (w : Work) (d : KReg) (v : Word) : (w.setK d v).w = w.w := by unfold Work.setK; split <;> rfl
@[simp] theorem Work.setK_v (w : Work) (d : KReg) (v : Word) : (w.setK d v).v = w.v := by unfold Work.setK; split <;> rfl
@[simp] theorem Work.setK_q (w : Work) (d : KReg) (v : Word) : (w.setK d v).q = w.q := by unfold Work.setK; split <;> rfl
@[simp] theorem Work.setK_budget (w : Work) (d : KReg) (v : Word) : (w.setK d v).budget = w.budget := by unfold Work.setK; split <;> rfl
@[simp] theorem Work.setK_elastic (w : Work) (d : KReg) (v : Word) : (w.setK d v).elastic = w.elastic := by unfold Work.setK; split <;> rfl
@[simp] theorem Work.setK_image (w : Work) (d : KReg) (v : Word) : (w.setK d v).image = w.image := by unfold Work.setK; split <;> rfl
@[simp] theorem Work.setK_cached (w : Work) (d : KReg) (v : Word) : (w.setK d v).cached = w.cached := by unfold Work.setK; split <;> rfl
@[simp] theorem Work.setK_used (w : Work) (d : KReg) (v : Word) : (w.setK d v).used = w.used := by unfold Work.setK; split <;> rfl
@[simp] theorem Work.setK_cnt (w : Work) (d : KReg) (v : Word) : (w.setK d v).cnt = w.cnt := by unfold Work.setK; split <;> rfl
@[simp] theorem Work.setK_sprue (w : Work) (d : KReg) (v : Word) : (w.setK d v).sprue = w.sprue := by unfold Work.setK; split <;> rfl
@[simp] theorem Work.setK_cur0 (w : Work) (d : KReg) (v : Word) : (w.setK d v).cur0 = w.cur0 := by unfold Work.setK; split <;> rfl
@[simp] theorem Work.setK_cur1 (w : Work) (d : KReg) (v : Word) : (w.setK d v).cur1 = w.cur1 := by unfold Work.setK; split <;> rfl
@[simp] theorem Work.setK_aForks (w : Work) (d : KReg) (v : Word) : (w.setK d v).aForks = w.aForks := by unfold Work.setK; split <;> rfl
@[simp] theorem Work.setK_lForks (w : Work) (d : KReg) (v : Word) : (w.setK d v).lForks = w.lForks := by unfold Work.setK; split <;> rfl
@[simp] theorem Work.setK_frames (w : Work) (d : KReg) (v : Word) : (w.setK d v).frames = w.frames := by unfold Work.setK; split <;> rfl
@[simp] theorem Work.setK_retq (w : Work) (d : KReg) (v : Word) : (w.setK d v).retq = w.retq := by unfold Work.setK; split <;> rfl
@[simp] theorem Work.setK_latch (w : Work) (d : KReg) (v : Word) : (w.setK d v).latch = w.latch := by unfold Work.setK; split <;> rfl
@[simp] theorem Work.setK_srseed (w : Work) (d : KReg) (v : Word) : (w.setK d v).srseed = w.srseed := by unfold Work.setK; split <;> rfl
@[simp] theorem Work.setK_epoch (w : Work) (d : KReg) (v : Word) : (w.setK d v).epoch = w.epoch := by unfold Work.setK; split <;> rfl
@[simp] theorem Work.setK_gens (w : Work) (d : KReg) (v : Word) : (w.setK d v).gens = w.gens := by unfold Work.setK; split <;> rfl
@[simp] theorem Work.setK_bar (w : Work) (d : KReg) (v : Word) : (w.setK d v).bar = w.bar := by unfold Work.setK; split <;> rfl
@[simp] theorem Work.setK_recasts (w : Work) (d : KReg) (v : Word) : (w.setK d v).recasts = w.recasts := by unfold Work.setK; split <;> rfl
@[simp] theorem Work.setK_list (w : Work) (d : KReg) (v : Word) : (w.setK d v).list = w.list := by unfold Work.setK; split <;> rfl
@[simp] theorem Work.setK_back (w : Work) (d : KReg) (v : Word) : (w.setK d v).back = w.back := by unfold Work.setK; split <;> rfl
@[simp] theorem Work.setCursor_pc (w : Work) (b : Bool) (c : Option Cursor) : (w.setCursor b c).pc = w.pc := by unfold Work.setCursor; split <;> rfl
@[simp] theorem Work.setCursor_priv (w : Work) (b : Bool) (c : Option Cursor) : (w.setCursor b c).priv = w.priv := by unfold Work.setCursor; split <;> rfl
@[simp] theorem Work.setCursor_s (w : Work) (b : Bool) (c : Option Cursor) : (w.setCursor b c).s = w.s := by unfold Work.setCursor; split <;> rfl
@[simp] theorem Work.setCursor_k (w : Work) (b : Bool) (c : Option Cursor) : (w.setCursor b c).k = w.k := by unfold Work.setCursor; split <;> rfl
@[simp] theorem Work.setCursor_w (w : Work) (b : Bool) (c : Option Cursor) : (w.setCursor b c).w = w.w := by unfold Work.setCursor; split <;> rfl
@[simp] theorem Work.setCursor_v (w : Work) (b : Bool) (c : Option Cursor) : (w.setCursor b c).v = w.v := by unfold Work.setCursor; split <;> rfl
@[simp] theorem Work.setCursor_q (w : Work) (b : Bool) (c : Option Cursor) : (w.setCursor b c).q = w.q := by unfold Work.setCursor; split <;> rfl
@[simp] theorem Work.setCursor_budget (w : Work) (b : Bool) (c : Option Cursor) : (w.setCursor b c).budget = w.budget := by unfold Work.setCursor; split <;> rfl
@[simp] theorem Work.setCursor_elastic (w : Work) (b : Bool) (c : Option Cursor) : (w.setCursor b c).elastic = w.elastic := by unfold Work.setCursor; split <;> rfl
@[simp] theorem Work.setCursor_image (w : Work) (b : Bool) (c : Option Cursor) : (w.setCursor b c).image = w.image := by unfold Work.setCursor; split <;> rfl
@[simp] theorem Work.setCursor_cached (w : Work) (b : Bool) (c : Option Cursor) : (w.setCursor b c).cached = w.cached := by unfold Work.setCursor; split <;> rfl
@[simp] theorem Work.setCursor_used (w : Work) (b : Bool) (c : Option Cursor) : (w.setCursor b c).used = w.used := by unfold Work.setCursor; split <;> rfl
@[simp] theorem Work.setCursor_cnt (w : Work) (b : Bool) (c : Option Cursor) : (w.setCursor b c).cnt = w.cnt := by unfold Work.setCursor; split <;> rfl
@[simp] theorem Work.setCursor_sprue (w : Work) (b : Bool) (c : Option Cursor) : (w.setCursor b c).sprue = w.sprue := by unfold Work.setCursor; split <;> rfl
@[simp] theorem Work.setCursor_aForks (w : Work) (b : Bool) (c : Option Cursor) : (w.setCursor b c).aForks = w.aForks := by unfold Work.setCursor; split <;> rfl
@[simp] theorem Work.setCursor_lForks (w : Work) (b : Bool) (c : Option Cursor) : (w.setCursor b c).lForks = w.lForks := by unfold Work.setCursor; split <;> rfl
@[simp] theorem Work.setCursor_frames (w : Work) (b : Bool) (c : Option Cursor) : (w.setCursor b c).frames = w.frames := by unfold Work.setCursor; split <;> rfl
@[simp] theorem Work.setCursor_retq (w : Work) (b : Bool) (c : Option Cursor) : (w.setCursor b c).retq = w.retq := by unfold Work.setCursor; split <;> rfl
@[simp] theorem Work.setCursor_latch (w : Work) (b : Bool) (c : Option Cursor) : (w.setCursor b c).latch = w.latch := by unfold Work.setCursor; split <;> rfl
@[simp] theorem Work.setCursor_srseed (w : Work) (b : Bool) (c : Option Cursor) : (w.setCursor b c).srseed = w.srseed := by unfold Work.setCursor; split <;> rfl
@[simp] theorem Work.setCursor_epoch (w : Work) (b : Bool) (c : Option Cursor) : (w.setCursor b c).epoch = w.epoch := by unfold Work.setCursor; split <;> rfl
@[simp] theorem Work.setCursor_gens (w : Work) (b : Bool) (c : Option Cursor) : (w.setCursor b c).gens = w.gens := by unfold Work.setCursor; split <;> rfl
@[simp] theorem Work.setCursor_bar (w : Work) (b : Bool) (c : Option Cursor) : (w.setCursor b c).bar = w.bar := by unfold Work.setCursor; split <;> rfl
@[simp] theorem Work.setCursor_recasts (w : Work) (b : Bool) (c : Option Cursor) : (w.setCursor b c).recasts = w.recasts := by unfold Work.setCursor; split <;> rfl
@[simp] theorem Work.setCursor_list (w : Work) (b : Bool) (c : Option Cursor) : (w.setCursor b c).list = w.list := by unfold Work.setCursor; split <;> rfl
@[simp] theorem Work.setCursor_back (w : Work) (b : Bool) (c : Option Cursor) : (w.setCursor b c).back = w.back := by unfold Work.setCursor; split <;> rfl
/-! ## Reading back -/

/-- Groups after a change of one group. -/
theorem State.group?_updGroup (s : State) (i j : Nat) (f : Group → Group) :
    (s.updGroup i f).group? j = if j = i then (s.group? i).map f else s.group? j := find?_modify ..

@[simp] theorem State.group?_updGroup_self (s : State) (i : Nat) (f : Group → Group) :
    (s.updGroup i f).group? i = (s.group? i).map f := by simp [State.group?_updGroup]

@[simp] theorem State.group?_updCore (s : State) (c j : Nat) (f : Core → Core) : (s.updCore c f).group? j = s.group? j := rfl
@[simp] theorem State.group?_updCtx (s : State) (c j : Nat) (f : Ctx → Ctx) : (s.updCtx c f).group? j = s.group? j := rfl
@[simp] theorem State.group?_event (s : State) (c x j : Nat) (e : BitVec 8) : (s.event c x e).group? j = s.group? j := rfl
@[simp] theorem State.group?_putHome (s : State) (l j : Nat) (d : LineData) (m : BitVec 128) :
    (s.putHome l d m).group? j = s.group? j := rfl

theorem State.core_updCore (s : State) (c k : Nat) (f : Core → Core) :
    (s.updCore c f).core k = if k = c then f (s.core c) else s.core k := get_put ..

@[simp] theorem State.core_updCore_self (s : State) (c : Nat) (f : Core → Core) :
    (s.updCore c f).core c = f (s.core c) := by simp [State.core_updCore]

@[simp] theorem State.core_updGroup (s : State) (i k : Nat) (f : Group → Group) : (s.updGroup i f).core k = s.core k := rfl
@[simp] theorem State.core_updCtx (s : State) (c k : Nat) (f : Ctx → Ctx) : (s.updCtx c f).core k = s.core k := rfl
@[simp] theorem State.core_putHome (s : State) (l k : Nat) (d : LineData) (m : BitVec 128) :
    (s.putHome l d m).core k = s.core k := rfl

theorem State.core_event (s : State) (c x k : Nat) (e : BitVec 8) :
    (s.event c x e).core k = if k = c then (s.core c).count x e 1 else s.core k := State.core_updCore ..

@[simp] theorem State.ctx_updGroup (s : State) (i k : Nat) (f : Group → Group) : (s.updGroup i f).ctx k = s.ctx k := rfl
@[simp] theorem State.ctx_updCore (s : State) (c k : Nat) (f : Core → Core) : (s.updCore c f).ctx k = s.ctx k := rfl
@[simp] theorem State.ctx_event (s : State) (c x k : Nat) (e : BitVec 8) : (s.event c x e).ctx k = s.ctx k := rfl

theorem State.ctx_updCtx {s : State} {c k : Nat} (f : Ctx → Ctx) (h : c < 16) :
    (s.updCtx c f).ctx k = if k = c then f (s.ctx c) else s.ctx k := by
  unfold State.updCtx State.ctx
  by_cases e : k = c
  · subst e; simp [h]
  · simp [e, Vector.getElem?_setIfInBounds_ne (Ne.symm e)]

/-- Changing the level that runs now changes the group's work. -/
@[simp] theorem Group.updWork_level (g : Group) (f : Work → Work) : g.updWork g.level f = { g with work := f g.work } := by
  unfold Group.updWork Group.level; split <;> simp

/-- Two changes of one group are one change. -/
theorem State.updGroup_updGroup (s : State) (i : Nat) (f h : Group → Group) :
    (s.updGroup i f).updGroup i h = s.updGroup i (fun g => h (f g)) := by
  simp only [State.updGroup, modify_modify]

/-! ## Registers of a group -/

@[simp] theorem Work.sreg_zero (w : Work) : w.sreg 0#6 = 0#64 := rfl

/-- s registers after a write: s0 is discarded (R142, R165). -/
theorem Work.sreg_setS (w : Work) (d r : SReg) (v : DWord) :
    (w.setS d v).sreg r = if r = d ∧ d ≠ 0 then v else w.sreg r := by
  unfold Work.setS Work.sreg
  have : d.toNat = r.toNat ↔ r = d := ⟨fun h => BitVec.eq_of_toNat_eq h.symm, fun h => h ▸ rfl⟩
  by_cases hd : d = 0
  · grind
  · rw [if_neg hd]; grind

/-- Mask registers after a write: k0 stays (R126). -/
theorem Work.kreg_setK (w : Work) (d r : KReg) (v : Word) :
    (w.setK d v).kreg r = if r = d ∧ d ≠ 0 then v else w.kreg r := by
  unfold Work.setK Work.kreg
  have : d.toNat = r.toNat ↔ r = d := ⟨fun h => BitVec.eq_of_toNat_eq h.symm, fun h => h ▸ rfl⟩
  by_cases hd : d = 0
  · grind
  · rw [if_neg hd]; grind

/-- Uniform registers after a write. -/
theorem Work.wreg_setW (w : Work) (d r : WReg) (v : Word) :
    (w.setW d v).wreg r = if r = d then v else w.wreg r := by
  unfold Work.setW Work.wreg
  by_cases e : r = d
  · simp [e]
  · have : d.toNat ≠ r.toNat := fun h => e (BitVec.eq_of_toNat_eq h.symm)
    simp [e, Vector.getElem_set_ne _ _ this]

/-- q registers after a write. -/
theorem Work.qreg_setQ (w : Work) (d r : QReg) (v : QVal) :
    (w.setQ d v).qreg r = if r = d then v else w.qreg r := by
  unfold Work.setQ Work.qreg
  by_cases e : r = d
  · simp [e]
  · have : d.toNat ≠ r.toNat := fun h => e (BitVec.eq_of_toNat_eq h.symm)
    simp [e, Vector.getElem_set_ne _ _ this]

/-- v registers after a write. -/
theorem Work.vreg_setV (w : Work) (d r : Nat) (v : VVal) :
    (w.setV d v).vreg r = if r = d then v else w.vreg r := get_put ..

/-- A result and the step past the instruction. -/
theorem Work.sreg_result (w : Work) (d r : SReg) (v : DWord) :
    (w.result d v).sreg r = if r = d ∧ d ≠ 0 then v else w.sreg r := by
  rw [← Work.sreg_setS]; rfl

@[simp] theorem Work.result_pc (w : Work) (d : SReg) (v : DWord) : (w.result d v).pc = w.pc + 4 := rfl

theorem Work.result_rest (w : Work) (d : SReg) (v : DWord) : { w.result d v with s := w.s, pc := w.pc } = w := by
  unfold Work.result Work.setS; split <;> rfl

/-! ## A lane value -/

@[simp] theorem VVal.write_val (old new : VVal) (act : Word) (l : Fin 32) :
    (old.write new act).val[l] = if act.getLsbD l.val then new.val[l] else old.val[l] := by simp [VVal.write]

end Sys2Proof.Machine
end

