-- ==== Sys2Proof/Laws/Run.lean ====
section
/-!
SUPPORT. Everything the frames of the instructions can do: an instruction over `armWork`, `armM`, `laneWork`, `laneM` or
`moveStep` is proved about by citing these.
-/
namespace Sys2Proof.Machine
open Say

/-- The count of an Armature issue, where the group exists. -/
theorem afterArm_eq {s : State} {gid : Nat} {g : Group} (h : s.group? gid = some g) :
    afterArm s gid = (s.updGroup gid fun g => { g with sched := { g.sched with issuedAt := s.now } }).event g.core g.ctx 1 := by
  simp [afterArm, h]

/-- The frame of a change of one group's work after a counted issue. -/
theorem ran_updGroup {s : State} {gid : Nat} {g : Group} (h : s.group? gid = some g) (code : BitVec 8) (f : Group → Group)
    (w : Work) (hf : f { g with sched := { g.sched with issuedAt := s.now } } =
      { g with work := w, sched := { g.sched with issuedAt := s.now } }) :
    Ran code s (((s.updGroup gid fun g => { g with sched := { g.sched with issuedAt := s.now } }).event g.core g.ctx code).updGroup
      gid f) gid g w where
  group := by simp [h, hf]
  others := fun j hj => by simp [State.group?_updGroup, hj]
  counts := by simp [State.core_event]
  cores := fun c hc => by simp [State.core_event, hc]
  rest := rfl

/-- `armWork` runs, and changes only the work. -/
theorem armWork_runs {s : State} {g : Group} (f : Work → Work) (h : s.group? s.focus.group = some g) :
    ∃ t, armWork s f = .next t ∧ Ran 1 s t s.focus.group g (f g.work) := by
  refine ⟨_, by simp only [armWork, h]; rfl, ?_⟩
  rw [afterArm_eq h]
  exact ran_updGroup h 1 _ _ rfl

/-- `armM` ends as its body does. -/
theorem armM_ok {s s' : State} {g : Group} {body : Nat → Group → M Unit} (h : s.group? s.focus.group = some g)
    (hb : body s.focus.group g (afterArm s s.focus.group) = .ok () s') : armM s body = .next s' := by
  simp only [armM, h, hb]

theorem armM_wait {s s' : State} {g : Group} {body : Nat → Group → M Unit} (h : s.group? s.focus.group = some g)
    (hb : body s.focus.group g (afterArm s s.focus.group) = .error .wait s') : armM s body = .next s := by
  simp only [armM, h, hb]

theorem armM_fault {s s' : State} {g : Group} {body : Nat → Group → M Unit} {l : List (Nat × XFault)}
    (h : s.group? s.focus.group = some g)
    (hb : body s.focus.group g (afterArm s s.focus.group) = .error (.faults l) s') :
    armM s body =
      .next (takeMove s' (raise s.focus.group g.level (recsOf g.work.pc (BitVec.ofNat 32 s.focus.word) 0 false l))) := by
  simp only [armM, h, hb]

/-- Every outcome of the frames is a next state. -/
theorem armM_next (s : State) (body : Nat → Group → M Unit) : ∃ t, armM s body = .next t := by
  dsimp only [armM]; repeat' first | exact ⟨_, rfl⟩ | split

theorem armWork_next (s : State) (f : Work → Work) : ∃ t, armWork s f = .next t := by
  dsimp only [armWork]; repeat' first | exact ⟨_, rfl⟩ | split

theorem laneWork_next (s : State) (i : Instr) (c : Ctl) (f : LaneCx → Word → Work → Work) :
    ∃ t, laneWork s i c f = .next t := by
  dsimp only [laneWork]; repeat' first | exact ⟨_, rfl⟩ | split

theorem laneM_next (s : State) (i : Instr) (c : Ctl) (body : LaneCx → Word → M Unit) : ∃ t, laneM s i c body = .next t := by
  dsimp only [laneM]; repeat' first | exact ⟨_, rfl⟩ | split

theorem moveStep_next (s : State) (m : M Unit) : ∃ t, moveStep s m = .next t := ⟨_, rfl⟩

/-- A body that changes only the running work of the group in focus. -/
theorem armM_modWork {s : State} {g : Group} {body : Nat → Group → M Unit} (f : Work → Work)
    (h : s.group? s.focus.group = some g)
    (hb : body s.focus.group g (afterArm s s.focus.group) =
      (modWork s.focus.group g.level f) (afterArm s s.focus.group)) :
    ∃ t, armM s body = .next t ∧ Ran 1 s t s.focus.group g (f g.work) := by
  refine ⟨_, armM_ok h hb, ?_⟩
  rw [afterArm_eq h]
  exact ran_updGroup h 1 _ _ (Group.updWork_level { g with sched := { g.sched with issuedAt := s.now } } f)

end Sys2Proof.Machine
end

