-- ==== Sys2Proof/Laws/Side.lean ====
section
/-!
SUPPORT. What the operations of caches, homes, translation and the part's own accesses can change: memory with its poison,
home records, cores, the RDC, LEAD, the walks under way and the lines that the directory holds, and nothing else; and memory keeps its canonical form. One lemma per operation, for
every way in which it ends.
-/
namespace Sys2Proof.Machine

/-- From `s` to `t` only the memory side of the machine has changed, and memory keeps its form. -/
structure Side (s t : State) : Prop where
  rest : { t with mem := s.mem, poison := s.poison, homes := s.homes, cores := s.cores, rdc := s.rdc, lead := s.lead
                  leadLog := s.leadLog, walks := s.walks, pkg := { t.pkg with snooped := s.pkg.snooped } } = s
  wf : Memory.wf s.mem = true → Memory.wf t.mem = true

theorem Side.refl (s : State) : Side s s := ⟨rfl, id⟩

theorem Side.trans {a b c : State} (h : Side a b) (k : Side b c) : Side a c where
  rest := by
    have e := k.rest
    rw [← h.rest]
    conv => rhs; rw [← e]
  wf := fun w => k.wf (h.wf w)

/-- A move, begun in `s`, ends within the memory side of `s`. -/
def SideAt {α : Type} (m : M α) (s : State) : Prop := match m s with
  | .ok _ t => Side s t
  | .error _ t => Side s t

variable {α β : Type} {s : State}

theorem SideAt.ok {m : M α} {a : α} {t : State} (h : SideAt m s) (e : m s = .ok a t) : Side s t := by
  rw [SideAt, e] at h; exact h

theorem SideAt.pure (a : α) : SideAt (pure a : M α) s := Side.refl s
theorem SideAt.throw (e : Stop) : SideAt (throw e : M α) s := Side.refl s
theorem SideAt.wait : SideAt (waitM : M α) s := Side.refl s
theorem SideAt.fault (c b : BitVec 4) (v a : DWord) : SideAt (faultM c b v a : M α) s := Side.refl s
theorem SideAt.need (b : Bool) : SideAt (Machine.need b) s := by cases b <;> exact Side.refl s
theorem SideAt.modify {f : State → State} (h : Side s (f s)) : SideAt (modify f : M PUnit) s := h
theorem SideAt.set {t : State} (h : Side s t) : SideAt (set t : M PUnit) s := h

theorem SideAt.bind {m : M α} {f : α → M β} (hm : SideAt m s) (hf : ∀ a t, m s = .ok a t → SideAt (f a) t) :
    SideAt (m >>= f) s := by
  unfold SideAt at *
  rw [run_bind]
  cases hms : m s with
  | error e t => rw [hms] at hm; exact hm
  | ok a t =>
    rw [hms] at hm
    have k := hf a t hms
    dsimp only at hm k ⊢
    cases hfa : f a t <;> rw [hfa] at k <;> exact hm.trans k

theorem SideAt.needBind {b : Bool} {f : Unit → M β} (h : b = true → SideAt (f ()) s) : SideAt (Machine.need b >>= f) s := by
  cases b
  · exact Side.refl s
  · exact h rfl

theorem SideAt.getBind {f : State → M β} (h : SideAt (f s) s) : SideAt ((get : M State) >>= f) s := h

theorem SideAt.ite {c : Prop} [Decidable c] {m n : M α} (hm : c → SideAt m s) (hn : ¬ c → SideAt n s) :
    SideAt (if c then m else n) s := by split <;> simp_all

theorem SideAt.each {f : α → M Unit} (l : List α) (h : ∀ a t, SideAt (f a) t) : SideAt (each l f) s := by
  induction l generalizing s with
  | nil => exact Side.refl s
  | cons a l ih => exact SideAt.bind (h a s) fun _ t _ => ih

/-! ## Changes of the state -/

theorem Side.core (c : Nat) (f : Core → Core) : Side s (s.updCore c f) := ⟨rfl, id⟩
theorem Side.home (line : Nat) (h : Home) : Side s (s.setHome line h) := ⟨rfl, id⟩
theorem Side.putHome (line : Nat) (d : LineData) (mask : BitVec 128) : Side s (s.putHome line d mask) :=
  ⟨rfl, fun h => State.putHome_wf h line d mask⟩
theorem Side.event (core ctx : Nat) (code : BitVec 8) : Side s (s.event core ctx code) := ⟨rfl, id⟩
theorem Side.setRdc (c line : Nat) (r : RdcLine) : Side s (s.setRdc c line r) := ⟨rfl, id⟩

theorem SideAt.modCore (c : Nat) (f : Core → Core) : SideAt (Machine.modCore c f) s := Side.core c f
theorem SideAt.modHome (line : Nat) (f : Home → Home) : SideAt (Machine.modHome line f) s := Side.home line _

/-! ## Time, homes, write-backs -/

theorem stampLead_side (t : Time) : SideAt (stampLead t) s := by
  unfold stampLead
  exact .getBind (.ite (fun _ => .pure _) fun _ => .needBind fun _ => .set ⟨rfl, id⟩)

theorem jump_side (c : Nat) (t : Time) : SideAt (jump c t) s := by
  unfold jump
  exact .getBind (.ite (fun _ => .needBind fun _ => .bind (stampLead_side _) fun _ _ _ => .modCore _ _) fun _ => .pure _)

theorem bufferFree_side (c line : Nat) : SideAt (bufferFree c line) s := .getBind (.need _)

theorem unblocked_side (line : Nat) : SideAt (unblocked line) s := by
  unfold unblocked; exact .getBind (.need _)

theorem sysLine_side (line : Nat) : SideAt (sysLine line) s := by
  unfold sysLine
  exact .bind (unblocked_side _) fun _ _ _ => .ite (fun _ => .modify ⟨rfl, id⟩) fun _ => .pure _

theorem storeHome_side (c line : Nat) (d : LineData) (mask : BitVec 128) : SideAt (storeHome c line d mask) s := by
  unfold storeHome
  exact .getBind (.needBind fun _ => .bind (.modify (Side.putHome line d mask)) fun _ _ _ => .getBind (.ite
    (fun _ => .bind (stampLead_side _) fun _ _ _ => .bind (.modHome _ _) fun _ _ _ => .pure _) fun _ => .pure _))

theorem keepRdc_side (c line : Nat) (r : RdcLine) : SideAt (keepRdc c line r) s := by
  unfold keepRdc
  exact .getBind (.ite (fun _ => .pure _) fun _ => .modify (Side.setRdc ..))

theorem rdcUpdate_side (c line : Nat) (d : LineData) (mask : BitVec 128) (t : Time) : SideAt (rdcUpdate c line d mask t) s := by
  unfold rdcUpdate
  refine .getBind ?_
  split
  · exact .pure _
  · exact .set (Side.setRdc ..)

theorem dirtyHome_side (c line : Nat) (d : LineData) (dirty : BitVec 128) : SideAt (dirtyHome c line d dirty) s := by
  unfold dirtyHome
  exact .ite (fun _ => .pure _) fun _ => .bind (storeHome_side ..) fun _ _ _ => rdcUpdate_side ..

theorem writebackBuffer_side (c line : Nat) : SideAt (writebackBuffer c line) s := by
  unfold writebackBuffer
  refine .getBind ?_
  split
  · exact .wait
  · refine .bind (dirtyHome_side ..) fun _ _ _ => .bind (.modCore _ _) fun _ _ _ => .getBind ?_
    exact .ite (fun _ => .pure _) fun _ => .modHome _ _

theorem recallLine_side (line : Nat) : SideAt (recallLine line) s := by
  unfold recallLine
  refine .getBind ?_
  split
  · exact .pure _
  · split
    · exact .modCore _ _
    · exact .pure _

theorem clearOwner_side (line : Nat) : SideAt (clearOwner line) s := by
  unfold clearOwner
  refine .bind (recallLine_side line) fun _ _ _ => .getBind ?_
  split
  · exact .pure _
  · refine .getBind (.ite (fun _ => writebackBuffer_side ..) fun _ => .getBind ?_)
    split
    · exact .pure _
    · exact .modHome _ _

theorem clearOther_side (c line : Nat) : SideAt (clearOther c line) s := by
  unfold clearOther
  refine .getBind ?_
  split
  · exact .pure _
  · exact .ite (fun _ => clearOwner_side _) fun _ => .ite (fun _ => writebackBuffer_side ..) fun _ => .pure _

theorem writebackRelease_side (c line : Nat) : SideAt (writebackRelease c line) s := by
  unfold writebackRelease
  refine .bind (bufferFree_side ..) fun _ _ _ => .getBind ?_
  split
  · exact .bind (dirtyHome_side ..) fun _ _ _ => .modCore _ _
  · exact .wait

theorem writebackReplace_side (c line : Nat) : SideAt (writebackReplace c line) s := by
  unfold writebackReplace
  refine .bind (bufferFree_side ..) fun _ _ _ => .getBind ?_
  split
  · exact .bind (dirtyHome_side ..) fun _ _ _ => .bind (.modCore _ _) fun _ _ _ => .modHome _ _
  · exact .wait

theorem releaseCore_side (c : Nat) : SideAt (releaseCore c) s := by
  unfold releaseCore
  exact .getBind (.bind (.each _ fun _ _ => writebackBuffer_side ..) fun _ _ _ =>
    .getBind (.each _ fun _ _ => writebackRelease_side ..))

/-! ## Copies -/

theorem rdcClean_side (die line : Nat) : SideAt (rdcClean die line) s := by
  unfold rdcClean
  refine .getBind ?_
  split
  · exact .ite (fun _ => .pure _) fun _ => .bind (storeHome_side ..) fun _ _ _ => .modify ⟨rfl, id⟩
  · exact .pure _

theorem keepCopy_side (c line : Nat) (l : L1Line) : SideAt (keepCopy c line l) s := by
  unfold keepCopy
  exact .getBind (.ite (fun _ => .pure _) fun _ => .modCore _ _)

theorem noncohBack_side (c line : Nat) : SideAt (noncohBack c line) s := by
  unfold noncohBack
  refine .getBind ?_
  split
  · refine .ite (fun _ => .modCore _ _) fun _ => .ite (fun _ => .getBind (.needBind fun _ => ?_))
      fun _ => .bind (dirtyHome_side ..) fun _ _ _ => .modCore _ _
    exact .bind (.set (Side.setRdc ..)) fun _ _ _ => .modCore _ _
  · exact .wait

theorem leaveRdc_side (c line : Nat) : SideAt (leaveRdc c line) s := by
  unfold leaveRdc
  refine .getBind ?_
  split
  · exact .ite (fun _ => .pure _) fun _ => rdcClean_side ..
  · exact .pure _

theorem leaveNoncoh_side (c line : Nat) : SideAt (leaveNoncoh c line) s := by
  unfold leaveNoncoh
  refine .getBind ?_
  split
  · exact .ite (fun _ => leaveRdc_side ..) fun _ => .bind (noncohBack_side ..) fun _ _ _ => leaveRdc_side ..
  · exact leaveRdc_side ..

theorem renew_side (c ctx line : Nat) : SideAt (renew c ctx line) s := by
  unfold renew
  refine .bind (unblocked_side _) fun _ _ _ => .bind (leaveNoncoh_side ..) fun _ _ _ => .bind (clearOther_side ..) fun _ _ _ => .getBind ?_
  refine .bind (stampLead_side _) fun _ _ _ => .bind (.modHome _ _) fun _ _ _ => .bind (.modify (Side.event ..)) fun _ _ _ => ?_
  refine .getBind ?_
  have keep : ∀ u l, SideAt (m := keepCopy c line l) u := fun u l => keepCopy_side c line l
  split <;> first
    | exact .bind (.pure _) fun _ _ _ => .ite (fun _ => .bind (keepRdc_side ..) fun _ _ _ => .pure _)
        fun _ => .bind (.pure _) fun _ _ _ => .pure _
    | exact .bind (keep _ _) fun _ _ _ => .ite (fun _ => .bind (keepRdc_side ..) fun _ _ _ => .pure _)
        fun _ => .bind (.pure _) fun _ _ _ => .pure _

theorem leasedCopy_side (c ctx line : Nat) : SideAt (leasedCopy c ctx line) s := by
  unfold leasedCopy
  refine .bind (leaveNoncoh_side ..) fun _ _ _ => .getBind ?_
  split
  · exact .ite (fun _ => .bind (keepCopy_side ..) fun _ _ _ => .pure _) fun _ => renew_side ..
  · exact renew_side ..

theorem fillNoncoh_side (c ctx line : Nat) : SideAt (fillNoncoh c ctx line) s := by
  unfold fillNoncoh
  refine .bind (.modify (Side.event ..)) fun _ _ _ => .getBind ?_
  split
  · exact .bind (keepCopy_side ..) fun _ _ _ => .pure _
  · refine .bind (unblocked_side _) fun _ _ _ => .getBind (.ite (fun _ => .bind (keepRdc_side ..) fun _ _ _ => ?_)
      fun _ => ?_) <;> exact .bind (keepCopy_side ..) fun _ _ _ => .pure _

theorem gainOwned_side (c ctx line : Nat) : SideAt (gainOwned c ctx line) s := by
  unfold gainOwned
  refine .getBind ?_
  split
  · exact .pure _
  · have rest : ∀ u, SideAt (m := (do
        unblocked line
        leaveNoncoh c line
        clearOther c line
        let s ← get
        let h := s.home line
        need (h.owner.isNone || h.owner == some c)
        need (!(s.core c).setFull line)
        modHome line ({ · with owner := some c })
        modCore c fun k => { k with l1 := Tab.put k.l1 line ⟨.owned h.wts 0 false, s.homeData line⟩ } : M Unit)) u := fun u =>
      .bind (unblocked_side _) fun _ _ _ => .bind (leaveNoncoh_side ..) fun _ _ _ => .bind (clearOther_side ..) fun _ _ _ =>
        .getBind (.needBind fun _ => .needBind fun _ => .bind (.modHome _ _) fun _ _ _ => .modCore _ _)
    exact .ite (fun _ => .bind (.modify (Side.event ..)) fun _ _ _ => rest _) fun _ => rest _

theorem readL1_side (c ctx line : Nat) (scope : Scope) (cls : CClass) : SideAt (readL1 c ctx line scope cls) s := by
  unfold readL1
  refine .getBind ?_
  dsimp only
  have leased : ∀ u, SideAt (m := (do
      pure ((fun l : L1Line => match l.kind with
          | .leased w _ => (l.data, some w)
          | .owned w _ _ => (l.data, some w)
          | .noncoh _ => (l.data, none)) (← leasedCopy c ctx line)) : M (LineData × Option Time))) u := fun u =>
    .bind (leasedCopy_side ..) fun _ _ _ => .pure _
  repeat' first
    | exact .pure _
    | exact leased _
    | exact .bind (fillNoncoh_side ..) fun _ _ _ => .pure _
    | exact .bind (keepCopy_side ..) fun _ _ _ => .pure _
    | refine .bind (.modify (Side.event ..)) fun _ _ _ => ?_
    | refine .ite (fun _ => ?_) fun _ => ?_
    | split

theorem readRo_side (c ctx line : Nat) : SideAt (readRo c ctx line) s := by
  unfold readRo
  refine .getBind ?_
  dsimp only
  split
  · exact .pure _
  · split
    · exact .bind (.pure _) fun _ _ _ => .bind (.modCore _ _) fun _ _ _ => .pure _
    · split
      · exact .bind (.pure _) fun _ _ _ => .bind (.modCore _ _) fun _ _ _ => .pure _
      · exact .bind (unblocked_side _) fun _ _ _ => .bind (.pure _) fun _ _ _ => .bind (.modCore _ _) fun _ _ _ => .pure _

theorem writeOwned_side (c line : Nat) (d : LineData) (mask : BitVec 128) : SideAt (writeOwned c line d mask) s := by
  unfold writeOwned
  refine .getBind ?_
  split
  · exact .modCore _ _
  · exact .modCore _ _
  · exact .wait

theorem gainNoncoh_side (c ctx line : Nat) : SideAt (gainNoncoh c ctx line) s := by
  unfold gainNoncoh
  refine .getBind ?_
  split
  · exact .pure _
  · exact .getBind (.needBind fun _ => .bind (fillNoncoh_side ..) fun _ _ _ => .pure _)

theorem ownCopy_side (c line : Nat) (d : LineData) (mask : BitVec 128) (w : Time) : SideAt (ownCopy c line d mask w) s := by
  unfold ownCopy
  refine .getBind ?_
  split
  · exact .modCore _ _
  · exact .modCore _ _
  · exact .modCore _ _
  · exact .pure _

theorem storeDevice_side (c line : Nat) (d : LineData) (mask : BitVec 128) : SideAt (storeDevice c line d mask) s := by
  unfold storeDevice
  exact .bind (unblocked_side _) fun _ _ _ => .bind (storeHome_side ..) fun _ _ _ => .bind (jump_side ..) fun _ _ _ =>
    .bind (rdcUpdate_side ..) fun _ _ _ => .bind (ownCopy_side ..) fun _ _ _ => .pure _

/-! ## Translation and fetch -/

theorem readHomeAt_side (c : Nat) (pts : Time) (line : Nat) : SideAt (readHomeAt c pts line) s := by
  unfold readHomeAt
  exact .bind (unblocked_side _) fun _ _ _ => .bind (clearOther_side ..) fun _ _ _ => .getBind (.bind (stampLead_side _)
    fun _ _ _ => .bind (.modHome _ _) fun _ _ _ => .pure _)

theorem readHome_side (c line : Nat) : SideAt (readHome c line) s := .getBind (readHomeAt_side ..)

theorem walkLevels_side (c : Nat) (pts : Time) (va : DWord) (l : List Nat) (table : Nat) (lease : Time) (w : Option Time) :
    SideAt (walkLevels c pts va l table lease w) s := by
  induction l generalizing s table lease w with
  | nil => exact .pure _
  | cons level rest ih =>
    unfold walkLevels
    refine .getBind ?_
    split
    · exact .pure _
    · refine .bind (readHomeAt_side ..) fun _ _ _ => .getBind ?_
      split
      · exact .pure _
      · refine .getBind (.ite (fun _ => .pure _) fun _ => .ite (fun _ => ?_) fun _ => ?_)
        · exact .ite (fun _ => .pure _) fun _ => .pure _
        · exact .ite (fun _ => ih ..) fun _ => .pure _

theorem walk_side (c ctx : Nat) (pts : Time) (va : DWord) : SideAt (walk c ctx pts va) s := by
  unfold walk
  exact .getBind (walkLevels_side ..)

theorem tlbRenew_side (c ctx : Nat) (va : DWord) : SideAt (tlbRenew c ctx va) s := by
  unfold tlbRenew
  refine .bind (.modify (Side.event ..)) fun _ _ _ => .getBind (.needBind fun _ => .bind (walk_side ..) fun _ _ _ => ?_)
  dsimp only
  split
  · refine .bind (.modify ⟨rfl, id⟩) fun _ _ _ => ?_
    split
    · exact .pure _
    · exact .getBind (.bind (.each _ fun _ _ => .modCore _ _) fun _ _ _ => .pure _)
  · refine .bind (.each _ fun _ _ => jump_side ..) fun _ _ _ => .bind (.modify ⟨rfl, id⟩) fun _ _ _ => ?_
    split
    · exact .pure _
    · exact .getBind (.bind (.each _ fun _ _ => .modCore _ _) fun _ _ _ => .pure _)

theorem translate_side (c ctx : Nat) (va : DWord) : SideAt (translate c ctx va) s := by
  unfold translate
  have use : ∀ u, SideAt (m := (do
      let s ← get
      match s.tlbFind c ctx va with
      | none => pure none
      | some t =>
        modCore c (·.tlbTouch t)
        pure (some (t.xlat va (s.core c).pts)) : M (Option Xlat))) u := fun u => by
    refine .getBind ?_
    split
    · exact .pure _
    · exact .bind (.modCore _ _) fun _ _ _ => .pure _
  refine .ite (fun _ => .pure _) fun _ => .bind (use _) fun _ _ _ => ?_
  split
  · exact .pure _
  · refine .bind (tlbRenew_side ..) fun _ _ _ => ?_
    split
    · exact .pure _
    · refine .bind (use _) fun _ _ _ => ?_
      split
      · exact .pure _
      · refine .bind (tlbRenew_side ..) fun _ _ _ => ?_
        split
        · exact .pure _
        · refine .bind (use _) fun _ _ _ => ?_
          split
          · exact .pure _
          · exact .wait

theorem accessAt_side (c ctx : Nat) (va : DWord) (r : Right) (scope : Option Scope) (ro lock : Bool) :
    SideAt (accessAt c ctx va r scope ro lock) s := by
  unfold accessAt
  refine .bind (translate_side ..) fun _ _ _ => ?_
  split
  · exact .pure _
  · exact .ite (fun _ => .pure _) fun _ => .ite (fun _ => .pure _) fun _ => .pure _

theorem accessM_side (c ctx : Nat) (va : DWord) (r : Right) (scope : Option Scope) : SideAt (accessM c ctx va r scope) s := by
  unfold accessM
  refine .bind (accessAt_side ..) fun _ _ _ => ?_
  split
  · exact .pure _
  · exact .throw _

theorem hereM_side (va : DWord) (pa : Nat) : SideAt (hereM va pa) s := by
  unfold hereM
  refine .getBind ?_
  split
  · exact .pure _
  · exact .throw _

theorem codeLine_side (c : Nat) (lane : Bool) (line : Nat) : SideAt (codeLine c lane line) s := by
  unfold codeLine
  refine .getBind ?_
  split
  · exact .pure _
  · refine .ite (fun _ => .bind (readHome_side ..) fun _ _ _ => .bind (jump_side ..) fun _ _ _ => ?_)
      fun _ => ?_ <;> exact .getBind (.bind (.modCore _ _) fun _ _ _ => .pure _)

theorem fetchWord_side (c ctx : Nat) (lane : Bool) (va : DWord) : SideAt (fetchWord c ctx lane va) s := by
  unfold fetchWord
  dsimp only
  split
  · exact .bind (.fault ..) fun _ _ e => by cases e
  · refine .bind (accessM_side ..) fun x _ _ => .getBind ?_
    split
    · exact .bind (hereM_side ..) fun _ _ _ => .bind (codeLine_side ..) fun _ _ _ =>
        .ite (fun _ => .bind (.fault ..) fun _ _ _ => .pure _) fun _ => .pure _
    · exact .bind (codeLine_side ..) fun _ _ _ => .ite (fun _ => .bind (.fault ..) fun _ _ _ => .pure _) fun _ => .pure _

theorem fetchArm_side (c ctx : Nat) (va : DWord) : SideAt (fetchArm c ctx va) s := fetchWord_side ..

theorem fetchLane_side (c ctx : Nat) (va : DWord) : SideAt (fetchLane c ctx va) s := by
  unfold fetchLane
  exact .bind (fetchWord_side ..) fun _ _ _ => .bind (fetchWord_side ..) fun _ _ _ => .bind (fetchWord_side ..) fun _ _ _ => .pure _

/-! ## The part's own accesses -/

theorem uncounted_side {m : M α} (c : Nat) (h : SideAt m s) : SideAt (uncounted c m) s := by
  unfold uncounted
  exact .getBind (.bind h fun _ _ _ => .bind (.modCore _ _) fun _ _ _ => .pure _)

theorem partStore_side (c ctx : Nat) (va : DWord) (bs : List Byte) : SideAt (partStore c ctx va bs) s := by
  unfold partStore
  generalize lineRuns (bs.length / 128 + 2) va.toNat bs.length = l
  suffices ∀ l lines t u, SideAt (partStore.go c ctx va bs l lines t) u from uncounted_side c (this _ _ _ _)
  intro l
  induction l with
  | nil => exact fun _ _ _ => .pure _
  | cons a l ih =>
    intro lines t u
    obtain ⟨at_, x, k⟩ := a
    unfold partStore.go
    refine .bind (accessAt_side ..) fun _ _ _ => ?_
    split
    · exact .pure _
    · refine .getBind ?_
      split
      · exact .pure _
      · dsimp only
        split
        · exact .bind (sysLine_side _) fun _ _ _ => .bind (.modify (Side.putHome ..)) fun _ _ _ => ih ..
        · exact .bind (storeDevice_side ..) fun _ _ _ => ih ..

theorem partLoad_side (c ctx : Nat) (va : DWord) (n : Nat) : SideAt (partLoad c ctx va n) s := by
  unfold partLoad
  generalize lineRuns (n / 128 + 2) va.toNat n = l
  suffices ∀ l acc t u, SideAt (partLoad.go c ctx l acc t) u from uncounted_side c (this _ _ _ _)
  intro l
  induction l with
  | nil => exact fun _ _ _ => .pure _
  | cons a l ih =>
    intro acc t u
    obtain ⟨at_, x, k⟩ := a
    unfold partLoad.go
    refine .bind (accessAt_side ..) fun _ _ _ => ?_
    split
    · exact .pure _
    · refine .getBind ?_
      split
      · exact .pure _
      · dsimp only
        split
        · refine .bind (sysLine_side _) fun _ _ _ => .getBind (.bind (.pure _) fun _ _ _ => ?_)
          split
          · exact .ite (fun _ => .pure _) fun _ => ih ..
          · exact .bind (jump_side ..) fun _ _ _ => .ite (fun _ => .pure _) fun _ => ih ..
        · refine .bind (readL1_side ..) fun _ _ _ => ?_
          split
          · exact .ite (fun _ => .pure _) fun _ => ih ..
          · exact .bind (jump_side ..) fun _ _ _ => .ite (fun _ => .pure _) fun _ => ih ..

end Sys2Proof.Machine
end

