-- ==== Sys2Proof/Tests/Slice0.lean ====
section
/-!
SUPPORT. Tests of this model: an ill-formed term for each check of `Instr.wf`, a word written out from the spec's encoding for
each constructor that has one, values the spec works out, and for each obligation states and operands that meet its
hypotheses. Each test's comment says where its expected result stands in spec/.
-/
namespace Sys2Proof.Tests
open Sys2Proof Sys2Proof.Machine

-- One test after another: side by side their kernel evaluations take one stack each.
set_option Elab.async false

/-! ## Ill-formed terms (R142, R143, R148 to R157 and the entries' lists of illegal uses) -/

def ctl : Ctl := ⟨none, none⟩
def mem0 : MemOp := ⟨0, .v 1, 0⟩
def scr0 : ScrOp := ⟨.v 1, 0⟩
def at0 : AtomMem := ⟨0, .v 1, 0⟩
def plain (s : Src) : MSrc := ⟨s, false, false⟩

theorem test_wf_refuses_arm : ∀ i ∈
    [Instr.sld 1 2 .q .dev .rlx 0, .sld 1 2 .d .dev .rel 0, .sst 1 2 .q .dev .rlx 0, .sst 1 2 .d .dev .acq 0, .lcond 0,
      .setw 3 1 true, .kand 0 1 2, .kor 0 1 2, .kxor 0 1 2, .kandn 0 1 2, .knot 0 1, .kmov 0 1, .waitp 0 1, .waitp 7 1,
      .barr 1 16, .bara 1 16, .barw 1 2 16], i.wf = false := by decide

theorem test_wf_refuses_lane : ∀ i ∈
    [Instr.vcmp ctl 0 .i32 .ord (plain (.v 1)) (plain (.v 2)), .vcmp ctl 0 .n32 .lt ⟨.v 1, true, false⟩ (plain (.v 2)),
      .vcvt ctl 1 (.v 2) .i32 .n8 false .rz, .vpack ctl 1 (.v 2) (.v 3) .bf16 true false .rne, .vunpk ctl 1 (.v 2) .bf16 2,
      .vsclq ctl 223 0 .e4m3, .vsclq ctl 0 221 .e4m3, .vscan ctl 1 (.v 2) .xor .f32 .rne, .vred ctl 1 (.v 2) .add .i32 .sr,
      .vreds ctl (.v 2) .min .f32 .rz, .vtopk ctl 193 (.v 1) (.v 2) 15, .vld ctl 223 mem0 .d false .dev .rlx,
      .vld ctl 0 mem0 .w true .dev .rlx, .vld ctl 0 mem0 .w false .dev .rel, .vst ctl mem0 (.w 0) .d .dev .rlx,
      .vst ctl mem0 (.v 222) .q .dev .rlx, .vst ctl mem0 (.v 0) .w .dev .acq, .vldro ctl 221 mem0 .q false,
      .vldro ctl 0 mem0 .d true, .vpf ctl mem0 .sys, .vsld ctl 223 scr0 .d false .grp .rlx, .vsld ctl 0 scr0 .q true .grp .rlx,
      .vsld ctl 0 scr0 .w false .grp .ar, .vsst ctl scr0 .lane .q .grp .rlx, .vsst ctl scr0 (.v 0) .w .grp .acq,
      .vredm ctl at0 (.v 2) .xchg .dev .rlx, .vredm ctl at0 (.v 2) .cas .dev .rlx, .mma ctl 0 193 (.v 0) 1 .e4m3 false,
      .mmab ctl 0 193 (.v 0) 1 false, .mdrn ctl 193 0 0 0, .mdst ctl mem0 0 0 false .dev .acq], i.wf = false := by decide

/-- The same terms with the offending part put right are well formed. -/
theorem test_wf_admits : ∀ i ∈
    [Instr.sld 1 2 .d .dev .acq 0, .sst 1 2 .d .dev .rel 0, .lcond 1, .setw 2 1 true, .kand 7 1 2, .waitp 6 1, .barr 1 15,
      .vcmp ctl 0 .f32 .ord ⟨.v 1, true, false⟩ (plain (.v 2)), .vcvt ctl 1 (.v 2) .f32 .n8 false .rz,
      .vunpk ctl 1 (.v 2) .e4m3 3, .vsclq ctl 222 220 .e4m3, .vred ctl 1 (.v 2) .add .f32 .sr, .vtopk ctl 192 (.v 1) (.v 2) 15,
      .vld ctl 220 mem0 .q false .dev .acq, .vst ctl mem0 (.w 0) .w .dev .rel, .mma ctl 0 192 (.v 0) 1 .e4m3 false,
      .mdst ctl mem0 0 0 false .dev .rel], i.wf = true := by decide

/-! ## Words written out from the encodings of the spec

Armature words: the fixed bits of each row of spec/opcode_table.json and its operand fields at the places that R141 gives.
Lane words: the opcodes of R157, the common fields of R147, the register codes of R148 and the extensions of the entries. -/

def reads (nbits : Nat) (l : List (Nat × Instr)) : Bool := l.all fun (w, i) => decodeTableWord nbits w == some i

/-- Fields at bits 25:20, 19:14 and 13:8. -/
def abc (a b c : Nat) : Nat := a * 2 ^ 20 + b * 2 ^ 14 + c * 2 ^ 8

theorem test_decode_register_alu : reads 32
    [(0x04000000 + abc 1 2 3, .sadd 1 2 3), (0x04000001 + abc 4 5 6, .ssub 4 5 6), (0x04000002 + abc 7 8 9, .smul 7 8 9),
      (0x04000003 + abc 10 11 12, .smulh 10 11 12), (0x04000004 + abc 13 14 15, .smulhn 13 14 15),
      (0x05455605, .sdiv 20 21 22), (0x04000006 + abc 16 17 18, .sdivn 16 17 18), (0x05455607, .srem 20 21 22),
      (0x04000008 + abc 19 20 21, .sremn 19 20 21), (0x04000009 + abc 63 62 61, .sand 63 62 61),
      (0x0400000A + abc 60 59 58, .sor 60 59 58), (0x0400000B + abc 0 0 1, .sxor 0 0 1), (0x0400000C + abc 1 2 3, .sshl 1 2 3),
      (0x0400000D + abc 4 5 6, .sshr 4 5 6), (0x0400000E + abc 7 8 9, .ssra 7 8 9), (0x0400000F + abc 1 2 3, .smin 1 2 3),
      (0x04000010 + abc 4 5 6, .smax 4 5 6), (0x04000011 + abc 7 8 9, .sminn 7 8 9), (0x04000012 + abc 1 2 3, .smaxn 1 2 3),
      (0x04000013 + abc 4 5 6, .sslt 4 5 6), (0x04000014 + abc 32 16 8, .ssltn 32 16 8)] = true := by decide +kernel

theorem test_decode_immediates_and_branches : reads 32
    [(0x08700001, .saddi 7 0 1), (0x0C000000 + abc 1 2 0 + 0x3FFF, .sandi 1 2 0x3FFF), (0x10000000 + abc 3 4 0 + 0x2000, .sori 3 4 0x2000),
      (0x14000000 + abc 5 6 0 + 0x1234, .sxori 5 6 0x1234), (0x18000000 + abc 1 2 0 + 63, .sshli 1 2 63),
      (0x1C000000 + abc 3 4 0 + 32, .sshri 3 4 32), (0x20000000 + abc 5 6 0 + 1, .ssrai 5 6 1),
      (0x24000000 + abc 7 8 0 + 0x3FFE, .sslti 7 8 0x3FFE), (0x28000000 + abc 9 0 0 + 0xFFFFF, .slui 9 0xFFFFF),
      (0x2C000000 + abc 10 0 0 + 0x80001, .saui 10 0x80001), (0x40000000 + abc 1 2 0 + 3, .sbeq 1 2 3),
      (0x44000000 + abc 3 4 0 + 0x3FFF, .sbne 3 4 0x3FFF), (0x48000000 + abc 5 6 0 + 0x2000, .sblt 5 6 0x2000),
      (0x4C000000 + abc 7 8 0 + 1, .sbge 7 8 1), (0x50000000 + abc 9 10 0 + 2, .sbltn 9 10 2),
      (0x54000000 + abc 11 12 0 + 4, .sbgen 11 12 4), (0x58000000 + abc 1 0 0 + 0x80000, .sjal 1 0x80000),
      (0x5C004000, .sjr 0 1)] = true := by decide +kernel

/-- Format F: bits 13:11 size, 10:9 scope, 8:7 order, 6:0 imm7 (R141). -/
theorem test_decode_arm_memory : reads 32
    [(0x60000000 + abc 1 2 0 + 3 * 2 ^ 11 + 2 * 2 ^ 9 + 1 * 2 ^ 7 + 0x7F, .sld 1 2 .d .dev .acq 0x7F),
      (0x64000000 + abc 3 4 0 + 0 * 2 ^ 11 + 3 * 2 ^ 9 + 2 * 2 ^ 7 + 0x40, .sst 3 4 .b .sys .rel 0x40),
      (0x68000000 + abc 5 6 7 + 9 * 2 ^ 4 + 1 * 2 ^ 2 + 3, .samo 5 6 7 .cas .core .ar), (0x6C000000, .roinv),
      (0x70000000 + 3 * 2 ^ 2 + 2, .fence .sys .rel), (0x70000000 + 2 * 2 ^ 2, .fence .dev .full)] = true := by decide +kernel

theorem test_decode_tokens_masks_waits : reads 32
    [(0x80000000 + 3 * 2 ^ 23 + 1 * 2 ^ 21 + 9 * 2 ^ 15 + 0x7FFF, .lrun 3 .a0 9 0x7FFF),
      (0x84000000 + 5 * 2 ^ 23 + 2 * 2 ^ 21, .lfork 5 .a1), (0x88000000, .ljoin), (0x8C000000 + abc 7 0 0, .lcond 7),
      (0x90000000 + abc 9 0 0 + 1, .lgetv 9 true), (0x94000000 + abc 14 3 0 + 1, .setw 14 3 true),
      (0x94000000 + abc 15 4 0, .setw 15 4 false), (0x98000000 + abc 1 2 3, .kand 1 2 3), (0x98000001 + abc 4 5 6, .kor 4 5 6),
      (0x98000002 + abc 7 0 1, .kxor 7 0 1), (0x98000003 + abc 2 3 4, .kandn 2 3 4), (0x98000004 + abc 5 6 0, .knot 5 6),
      (0x9C000000 + abc 7 63 0, .kmov 7 63), (0xA0000000 + abc 63 7 0, .kget 63 7), (0xA4000000 + abc 1 2 0, .kpop 1 2),
      (0xA8000000 + abc 1 2 3 + 4 * 2 ^ 2, .waitc 1 2 3 4), (0xAC000000 + abc 0 9 0 + 6, .waitp 6 9),
      (0xB0000000 + abc 1 0 0 + 15, .barr 1 15), (0xB4000000 + abc 2 0 0 + 3, .bara 2 3), (0xB8000000 + abc 3 4 0 + 7, .barw 3 4 7),
      (0xBC000000 + abc 1 2 3, .launch 1 2 3)] = true := by decide +kernel

/-- The recasts hold n at 25:20, sx at 19:14 and sy at 13:8 (R29). -/
theorem test_decode_recasts : reads 32
    [(0xC0000000 + abc 3 1 2, .rxch 1 2 3), (0xC4000000 + abc 3 1 2, .rcat 1 2 3), (0xC8000000 + abc 3 1 2, .rspl 1 2 3),
      (0xCC000000 + abc 3 1 2, .rprm 1 2 3), (0xD0000000 + abc 3 1 2, .rals 1 2 3), (0xD0000001 + abc 3 1 2, .ralsRw 1 2 3),
      (0xD4000000 + abc 3 1 0, .runm 1 3), (0xD8000000 + abc 3 1 0, .rpin 1 3), (0xD8000001 + abc 3 1 0, .rupn 1 3),
      (0xDC000000 + abc 3 1 0, .rqry 3 1), (0xF8000004 + abc 3 1 2, .rmap 3 1 2)] = true := by decide +kernel

theorem test_decode_units_and_system : reads 32
    [(0xE0000000 + abc 1 2 0, .cpy 1 2), (0xE0000001 + abc 1 2 0, .cpys 1 2), (0xE0000002 + abc 1 2 0, .cpyw 1 2),
      (0xE0000003 + abc 1 2 0, .gath 1 2), (0xE0000004 + abc 1 2 0, .scat 1 2), (0xE0000005 + abc 1 2 0, .cpyob 1 2),
      (0xE0000006 + abc 1 2 0, .fred 1 2), (0xE4000000 + abc 1 2 0, .cpyq 1 2), (0xE8000000 + abc 1 2 0 + 63 * 2 ^ 2 + 3, .obres 1 2 63 .acc),
      (0xEC000000 + 5 * 2 ^ 2, .obrel 5), (0xF1400010, .crd 20 .pts), (0xF4050011, .cwr .lease 20), (0xF8000000 + abc 0 9 0, .trap 9),
      (0xF8000001, .eret), (0xF8000002, .yield), (0xF8000003, .exit), (0xF8000005 + abc 15 2 3, .tmset 15 .nancnt 2),
      (0xF8000006 + abc 2 15 1, .tmget 2 15 .lo), (0xF8000007, .halt)] = true := by decide +kernel

/-- Words that the maps do not assign, and unused fields that are not zero (R143 to R145). -/
theorem test_decode_refuses_arm : ∀ w ∈
    [0x00000000, 0x30000000, 0x3C000000, 0x74000000, 0xFC000000, 0x04000015, 0x98000005, 0xE0000007, 0xF8000008, 0x5C004001,
      0x6C000001, 0x70000003, 0x60002800, 0x80600000, 0x8C800000, 0x95000000, 0xA8000001, 0xB0004000, 0xD4000100, 0xEC000001],
    decodeTableWord 32 w = none := by decide +kernel

/-- A lane word: opcode, VD, VA, VB, VC and extension (R147). -/
def lane (opc vd va vb vc ext : Nat) : Nat := opc * 2 ^ 86 + vd * 2 ^ 78 + va * 2 ^ 70 + vb * 2 ^ 62 + vc * 2 ^ 54 + ext
/-- A word given as the spec writes it out: bits 31:0, 63:32, 95:64 (R146). -/
def words (a b c : Nat) : Nat := a + b * 2 ^ 32 + c * 2 ^ 64

theorem test_decode_lane_float : reads 96
    [(lane 0x001 1 2 3 0 4 + 2 ^ 53 + 2 ^ 50, .vadd ctl 1 ⟨.v 2, true, false⟩ ⟨.v 3, false, true⟩ ⟨false, 0, .sr⟩),
      (lane 0x002 1 2 3 0 1 + 2 ^ 52 + 2 ^ 51, .vsub ctl 1 ⟨.v 2, false, true⟩ ⟨.v 3, true, false⟩ ⟨false, 0, .rz⟩),
      (lane 0x003 1 2 3 0 2 + 2 ^ 47 + 7 * 2 ^ 43, .vmul ctl 1 (plain (.v 2)) (plain (.v 3)) ⟨true, 7, .rd⟩),
      (lane 0x004 1 2 3 4 3 + 2 ^ 49 + 2 ^ 48 + 8 * 2 ^ 43,
        .vfma ctl 1 (plain (.v 2)) (plain (.v 3)) ⟨.v 4, true, true⟩ ⟨false, 8, .ru⟩),
      (lane 0x005 1 2 3 0 0 + 2 ^ 47, .vmin ctl 1 (plain (.v 2)) (plain (.v 3)) true),
      (lane 0x006 1 2 0xEF 0 0, .vmax ctl 1 (plain (.v 2)) (plain (.w 15)) false),
      (lane 0x007 1 2 0 0 0, .vrcp ctl 1 (plain (.v 2)) ⟨false, 0, .rne⟩), (lane 0x008 1 2 0 0 0, .vrsq ctl 1 (plain (.v 2)) ⟨false, 0, .rne⟩),
      (lane 0x009 1 2 0 0 0, .vexp2 ctl 1 (plain (.v 2)) ⟨false, 0, .rne⟩), (lane 0x00A 1 2 0 0 0, .vlog2 ctl 1 (plain (.v 2)) ⟨false, 0, .rne⟩),
      (lane 0x00B 1 2 0 0 0, .vflr ctl 1 (plain (.v 2)) ⟨false, 0, .rne⟩),
      (words 0x00000020 0xC0000000 0x04004080, .vcmp ctl 1 .f32 .lt (plain (.v 2)) (plain (.v 3))),
      (lane 0x010 7 2 3 0 (6 * 2 ^ 12 + 5 * 2 ^ 4), .vcmp ctl 7 .i32 .ge (plain (.v 2)) (plain (.v 3))),
      (lane 0x011 1 2 3 0 (5 * 2 ^ 16), .vsel ctl 1 (.v 2) (.v 3) 5)] = true := by decide +kernel

theorem test_decode_lane_integer : reads 96
    [(lane 0x080 1 2 3 0 0, .viadd ctl 1 (.v 2) (.v 3)), (lane 0x081 1 2 3 0 0, .visub ctl 1 (.v 2) (.v 3)),
      (lane 0x082 1 2 3 0 0, .vimul ctl 1 (.v 2) (.v 3)), (lane 0x083 1 2 3 0 0, .vimulh ctl 1 (.v 2) (.v 3)),
      (lane 0x084 1 2 3 0 0, .vimulhn ctl 1 (.v 2) (.v 3)), (lane 0x085 1 2 3 4 0, .vimad ctl 1 (.v 2) (.v 3) (.v 4)),
      (lane 0x086 1 2 3 0 0, .vand ctl 1 (.v 2) (.v 3)), (lane 0x087 1 2 3 0 0, .vor ctl 1 (.v 2) (.v 3)),
      (lane 0x088 1 2 3 0 0, .vxor ctl 1 (.v 2) (.v 3)), (lane 0x089 1 2 3 0 0, .vshl ctl 1 (.v 2) (.v 3)),
      (lane 0x08A 1 2 3 0 0, .vshr ctl 1 (.v 2) (.v 3)), (lane 0x08B 1 2 3 0 0, .vsra ctl 1 (.v 2) (.v 3)),
      (lane 0x08C 1 2 3 0 0, .vimin ctl 1 (.v 2) (.v 3)), (lane 0x08D 1 2 3 0 0, .vimax ctl 1 (.v 2) (.v 3)),
      (lane 0x08E 1 2 3 0 0, .viminn ctl 1 (.v 2) (.v 3)), (lane 0x08F 223 0xF1 0xF2 0 0, .vimaxn ctl 223 .group .team),
      (lane 0x090 1 0xF3 0 0 0, .vpopc ctl 1 .role), (lane 0x091 1 2 0 0 0, .vclz ctl 1 (.v 2)),
      (lane 0x092 1 2 3 4 (2 ^ 16), .vbfe ctl 1 (.v 2) (.v 3) (.v 4) true)] = true := by decide +kernel

theorem test_decode_lane_moves : reads 96
    [(words 0 0 0x30013C00, .vmov ctl 4 .lane), (words 0x3F800000 0 0x3040C000, .vmovi ctl 3 0x3F800000),
      (lane 0x100 1 2 0 0 (0 * 2 ^ 12 + 2 * 2 ^ 8 + 2 ^ 3 + 4), .vcvt ctl 1 (.v 2) .f32 .e4m3 true .sr),
      (lane 0x101 1 2 3 0 (2 ^ 16 + 3 * 2 ^ 8), .vpack ctl 1 (.v 2) (.v 3) .e5m2 true false .rne),
      (lane 0x102 1 2 0 0 (3 * 2 ^ 16 + 2 * 2 ^ 12), .vunpk ctl 1 (.v 2) .e4m3 3), (lane 0x103 8 4 0 0 (3 * 2 ^ 8), .vsclq ctl 8 4 .e5m2),
      (lane 0x140 1 2 3 0 0, .vshfl ctl 1 (.v 2) (.v 3)), (words 0x00010000 0x80000000 0x5040C0B9, .vshup ctl 3 (.v 2) (.w 6) 1),
      (lane 0x142 1 2 3 0 (31 * 2 ^ 16), .vshdn ctl 1 (.v 2) (.v 3) 31), (lane 0x143 1 2 0 0 (16 * 2 ^ 16), .vshxr ctl 1 (.v 2) 16),
      (lane 0x144 1 2 0 0 (2 * 2 ^ 16 + 10 * 2 ^ 12), .vscan ctl 1 (.v 2) .max .n32 .rne),
      (lane 0x145 1 2 0 0 3, .vred ctl 1 (.v 2) .add .f32 .ru), (words 0x00006000 0 0x51800080, .vreds ctl (.v 2) .add .i32 .rne),
      (words 0x00010000 0 0x51C00000, .vbal ctl 1), (lane 0x148 4 2 3 0 (7 * 2 ^ 16), .vtopk ctl 4 (.v 2) (.v 3) 7),
      (words 0x80000000 0xBA400000 0x78018138, .vlaunch ctl 6 ⟨1, .v 4, 0⟩ 9), (lane 0x1E1 0 0 0 0 0, .lend),
      (lane 0x1E2 0 0 0 0 0 + 6 * 2 ^ 34 + 1 * 2 ^ 32, .vnop (some (.lkc, 1)))] = true := by decide +kernel

/-- The extension of format VM: scope, order, size, sign extension, offset (R155). -/
def vm (sc od sz sx off : Nat) : Nat := sc * 2 ^ 30 + od * 2 ^ 28 + sz * 2 ^ 25 + sx * 2 ^ 24 + off

theorem test_decode_lane_memory : reads 96
    [(words 0x81000000 0x80000000 0x60003C38, .vld ctl 0 ⟨1, .lane, 0⟩ .b true .dev .rlx),
      (lane 0x181 0 2 0xEE 5 (vm 3 2 4 0 0x800000), .vst ctl ⟨7, .v 2, 0x800000⟩ (.v 5) .q .sys .rel),
      (lane 0x182 1 2 0xE0 0 (vm 0 0 3 0 8), .vldro ctl 1 ⟨0, .v 2, 8⟩ .d false),
      (lane 0x183 0 2 0xE0 0 (vm 1 0 0 0 4), .vpf ctl ⟨0, .v 2, 4⟩ .core),
      (lane 0x184 1 2 0 0 (vm 1 1 1 1 2), .vsld ctl 1 ⟨.v 2, 2⟩ .h true .core .acq),
      (lane 0x185 0 2 0 3 (vm 0 0 2 0 4), .vsst ctl ⟨.v 2, 4⟩ (.v 3) .w .grp .rlx),
      (lane 0x186 1 2 0xE2 3 (2 * 2 ^ 30 + 3 * 2 ^ 28 + 2 * 2 ^ 25 + 9 * 2 ^ 21 + 0x1FFFFC),
        .vatom ctl 1 ⟨1, .v 2, 0x1FFFFC⟩ (.v 3) .cas .dev .ar),
      (lane 0x187 0 2 0xE2 3 (2 * 2 ^ 30 + 2 * 2 ^ 25 + 10 * 2 ^ 21 + 4), .vredm ctl ⟨1, .v 2, 4⟩ (.v 3) .fadd .dev .rlx),
      (lane 0x188 1 2 0xE2 0 16, .lkl ctl 1 ⟨1, .v 2, 16⟩ none), (lane 0x188 1 2 0xE2 0xE5 (2 ^ 24), .lkl ctl 1 ⟨1, .v 2, 0⟩ (some 5)),
      (lane 0x189 0 2 0xE2 0 16, .ulk ctl ⟨1, .v 2, 16⟩)] = true := by decide +kernel

theorem test_decode_lane_matrix : reads 96
    [(lane 0x1C0 0x3F 32 8 5 (3 * 2 ^ 12) + 2 ^ 37, .mma ctl 63 32 (.v 8) 5 .e5m2 true),
      (lane 0x1C1 1 32 8 2 0, .mmab ctl 1 32 (.v 8) 2 false), (lane 0x1C2 1 0 0 0 0 + 2 ^ 42 + 3 * 2 ^ 38, .mzero ⟨some ⟨false, 3⟩, none⟩ 1),
      (lane 0x1C3 2 64 0 0 (3 * 2 ^ 4 + 15), .mdrn ctl 64 2 3 15),
      (lane 0x1C4 2 3 0xE4 7 (vm 2 2 1 0 0), .mdst ctl ⟨2, .v 3, 0⟩ 2 7 true .dev .rel),
      (lane 0x1C5 4 0 0 0 (2 ^ 8 + 6), .mpois ctl 6 4 true)] = true := by decide +kernel

/-- Reserved codes and unused fields that are not zero (R148 to R157). -/
theorem test_decode_refuses_lane : ∀ w ∈
    [0, lane 0x00C 1 2 3 0 0, lane 0x1E3 0 0 0 0 0, lane 0x080 0xE0 2 3 0 0, lane 0x080 1 0xF4 3 0 0, lane 0x080 1 2 3 4 0,
      lane 0x080 1 2 3 0 1, lane 0x080 1 2 3 0 0 + 2 ^ 53, lane 0x080 1 2 3 0 0 + 2 ^ 37, lane 0x080 1 2 3 0 0 + 2 ^ 41,
      lane 0x080 1 2 3 0 0 + 2 ^ 32, lane 0x080 1 2 3 0 0 + 7 * 2 ^ 34, lane 0x001 1 2 3 0 5, lane 0x100 1 2 0 0 (7 * 2 ^ 12),
      lane 0x010 8 2 3 0 0, lane 0x144 1 2 0 0 (6 * 2 ^ 16), lane 0x180 1 2 0xE1 0 (vm 2 0 2 0 0),
      lane 0x180 1 2 0xE0 0 (vm 2 0 5 0 0), lane 0x184 1 2 0xE0 0 (vm 0 0 2 0 0), lane 0x1C0 0x40 32 8 5 (2 * 2 ^ 12),
      lane 0x1E1 0 0 0 0 0 + 2 ^ 42], decodeTableWord 96 w = none := by decide +kernel

/-- What the encoder gives for the spec's worked words (R145, entries of 10 and 12). -/
theorem test_encode : encode (.saddi 7 0 1) = some (32, 0x08700001) ∧ encode (.sjr 0 1) = some (32, 0x5C004000) ∧
    encode (.vshup ctl 3 (.v 2) (.w 6) 1) = some (96, words 0x00010000 0x80000000 0x5040C0B9) ∧
    encode (.tick 0) = none := by decide +kernel

/-! ## Values the spec works out, one step each -/

/-- The group after one step that fetches and runs an Armature word, with its work set up by `pre`. -/
def armAfter (w : Nat) (pre : Work → Work) : Option Work :=
  match step ((State.reset.withFetchWord 32 w).updWork 0 0 pre) with
  | .next t => (t.group? 0).map (·.work)
  | _ => none

/-- The same for a lane word. -/
def laneAfter (w : Nat) (pre : Work → Work) : Option Work :=
  match step ((State.reset.withFetchWord 96 w).updWork 0 0 pre) with
  | .next t => (t.group? 0).map (·.work)
  | _ => none

def sIs (d : SReg) (v : DWord) (w : Option Work) : Bool := w.any fun w => w.sreg d == v
/-- Lane 5 of a vector register. -/
def vIs (r : Nat) (v : Word) (w : Option Work) : Bool := w.any fun w => (w.vreg r).get 5 == v
def setS (l : List (SReg × DWord)) (w : Work) : Work := l.foldl (fun w p => w.setS p.1 p.2) w
def setV (l : List (Nat × Word)) (w : Work) : Work := l.foldl (fun w p => w.setV p.1 ⟨Vector.replicate 32 p.2, 0⟩) w
def setK (k : KReg) (v : Word) (w : Work) : Work := w.setK k v

/-- The entries of spec/10: SDIV and SREM of −7 by 2, and R168's corners. -/
theorem test_divide :
    sIs 20 0xFFFFFFFFFFFFFFFD (armAfter 0x05455605 (setS [(21, -7), (22, 2)])) = true ∧
    sIs 20 0xFFFFFFFFFFFFFFFF (armAfter 0x05455607 (setS [(21, -7), (22, 2)])) = true ∧
    sIs 20 0xFFFFFFFFFFFFFFFF (armAfter 0x05455605 (setS [(21, 9), (22, 0)])) = true ∧
    sIs 20 9 (armAfter 0x05455607 (setS [(21, 9), (22, 0)])) = true ∧
    sIs 20 0x8000000000000000 (armAfter 0x05455605 (setS [(21, 0x8000000000000000), (22, -1)])) = true ∧
    sIs 20 0 (armAfter 0x05455607 (setS [(21, 0x8000000000000000), (22, -1)])) = true := by decide +kernel

/-- The entries of spec/10: SADDI, SSHLI, SLUI, SBLTN taken and not, SJR, SJAL, SETW in pairs, KANDN, KPOP. -/
theorem test_armature_entries :
    sIs 7 1 (armAfter 0x08700001 id) = true ∧ sIs 10 0x100000000000 (armAfter 0x18A2802C (setS [(10, 1)])) = true ∧
    sIs 13 0x10000000 (armAfter 0x28D10000 id) = true ∧
    (armAfter 0x51457FFD (setS [(20, 1), (21, 2)])).map (·.pc) = some (fetchVa - 12) ∧
    (armAfter 0x51457FFD (setS [(20, -1), (21, 2)])).map (·.pc) = some (fetchVa + 4) ∧
    (armAfter 0x5C004000 fun w => { setS [(1, 0x1000000040)] w with frames := [0] }).map (·.pc) = some 0x1000000040 ∧
    sIs 1 (fetchVa + 4) (armAfter 0x58100040 id) = true ∧
    (armAfter 0x58100040 id).map (fun w => (w.pc, w.frames)) = some (fetchVa + 0x100, [0]) ∧
    (armAfter 0x94228001 (setS [(10, 0x100000000000)])).map (fun w => (w.wreg 2, w.wreg 3)) = some (0, 0x1000) ∧
    (armAfter 0x98200103 (setK 1 0xFFFF)).map (·.kreg 2) = some 0xFFFF0000 ∧
    sIs 21 8 (armAfter 0xA5504000 (setK 1 0xFF)) = true := by decide +kernel

/-- The entries of spec/10: LRUN with two trips, LFORK's arm masks, LGETV sign-extended, CRD PTS. -/
theorem test_token_entries :
    ((armAfter 0x800B0001 (setS [(22, 2)])).map fun w => w.sprue.map fun
      | .token t => (t.block.toNat, t.mask.toNat, t.trips.toNat)
      | _ => (0, 0, 0)) = some [(1, 0xFFFFFFFF, 2)] ∧
    ((armAfter 0x85000000 (setK 2 0xFF)).map fun w => w.aForks.map fun f => (f.mask0, f.mask1)) =
      some [(0x000000FF, 0xFFFFFF00)] ∧
    sIs 20 0xFFFFFFFFFFFFFFFE (armAfter 0x91400001 fun w => { w with retq := [⟨0, 0, 0xFFFFFFFE⟩] }) = true ∧
    (match step ((State.reset.withFetchWord 32 0xF1400010).updCore 0 fun c => { c with pts := 0x105 }) with
      | .next t => (t.group? 0).map (·.work.sreg 20)
      | _ => none) = some 0x105 := by decide +kernel

/-- The entry of spec/10: with EXP 64, ARR 32 and 32 live lanes, BARR flips word 3 and its status is 0; with ARR 0 it waits. -/
theorem test_barr :
    let s (arr : Nat) := { State.reset.withFetchWord 32 0xB1400003 with
      grids := [(0, { fetchGrid with packet := { fetchPacket with scratch := 1024 } })]
      teams := [(0, (fetchTeam 0 0).putBar { fetchPacket with scratch := 1024 } 3 ⟨false, arr, 64⟩)] }
    let word (t : State) : Option BarWord := (Tab.find? t.teams 0).map fun T => T.bar { fetchPacket with scratch := 1024 } 3
    (match step (s 32) with
      | .next t => decide (word t = some ⟨true, 0, 64⟩ ∧ (t.group? 0).map (·.work.sreg 20) = some 0)
      | _ => false) = true ∧
    (match step (s 0) with
      | .next t => decide (word t = some ⟨false, 32, 64⟩ ∧ (t.group? 0).map (·.work.bar) = some (some ⟨3, false, 20, 0xB1400003⟩))
      | _ => false) = true := by decide +kernel

/-- R188: TRAP s20 stops the group for one ILLEGAL record (class 5, R295), sub-code 2, with the operand; here behind a lane load. -/
theorem test_trap :
    let l : LoadEntry :=
      ⟨⟨0, 0, 0, .lane, 0, .dev, .rlx, .dev, 0, fetchVa, 0, false, none, false⟩, .load, [], .vreg 9 false⟩
    (match step ((State.reset.withFetchWord 32 0xF8050000).updGroup 0 fun g =>
        { g with loads := [l], work := setS [(20, 0x2A)] g.work }) with
      | .next t => (t.group? 0).any fun g => g.hold == .vectoring && g.work.pc == fetchVa + 4 &&
          g.faults.map (fun r => (r.cls.toNat, r.sub.toNat, r.aux.toNat)) == [(5, 2, 0x2A)]
      | _ => false) = true := by decide +kernel

/-- The entries of spec/12: VCMP's and VMOV's words, VMOVI 1.0, VSHUP by one with w6 as the fill. -/
theorem test_lane_moves :
    (laneAfter (words 0 0 0x30013C00) id).map (fun w => ((w.vreg 4).get 0, (w.vreg 4).get 31)) = some (0, 31) ∧
    vIs 3 0x3F800000 (laneAfter (words 0x3F800000 0 0x3040C000) id) = true ∧
    (laneAfter (words 0x00000020 0xC0000000 0x04004080) (setV [(2, 0xBF800000), (3, 0x3F800000)])).map (·.qreg 1) =
      some ⟨0xFFFFFFFF, 0⟩ ∧
    (laneAfter (words 0x00010000 0x80000000 0x5040C0B9) fun w =>
        w.setV 2 ⟨Vector.ofFn fun i : Fin 32 => BitVec.ofNat 32 (i.val + 100), 0⟩).map
      (fun w => ((w.vreg 3).get 0, (w.vreg 3).get 1, (w.vreg 3).get 31)) = some (0, 100, 130) := by decide +kernel

/-- The entries of spec/12 and R195: VMAX with NaNs, VRCP of 3.0 in two modes, VBFE signed and unsigned. -/
theorem test_lane_values :
    vIs 3 0xBF800000 (laneAfter (lane 0x006 3 1 2 0 0) (setV [(1, 0x7FC00001), (2, 0xBF800000)])) = true ∧
    vIs 3 0x7FC00000 (laneAfter (lane 0x006 3 1 2 0 0) (setV [(1, 0x7FC00001), (2, 0xFFC00000)])) = true ∧
    vIs 4 0x3EAAAAAB (laneAfter (lane 0x007 4 1 0 0 0) (setV [(1, 0x40400000)])) = true ∧
    vIs 4 0x3EAAAAAA (laneAfter (lane 0x007 4 1 0 0 1) (setV [(1, 0x40400000)])) = true ∧
    vIs 2 0xFFFFFFFF (laneAfter (lane 0x092 2 1 3 4 (2 ^ 16)) (setV [(1, 0xF00), (3, 8), (4, 4)])) = true ∧
    vIs 2 0x0000000F (laneAfter (lane 0x092 2 1 3 4 0) (setV [(1, 0xF00), (3, 8), (4, 4)])) = true := by decide +kernel

/-- The entry of spec/12: 480.0 to E4M3 with and without SAT, and the tie 464.0. R199's rounding of 1 + 2^−8 to BF16. -/
theorem test_convert :
    vIs 2 0x7F (laneAfter (lane 0x100 2 1 0 0 (2 * 2 ^ 8)) (setV [(1, 0x43F00000)])) = true ∧
    vIs 2 0x7E (laneAfter (lane 0x100 2 1 0 0 (2 * 2 ^ 8 + 8)) (setV [(1, 0x43F00000)])) = true ∧
    vIs 2 0x7E (laneAfter (lane 0x100 2 1 0 0 (2 * 2 ^ 8)) (setV [(1, 0x43E80000)])) = true ∧
    vIs 2 0x3F80 (laneAfter (lane 0x100 2 1 0 0 (1 * 2 ^ 8)) (setV [(1, 0x3F808000)])) = true ∧
    vIs 2 0x3F81 (laneAfter (lane 0x100 2 1 0 0 (1 * 2 ^ 8 + 3)) (setV [(1, 0x3F808000)])) = true := by decide +kernel

/-- R213, R218: a wrap, a high product and a fused rounding. 1.5 · 1.5 + 0.25 = 2.5; 2^31 − 1 + 1 wraps. -/
theorem test_lane_arithmetic :
    vIs 1 0x80000000 (laneAfter (lane 0x080 1 2 3 0 0) (setV [(2, 0x7FFFFFFF), (3, 1)])) = true ∧
    vIs 1 0xFFFFFFFF (laneAfter (lane 0x083 1 2 3 0 0) (setV [(2, 0xFFFFFFFF), (3, 1)])) = true ∧
    vIs 1 0 (laneAfter (lane 0x084 1 2 3 0 0) (setV [(2, 0xFFFFFFFF), (3, 1)])) = true ∧
    vIs 1 0x40200000 (laneAfter (lane 0x004 1 2 2 3 0) (setV [(2, 0x3FC00000), (3, 0x3E800000)])) = true ∧
    vIs 1 32 (laneAfter (lane 0x091 1 2 0 0 0) (setV [(2, 0)])) = true := by decide +kernel

/-- R225 to R228: the sum of lane numbers is 496; the ballot of all lanes. -/
theorem test_reductions :
    vIs 1 496 (laneAfter (lane 0x145 1 0xF0 0 0 (6 * 2 ^ 12)) id) = true ∧
    vIs 1 15 (laneAfter (lane 0x144 1 0xF0 0 0 (6 * 2 ^ 12)) id) = true ∧
    (laneAfter (lane 0x146 0 0xF0 0 0 (6 * 2 ^ 12)) id).map (fun w => w.retq.map (·.value)) = some [496] ∧
    (laneAfter (words 0x00010000 0 0x51C00000) fun w => w.setQ 1 ⟨0xF0F, 0⟩).map (fun w => w.retq.map (·.value)) =
      some [0xF0F] := by decide +kernel

/-! ## States for the tests -/

/-- A leaf or a table entry of the tests' last level, for the page `n` of 64 KiB from the code's page on. -/
def entryPa (n : Nat) : Nat := fetchRoot + 0x4000 + 8 * n
def pageVa (n : Nat) : DWord := fetchVa + BitVec.ofNat 64 (n * 65536)

/-- A running machine with one group (number 0 on core 0) at the code's page, and more pages mapped (R18): 1 the group's save
area, 2 the fault ring, 3 device data, 4 read-only device data, 5 non-coherent, 6 a page of the system class, 7 one of another package; 8 to 31 are not
mapped. The handler is at the code's address. -/
def world (lane : Bool) : State :=
  let s := State.reset.withFetchWord (if lane then 96 else 32) 0
  let s := [(1, 0x31000B), (2, 0x32000B), (3, 0x33000B), (4, 0x340009), (5, 0x350003), (6, 0x360013), (7, 0x2060000000003)].foldl
    (fun (s : State) (p : Nat × Nat) => s.placeBytes (entryPa p.1) (leBytesOf 8 p.2)) s
  let s := s.updCtx 0 fun x => { x with fring := pageVa 2, fhnd := fetchVa }
  let s := s.updGroup 0 fun g => { g with record := pageVa 1 }
  { s with agenda := [], focus := ⟨0, false, 0⟩ }

def armWorld (f : Group → Group) : State := (world false).updGroup 0 f
def armWork (f : Work → Work) : State := armWorld fun g => { g with work := f g.work }
def laneWorld (f : Group → Group) : State := (world true).updGroup 0 f
def laneWork (f : Work → Work) : State := laneWorld fun g => { g with work := f g.work }

/-! ## What meets the hypotheses of the obligations

Each theorem is about one obligation and has one conjunct for each of its clauses. -/

/-- A run of the checks or steps that a hypothesis speaks of succeeds, and gives something that meets `p`. -/
def gives {α : Type} (r : EStateM.Result Stop State α) (p : α → State → Bool) : Bool := match r with
  | .ok a s => p a s
  | .error _ _ => false

/-- It stops with faults. -/
def faults {α : Type} (r : EStateM.Result Stop State α) : Bool := match r with
  | .error (.faults _) _ => true
  | _ => false

def yes {α : Type} (_ : α) (_ : State) : Bool := true

/-- The group of `world`. -/
def armGroup : Group := { fetchGroup 0 false 0 with record := pageVa 1 }

/-- The group in focus exists: all that ArmRegisterAlu, ArmImmediates, MasksAndUniforms, Yield, ControlRegisterReads,
ControlRegisterWrites and UnitRegisters ask of every state. -/
theorem meets_focus (f : Group → Group) : (armWorld f).group? (armWorld f).focus.group = some (f armGroup) := rfl

theorem meets_MasksAndUniforms : (7 : KReg) ≠ 0 ∧ (14 : WReg).toNat % 2 = 0 ∧ (15 : WReg).toNat % 2 = 1 := by decide

def load0 : LoadEntry :=
  { acc := { seq := 5, key := 0, iseq := 4, stream := .arm, level := 0, scope := .dev, order := .rlx, cls := .dev, pts := 0
             pc := fetchVa, word := 0, cur := false, counter := none, pair := false }
    kind := .load, elems := [⟨0, pageVa 3, 0x330000, 8, false⟩], dest := .sreg 9 false }
def store0 : StoreEntry :=
  ⟨{ load0.acc with seq := 7, iseq := 6 }, .store, [⟨0, pageVa 3, 0x330000, [1, 2, 3, 4], 0, 0, false⟩]⟩

def forks (n depth : Nat) : List Fork := List.replicate n ⟨1, 2, depth⟩
def token0 : Token := fetchCursor.token

/-- ArmBranchesAndCalls: room for a frame at 255 and none at 256; a return with a frame at the depth of its forks, above it, and
with none. -/
theorem meets_ArmBranchesAndCalls :
    (List.replicate 255 0).length < 256 ∧ 256 ≤ (List.replicate 256 0).length ∧ (forks 1 0).length ≤ 1 ∧ 0 < (forks 1 0).length ∧
    armGroup.work.frames = [] ∧ armGroup.work.sreg 1 = 0 ∧ (armGroup.work.setS 1 4).sreg 1 ≠ 0 := by decide +kernel

/-- TokensAndForks: a current mask with and without room at the Sprue's limit, none in an arm, the 32nd and 33rd fork, a join
at its frame's depth and above it. -/
theorem meets_TokensAndForks :
    armGroup.work.aForks = [] ∧ (List.replicate 15 SprueItem.joinMark).length < 16 ∧
    ¬ (List.replicate 16 SprueItem.joinMark).length < 16 ∧ (forks 31 0).length < 32 ∧ 32 ≤ (forks 32 0).length ∧
    ((forks 1 0).head?.map (·.mask1)) = some 2 ∧ ((([] : List Fork).head?).map (·.mask0)) = none ∧
    (∀ f ∈ (forks 1 0).head?, f.depth < [0].length) := by decide +kernel

/-- ReturnQueueReads: a ready entry, one behind an older lane load, and an empty queue. -/
theorem meets_ReturnQueueReads :
    let e : RetEntry := ⟨9, 0, 5⟩
    let before (a : Access) : Prop := a.level = 0 ∧ a.stream = .lane ∧ a.seq < e.seq
    (7 : KReg) ≠ 0 ∧ (∀ l ∈ [load0], ¬ before l.acc) ∧ before { load0.acc with stream := .lane } ∧ armGroup.work.retq = [] := by
  decide +kernel

/-- CounterWaits: retired work with counters at a threshold and above it; a selector that names a counter. -/
theorem meets_CounterWaits : armGroup.work.sprue = [] ∧ armGroup.work.cur0 = none ∧ armGroup.work.cur1 = none ∧
    armGroup.work.cnt.ldc ≤ (0 : BitVec 6).toNat ∧ ¬ { armGroup.work.cnt with ldc := 1 }.ldc ≤ (0 : BitVec 6).toNat ∧
    { armGroup.work.cnt with lkc := 63 }.lkc ≤ min (64 : DWord).toNat 63 := by decide +kernel

/-- Fences: nothing left to perform, and a dirty line of the core that goes home. -/
def dirtyWorld : State := (world false).updCore 0 fun k =>
  { k with l1 := [(0x330000 / 128, ⟨.owned 3 0xF false, ⟨Vector.replicate 128 7, 0⟩⟩)] }
theorem meets_Fences : Memory.wf dirtyWorld.mem = true ∧ armGroup.loads = [] ∧ armGroup.stores = [] ∧ armGroup.work.cnt.rcc = 0 ∧
    load0.acc.level = armGroup.level ∧
    gives (releaseCore 0 (Say.issuing dirtyWorld)) (fun _ t => (t.core 0).wb == [] && Memory.get t.mem 0x330003 == 7 &&
      Memory.get t.mem 0x330004 == 0) = true := by decide +kernel

def barPacket : LaunchPacket := { fetchPacket with scratch := 1024 }
def barTeam (b : BarWord) (reg arrived : List Nat) : Team :=
  ((fetchTeam 0 0).putBar barPacket 3 b).setFlags 3 ⟨reg, arrived, 0⟩

/-- BarrierWords: a listed word that is abandoned, reached, short, of the phase asked for and not; an unlisted index; a wait that
ends and one that goes on; and at EXIT each case of the deduction, at the value that makes ARR reach EXP and the one below. -/
theorem meets_BarrierWords :
    let bar (b : BarWord) := (barTeam b [] []).bar barPacket 3
    barPacket.bar + 128 ≤ barPacket.scratch ∧ (3 : BitVec 14).toNat < 16 ∧ ¬ (16 : BitVec 14).toNat < 16 ∧
    (bar ⟨false, 0, 0xFFFFFFFF⟩).exp = 0xFFFFFFFF ∧ popcount (armGroup.work.kreg 0) = 32 ∧
    (bar ⟨false, 32, 64⟩).exp ≤ (bar ⟨false, 32, 64⟩).arr + 32 ∧ (bar ⟨false, 31, 64⟩).arr + 32 < (bar ⟨false, 31, 64⟩).exp ∧
    (bar ⟨true, 0, 64⟩).ph ≠ (armGroup.work.sreg 0).getLsbD 0 ∧ (bar ⟨false, 0, 64⟩).ph = (armGroup.work.sreg 0).getLsbD 0 ∧
    0 ∈ ((barTeam ⟨false, 32, 64⟩ [0] []).flags 3).reg ∧ 0 ∉ ((barTeam ⟨false, 32, 64⟩ [0] []).flags 3).arrived ∧
    0 ∈ ((barTeam ⟨false, 32, 64⟩ [0] [0]).flags 3).arrived ∧
    (bar ⟨false, 32, 64⟩).exp - 32 ≤ (bar ⟨false, 32, 64⟩).arr ∧ (bar ⟨false, 31, 64⟩).arr < (bar ⟨false, 31, 64⟩).exp - 32 := by
  decide +kernel

/-- ExitAndHalt: a group with nothing open, one with an open fork, one with privilege, one with a load left. -/
theorem meets_ExitAndHalt :
    armGroup.work.priv = false ∧ armGroup.work.aForks = [] ∧ armGroup.work.sprue = [] ∧ armGroup.work.cur0 = none ∧
    armGroup.work.cnt = Counters.zero ∧ armGroup.loads = [] ∧ armGroup.stores = [] ∧ armGroup.locks = [] ∧ armGroup.requests = [] ∧
    Tab.find? (world false).teams armGroup.team = some (fetchTeam 0 0) ∧
    Tab.find? (world false).grids (fetchTeam 0 0).grid = some fetchGrid ∧ load0.acc.level = armGroup.level ∧ forks 1 0 ≠ [] := by
  decide +kernel

/-- With a join marker alone left in the Sprue EXIT retires the group; with a token it waits; HALT in a handler ends its group. -/
theorem meets_ExitAndHalt_marker :
    let ends (i : Instr) (s : State) : Bool := match exec i s with
      | .next t => (t.group? 0).isNone
      | _ => false
    let sprue (p : SprueItem) : State := armWork ({ · with sprue := [p] })
    ends .exit (sprue .joinMark) = true ∧ ends .exit (sprue (.token token0)) = false ∧
    ends .halt (armWork ({ · with priv := true })) = true ∧ ∀ k ∈ (armWorld id).cores, k.2.engine = [] := by decide +kernel

/-- TrapTakesException: a user group whose trap is taken into the handler at once; one with a load in flight. -/
theorem meets_TrapTakesException :
    armGroup.work.priv = false ∧ armGroup.handler = none ∧ armGroup.present = true ∧ armGroup.hold = .none ∧ armGroup.faults = [] ∧
    armGroup.entry = none ∧ load0.kind ≠ .lock ∧ { load0.acc with seq := 0 }.seq < (armWorld id).nextSeq ∧
    (match exec (.trap 20) (armWork (·.setS 20 0x2A)) with
      | .next t => (t.group? 0).any fun g => g.hold == .none && g.work.priv && g.work.pc == fetchVa
      | _ => false) = true := by decide +kernel

def rec0 : Rec := ⟨0, 0x2A, fetchVa, 0, 0, 0, false, 5, 2, false, 0, false⟩
def faulted : State := armWorld fun g =>
  { g with faults := [rec0], hold := .vectoring, entry := some ⟨none, 0, 5, 2, 0, false⟩ }
def vectored : State := armWorld fun g => { g with hold := .vectoring, entry := some ⟨some 0, 1, 5, 2, 0, false⟩ }

/-- FaultRecordWrite: a record with room in the ring (at the last place of a lap), one without, one behind a load. -/
theorem meets_FaultRecordWrite :
    let s := faulted.updCtx 0 fun x => { x with head := 0xFF81, tail := 0 }
    let x := s.ctx 0
    armGroup.ctx < 16 ∧ Memory.wf s.mem = true ∧ (x.tail - x.head).toNat < 2 ^ 7 ∧ ¬ ((0x80 : BitVec 16) - 0).toNat < 2 ^ 7 ∧
    load0.kind ≠ .lock ∧
    gives (releaseCore 0 s) (fun _ s1 => gives (accessAt 0 0 (pageVa 2) .store (some .dev) false false s1) fun r s2 =>
      match r with
        | .ok p => p.cls == .dev && p.pa % 128 % 32 == 0 && gives (partStore 0 0 (pageVa 2) (recBytes armGroup rec0 0 7) s2) (fun r _ =>
            r.isOk)
        | .error _ => false) = true := by decide +kernel

/-- A record older and one younger than a load, a deadlock record in a handler, a record behind CONT's condition, and a record
with its CONT, both written. -/
theorem meets_FaultRecordWrite_cont :
    let s := armWorld fun g => { g with hold := .vectoring, faults := [rec0, { rec0 with cls := 14 }] }
    rec0.seq ≤ load0.acc.seq ∧ ¬ { rec0 with seq := 7 }.seq ≤ load0.acc.seq ∧ { rec0 with nest := true }.cls ≠ 13 ∧
    gives (writeEntryRec 0 rec0 s) (fun _ s1 => gives (writeEntryRec 0 { rec0 with cls := 14 } s1) fun _ s2 =>
      (s2.ctx 0).tail == 2) = true := by decide +kernel

/-- HandlerEntry: an entry that is not fatal and whose block can be stored, and a fatal one with RECOV 0. -/
theorem meets_HandlerEntry :
    vectored.group? 0 = some { armGroup with hold := .vectoring, entry := some ⟨some 0, 1, 5, 2, 0, false⟩ } ∧
    (vectored.group? 0).any (vectored.quiet 0) = true ∧ (vectored.ctx 0).fhnd.getLsbD 0 = false ∧
    gives (partStore 0 0 (pageVa 1) (savedBlock armGroup) vectored) (fun r _ => r.isOk) = true := by decide +kernel

/-- Eret: a handler that has finished and can load its block, and one without privilege. -/
def inHandler (priv : Bool) : State := armWorld fun g =>
  { g with handler := some ⟨1, armGroup.work, ⟨some 0, 1, 5, 2, 0, false⟩, 0⟩, nextEntry := 2, work := { g.work with priv := priv } }
theorem meets_Eret :
    ((inHandler true).group? 0).any (fun (g : Group) => g.handler.isSome && g.work.priv && g.hold == .none && g.entry.isNone &&
      g.faults.isEmpty && g.loads.isEmpty && g.stores.isEmpty && g.work.recasts.isEmpty && g.work.sprue.isEmpty) = true ∧
    gives (partLoad 0 0 (pageVa 1) 0x270 (Say.issuing (inHandler true))) (fun r s1 => r.isOk &&
      decide (s1.groups = (Say.issuing (inHandler true)).groups)) = true ∧
    ((inHandler false).group? 0).any (fun (g : Group) => !g.work.priv) = true := by decide +kernel

/-- HandlerEntry and Eret where the group's record lies on a page that is not mapped: the store and the load of its block fail, and
the group can be killed. -/
theorem meets_Eret_unmapped :
    let away (s : State) := s.updGroup 0 fun g => { g with record := pageVa 8 }
    let kills (s : State) : Bool := gives ((logError 0 5 0 >>= fun _ => killGroup 0 none) s) yes
    gives (partStore 0 0 (pageVa 8) (savedBlock armGroup) (away vectored)) (fun r s => !r.isOk && kills s) = true ∧
    gives (partLoad 0 0 (pageVa 8) 0x270 (Say.issuing (away (inHandler true)))) (fun r s => !r.isOk && kills s) = true := by
  decide +kernel

/-- ControlRegisterWrites: grants on and off, privilege on and off, a core below 320. -/
theorem meets_ControlRegisterWrites : ((world false).ctx armGroup.ctx).grants = false ∧
    (((world false).updCtx 0 ({ · with grants := true })).ctx 0).grants = true ∧ armGroup.core < 320 ∧
    (world false).pkg.clock ≠ .stopped ∧ ({ world false with pkg := { (world false).pkg with clock := .stopped } } : State).pkg.clock = .stopped := by
  decide +kernel

/-- LEAD can take the writes of PTS that R99 leaves room for, and no more within 16,384 cycles. -/
theorem meets_LeadTakes :
    let s := world false
    let log (adv : Nat) : List (Nat × Nat) := (s.now, adv) :: s.leadLog.filter fun e => decide (s.now < e.1 + 16384)
    s.clocked = true ∧ max s.pace 1 = 64 ∧ log 1792 = [(s.now, 1792)] ∧ 1792 + (s.now + 16384 - s.now + 64 - 1) / 64 ≤ 2 ^ 11 ∧
    ¬ 1793 + (s.now + 16384 - s.now + 64 - 1) / 64 ≤ 2 ^ 11 ∧ (serialMax s.lead (s.lead - 1) - s.lead).toNat = 0 ∧
    s.leadFits s.pace 1792 = true ∧ s.leadFits s.pace 1793 = false ∧ { s with leadLog := [(s.now, 1792)] }.leadFits s.pace 1 = false ∧
    State.reset.clocked = false := by
  decide +kernel

/-- RegisterWrites: a PTS write forward and one back; a queue that holds entries and one that does not; sizes 3, 4, 12 and 13. -/
theorem meets_RegisterWrites :
    serialLe 0 0x7FFF = true ∧ serialLe 0 0x8000 = false ∧ ((world false).queue 3).entries = [] ∧ 4 ≤ 4 ∧ 12 ≤ 12 ∧ ¬ 4 ≤ 3 ∧ ¬ 13 ≤ 12 ∧
    (((world false).updQueue 3 fun x => x.append [[]] false).queue 3).entries ≠ [] := by decide +kernel

/-- A translation of `world` for the group. -/
def xlatOk (n : Nat) (r : Right) (sc : Option Scope) : Bool :=
  gives (accessAt 0 0 (pageVa n) r sc false false (Say.issuing (world false))) fun x t =>
    x.isOk && decide (t.groups = (Say.issuing (world false)).groups)
def xlatBad (n : Nat) (r : Right) (sc : Option Scope) : Bool :=
  gives (accessAt 0 0 (pageVa n) r sc false false (Say.issuing (world false))) fun x _ => !x.isOk

/-- ArmMemoryIssue: each right is given and refused; an acquire in flight; an aligned address and one that is not. -/
theorem meets_ArmMemoryIssue : xlatOk 4 .load (some .dev) = true ∧ xlatOk 3 .store (some .dev) = true ∧
    xlatBad 8 .load (some .dev) = true ∧ xlatBad 4 .store (some .dev) = true ∧ { load0.acc with order := .acq }.order = .acq ∧
    armGroup.loads = [] ∧ armGroup.stores = [] ∧ (pageVa 3).toNat % 8 = 0 ∧ (pageVa 3 + 4).toNat % 8 ≠ 0 := by decide +kernel

/-- RecastIssue: RCC at 62 and at 63. -/
theorem meets_RecastIssue : { armGroup.work.cnt with rcc := 62 }.rcc < 63 ∧ ¬ { armGroup.work.cnt with rcc := 63 }.rcc < 63 := by
  decide

def recast (i : Instr) (x y n : DWord) : Recast := ⟨1, i, x, y, n, fetchVa, 0, 0⟩
/-- The ranges of one or two pages pass the checks common to all recasts, and their entries are as `p` says. -/
def ranged (l : List Nat) (p : List DWord → Bool) : Bool :=
  gives (rangesM 0 0 1 (l.map pageVa) (world false)) fun r _ => p (r.flatten.map (·.e))

/-- RecastPlans: for each form the entries it asks for, and for each of its faults an entry that raises it. -/
theorem meets_RecastPlans :
    ranged [3, 5] (fun e => e == [0x33000B, 0x350003]) = true ∧ ranged [8, 3] (fun e => e == [0, 0x33000B]) = true ∧
    ranged [8, 9] (fun e => e == [0, 0]) = true ∧ ranged [3, 4] (fun e => e == [0x33000B, 0x340009]) = true ∧
    ranged [7] (fun e => e == [0x2060000000003]) = true ∧ ranged [8, 7] (fun e => e == [0, 0x2060000000003]) = true ∧
    region (bitsOf (0x2060000000003 : DWord) 51 16 * 65536) ≠ .local_ ∧
    region (bitsOf (0x33000B : DWord) 51 16 * 65536) = .local_ ∧ (world false).mapCount 0x33 < 255 ∧
    255 ≤ ({ world false with mapcnt := [(0x33, 255)] } : State).mapCount 0x33 ∧
    (0x33002B : DWord).getLsbD 5 = true ∧ (0x33000B : DWord).getLsbD 5 = false ∧ (pageVa 3).toNat % 65536 = 0 ∧
    (pageVa 3 + 8).toNat % 65536 ≠ 0 ∧ (pageVa 3).toNat + 65536 ≤ (pageVa 4).toNat ∧ (65537 : DWord).toNat > 65536 := by
  decide +kernel

def recasting (i : Instr) (x y n : DWord) : State :=
  armWork fun w => { w with recasts := [recast i x y n], cnt := { w.cnt with rcc := 1 } }

/-- RecastPerforms: a recast that is ready and writes, one that plans nothing, and one whose range faults. -/
theorem meets_RecastPerforms :
    let s := recasting (.rxch 1 2 3) (pageVa 3) (pageVa 5) 1
    let r := recast (.rxch 1 2 3) (pageVa 3) (pageVa 5) 1
    (s.group? 0).any (fun (g : Group) => g.present && g.work.recasts == [r] && decide (r.level = g.level)) = true ∧
    (s.group? 0).any (fun (g : Group) => gives (recastReady g r s) fun _ s1 => decide (s1.groups = s.groups)) = true ∧
    gives (planRecast 0 0 r s) (fun p s2 => p.any fun (p : Plan) => p.dup.isNone && p.freed.isEmpty && Memory.wf s2.mem &&
      decide ((p.writes.map (·.1)).Nodup) && p.writes.all (fun w => w.1 % 8 == 0) &&
      gives (commitLines 0 (sortNat (dedup (p.writes.map (fun w => lineOf w.1) ++ p.held))) p.writes (s2.event 0 0 7)) yes) = true ∧
    gives (planRecast 0 0 (recast (.rxch 1 2 3) (pageVa 3) (pageVa 5) 0) s) (fun p _ => p.isNone) = true ∧
    faults (planRecast 0 0 (recast (.rcat 1 2 3) (pageVa 3) (pageVa 8) 1) s) = true := by decide +kernel

/-- QueryAndMap: an address below and at 2^57; privilege; a pool with a frame and a zero entry to map. -/
theorem meets_QueryAndMap :
    let s := (armWork fun w => { w with priv := true }).updCtx 0 fun x => { x with pool := [⟨0x40, none⟩] }
    (pageVa 8).toNat < 2 ^ 57 ∧ 2 ^ 57 ≤ (0x200000000000000 : DWord).toNat ∧ armGroup.work.recasts = [] ∧
    gives (queryLevels 0 (pageVa 3) [4, 3, 2, 1, 0] ((Say.issuing s).ctx 0).root.toNat (Say.issuing s)) (fun e _ => e == 0x33000B) = true ∧
    gives (releaseCore 0 (Say.issuing s)) (fun _ s1 => gives (mapRange 0 0 (pageVa 8) 0x10000000A s1) fun n s2 =>
      n == 1 && decide (s2.groups = (Say.issuing s).groups)) = true ∧
    (∀ f ∈ (s.ctx 0).pool, f.fill = none) := by decide +kernel

/-- A command block in page 3, and the group with its address in s13. -/
def copying (src arg dst ext0 ext1 : Nat) (slots : Tab SlotRec) : State :=
  let s := (armWork (·.setS 13 (pageVa 3))).placeBytes 0x330000 ((leBytesOf 8 src) ++ leBytesOf 8 arg ++ leBytesOf 8 dst ++
    leBytesOf 8 ext0 ++ leBytesOf 8 ext1)
  { s with teams := [(0, { fetchTeam 0 0 with slots := slots })] }
def tile0 : SlotRec := ⟨.e4m3, [], 0x3F800000, false, 0⟩
def acc0 : SlotRec := ⟨.acc, [], 0x3F800000, false, 0⟩
/-- The state after `n` tries of an instruction. -/
def tries : Nat → Instr → State → Option State
  | 0, _, s => some s
  | n + 1, i, s => match exec i s with
    | .next t => tries n i t
    | _ => none
/-- The command issues at its `n`-th try: it stands in the engine with identifier 1, and s21 has the identifier. -/
def issued (n : Nat) (i : Instr) (s : State) : Bool := (tries n i s).any fun t =>
  (t.core 0).engine.map (·.id) == [1] && (t.group? 0).any fun g => g.work.sreg 21 == 1 && g.work.cnt.cpc == 1
def va (n : Nat) : Nat := (pageVa n).toNat

/-- CopyIssue: each kind of command, with a block that is legal and pages that translate, issues, one with an index list in a line
after a step for the block and one for the list; a full engine; a misaligned
block; an illegal one; an index out of range with FLT. -/
theorem meets_CopyIssue :
    issued 1 (.cpy 21 13) (copying (va 4) 100 (va 3 + 0x1000) 0 0 []) = true ∧
    issued 1 (.cpys 21 13) (copying (va 4) (1 * 2 ^ 48 + 1 * 2 ^ 32 + 32) (va 3 + 0x1000) 1 0 []) = true ∧
    issued 1 (.cpyw 21 13) (copying (va 4) (1 * 2 ^ 48 + 1 * 2 ^ 40 + 1 * 2 ^ 32 + 2 * 2 ^ 16 + 2) (va 3 + 0x1000) 16 4 []) = true ∧
    issued 3 (.gath 21 13) (copying (va 4) (2 * 2 ^ 32 + 16) (va 3 + 0x1000) (va 4) 64 []) = true ∧
    issued 3 (.scat 21 13) (copying (va 4) (2 * 2 ^ 32 + 16) (va 3 + 0x1000) (va 4) 64 []) = true ∧
    issued 1 (.cpyob 21 13) (copying (va 4) 128 5 0 0 [(5, tile0)]) = true ∧
    issued 1 (.fred 21 13) (copying (va 4) 8 (va 3 + 0x1000) (1 * 2 ^ 16 + 7) 0 []) = true := by decide +kernel

theorem meets_CopyIssue_stops :
    let s := copying (va 4) 100 (va 3 + 0x1000) 0 0 []
    (pageVa 3).toNat % 64 = 0 ∧ (pageVa 3 + 32).toNat % 64 ≠ 0 ∧ (s.core 0).engine.length < 16 ∧
    gives (groupLoad armGroup (pageVa 3) 64 64 (Say.issuing s)) (fun bs s1 => (Block.ofBytes bs).legal .cpy none &&
      !(Block.ofBytes bs).legal .cpyob none && decide (s1.groups = (Say.issuing s).groups)) = true ∧
    [0xFFFFFFFF, 4].countP (fun (x : Word) => x.getLsbD 31 || decide (bitsOf (4 : DWord) 31 0 ≤ x.toNat)) = 2 := by
  decide +kernel

/-- A GATH whose two indices stand in two lines: the first step leaves the instruction at issue with its block, the second with
the first index; after the third the list has been read whole. -/
theorem meets_CopyIssue_list :
    let s := copying (va 4) (2 * 2 ^ 32 + 16) (va 3 + 0x1000) (va 4 + 124) 64 []
    let got (n : Nat) : Option Nat := (tries n (.gath 21 13) s).bind fun t => (t.group? 0).bind fun g => g.work.list.map (·.got.length)
    got 1 = some 0 ∧ got 2 = some 4 ∧ got 3 = some 8 ∧ issued 4 (.gath 21 13) s = true ∧
    gives (groupLoad armGroup (pageVa 3) 64 64 s) (fun bs _ => decide (1 < ((Block.ofBytes bs).listRuns []).length)) = true := by
  decide +kernel

def status0 : CmdStatus := ⟨1, 0, 4, 2, false, false⟩
/-- UnitRegisters: a command that runs and one that has ended; a slot that is free, one reserved, and a full buffer; a slot in use;
TMSET's fourth action code. -/
theorem meets_UnitRegisters :
    let s := (armWork (·.setS 21 1)).updCore 0 fun k => { k with status := [status0] }
    (s.core 0).status.find? (fun x => x.id == 1 && x.ctx == 0) = some status0 ∧
    (armGroup.work.setS 12 0x4000).sreg 12 = 16384 ∧ (Tab.find? [(5, tile0)] 5).isSome = true ∧
    ¬ { fetchPacket with obuf := 16384 }.obuf / 16384 ≤ ([] : Tab SlotRec).length ∧
    { fetchPacket with obuf := 16384 }.obuf / 16384 ≤ [(5, tile0)].length ∧ (5 : Slot) ∈ (MatOp.mzero 5).names ∧
    (3 : DWord).extractLsb' 0 2 = (3 : BitVec 2) := by decide +kernel

/-! ### Lane obligations -/

def xDo (s : State) (p : LaneCx → Bool) : Bool := (laneAt s).any p
def preIs (s : State) (i : Instr) (w : Option (Counter × BitVec 2)) (p : Pre) : Bool := xDo s fun x => lanePre s x i w == p
def lane0 : State := world true
/-- The token's mask, the uniform pair w0:w1 that memory operands use, and v1. -/
def laneMem (mask w0 w1 : Word) (f : Work → Work) : State := laneWork fun w =>
  f { w with cur0 := some { fetchCursor with token := { token0 with
      mask := mask, w := (token0.w.set 0 w0).set 1 w1 } } }

/-- LaneOperandsAndChecks, LaneFloat, LaneIntegersAndMoves, LaneConversions, LaneShuffles, LaneReductions' VRED and VSCAN, and
TopKAndTrips: a lane instruction whose checks pass, one whose counter is above its threshold, one with a register at the budget. -/
theorem meets_LaneRuns :
    preIs lane0 (.viadd ctl 1 (.v 2) (.v 3)) none .go = true ∧
    preIs (laneWork fun w => { w with cnt := { w.cnt with ldc := 3 } }) (.viadd ctl 1 (.v 2) (.v 3)) (some (.ldc, 3)) .go = true ∧
    preIs (laneWork fun w => { w with cnt := { w.cnt with ldc := 4 } }) (.viadd ctl 1 (.v 2) (.v 3)) (some (.ldc, 3)) .wait = true ∧
    preIs (laneWork ({ · with budget := 4 })) (.viadd ctl 3 (.v 2) (.v 3)) none .go = true ∧
    preIs (laneWork ({ · with budget := 3 })) (.viadd ctl 3 (.v 2) (.v 2)) none .illegal = true ∧
    preIs (laneWork ({ · with elastic := true })) (.viadd ctl 3 (.v 2) (.v 2)) none .wait = true := by decide +kernel

theorem meets_ExactValuesRoundToThemselves :
    0x7F < 2 * 2 ^ (Fmt.e4m3.eb + Fmt.e4m3.mb) ∧ Fmt.e4m3.value 0x7F = .nan ∧ Fmt.f32.value 0x7F800000 ≠ .nan ∧
    Fmt.e4m3 ∈ [Fmt.f32, Fmt.bf16, Fmt.e4m3, Fmt.e5m2] := by decide +kernel

/-- Rounding, LaneConversions and LaneFloat: a number on the grid (448 in E4M3), one between two of it (the draw decides), one that
overflows; the scale's largest magnitude, finite and not zero; a number with a fraction and one without; operands of f32Lt and clamp. -/
theorem meets_rounding :
    Fmt.e4m3.round .rz 0 false (.fin ⟨false, 449, 0, false⟩) = 0x7E ∧ Fmt.e4m3.round .ru 0 false (.fin ⟨false, 449, 0, false⟩) = 0x7F ∧
    Fmt.e4m3.round .sr 0 false (.fin ⟨true, 17, 0, false⟩) = 0xD8 ∧ Fmt.e4m3.round .sr 0xFFFF false (.fin ⟨true, 17, 0, false⟩) = 0xD9 ∧
    Fmt.f32.value 0x43E00000 = .fin ⟨false, 0xE00000, -15, false⟩ ∧ Fmt.f32.value 0xCB800001 = .fin ⟨true, 0x800001, 1, false⟩ ∧
    f32Lt 0xBF800000 0x3F800000 = true ∧ isNan 0x7FC00000 = true ∧ isNan 0x3F800000 = false ∧ 0xFFFF < 2 ^ 16 := by decide +kernel

/-- LaneReductions: a return queue at 7 and at 8 entries; a poisoned active lane; halves that differ and halves that agree. -/
theorem meets_LaneReductions :
    (List.replicate 7 (⟨0, 0, 0⟩ : RetEntry)).length < 8 ∧ 8 ≤ (List.replicate 8 (⟨0, 0, 0⟩ : RetEntry)).length ∧
    preIs lane0 (.vreds ctl (.v 2) .add .i32 .rne) none .go = true ∧
    xDo (laneWork (·.setV 2 ⟨Vector.replicate 32 0, 4⟩)) (fun x => (x.active ctl).getLsbD 2 && (x.src (.v 2)).poison.getLsbD 2) = true ∧
    ((List.range 16).filter fun l => (0x00010000 : Word).getLsbD l != (0x00010000 : Word).getLsbD (l + 16)) = [0] ∧
    ((List.range 16).filter fun l => (0x00010001 : Word).getLsbD l != (0x00010001 : Word).getLsbD (l + 16)) = [] := by decide +kernel

/-- AccessChecks: an aligned address and one that is not, the last canonical address and the first beyond it, a usable TLB entry,
a translation and a fault; a scratchpad access that ends at the packet's limit and one that ends past it. -/
theorem meets_AccessChecks :
    let s := (world false).updCore 0 fun k => { k with tlb := [⟨0, 0, (pageVa 3).toNat, false, 0x33000B, 0x7FFF⟩] }
    (pageVa 3).toNat % 8 = 0 ∧ (pageVa 3 + 1).toNat % 8 ≠ 0 ∧ (0x1FFFFFFFFFFFFFF : DWord).toNat < 2 ^ 57 ∧
    2 ^ 57 ≤ (0x200000000000000 : DWord).toNat ∧ (s.tlbFind 0 0 (pageVa 3)).isSome = true ∧
    gives (translate 0 0 (pageVa 3) s) (fun r _ => r.isOk) = true ∧ gives (translate 0 0 (pageVa 8) s) (fun r _ => !r.isOk) = true ∧
    ¬ (1024 : Int) < 1020 + 4 ∧ (1024 : Int) < 1021 + 4 := by decide +kernel

/-- PageWalk: an entry of each kind that a walk meets, and a walk that ends in a leaf and one that faults. -/
theorem meets_PageWalk :
    let s := world false
    s.place (entryPa 3) = .here ∧ gives (readHome 0 (entryPa 3 / 128) s) yes = true ∧
    (s.entryAt (entryPa 8)).getLsbD 0 = false ∧ leafWellFormed (s.entryAt (entryPa 3)) 0 = true ∧
    leafWellFormed 0x330019 0 = false ∧ descWellFormed (s.entryAt (fetchRoot + 0x3000)) 1 = true ∧ descWellFormed 0x104003 1 = false ∧
    (Tab.vals s.groups).any (fun g => g.present && g.core == 0 && g.ctx == 0) = true ∧
    gives (walk 0 0 0 (pageVa 3) s) (fun r _ => r.1.isOk) = true ∧ gives (walk 0 0 0 (pageVa 8) s) (fun r _ => !r.1.isOk) = true := by decide +kernel

/-- The accesses of a lane load or store on a page: they succeed, they fault, or they wait. -/
def checksOf (s : State) (n : Nat) (right : Right) (p : EStateM.Result Stop State (List LaneAcc) → State → Bool) : Bool :=
  xDo s fun x => p (laneAccesses x (x.active ctl) ⟨right, some .dev, 4, false, false⟩ 0 (fun l => pageVa n + BitVec.ofNat 64 (4 * l))
    (fun _ => []) (afterLane s x)) (afterLane s x)
/-- LaneMemoryIssue: a counter at 62 and at 63; accesses that pass (also with no lane active), that fault, and that wait for a
held line of the page table; a scratchpad access. -/
theorem meets_LaneMemoryIssue :
    let s := laneMem 0x80000001 0x30000 0x10 id
    preIs s (.vld ctl 4 mem0 .w false .dev .rlx) none .go = true ∧ preIs s (.vst ctl mem0 (.v 4) .w .dev .rlx) none .go = true ∧
    preIs s (.vatom ctl 4 at0 (.v 5) .add .dev .rlx) none .go = true ∧ preIs s (.vredm ctl at0 (.v 5) .add .dev .rlx) none .go = true ∧
    preIs s (.vldro ctl 4 mem0 .w false) none .go = true ∧ preIs s (.vsld ctl 4 scr0 .w false .grp .rlx) none .go = true ∧
    preIs s (.vsst ctl scr0 (.v 4) .w .grp .rlx) none .go = true ∧
    checksOf s 3 .store (fun r s0 => gives r fun l s1 => l.length == 2 && decide (s1.groups = s0.groups)) = true ∧
    checksOf (laneMem 0 0 0 id) 3 .store (fun r _ => gives r fun l _ => l == []) = true ∧
    checksOf s 4 .store (fun r _ => faults r) = true ∧
    checksOf (s.setHome (entryPa 3 / 128) { (s.home (entryPa 3 / 128)) with held := true }) 3 .store (fun r _ => match r with
      | .error .wait _ => true
      | _ => false) = true ∧
    62 < 63 ∧ xDo { s with grids := [(0, { fetchGrid with packet := barPacket })] } (fun x => gives (scratchAccesses x (x.active ctl)
      .grp 4 0 (fun l => 4 * l) (fun _ => []) (afterLane s x)) fun l _ => l.length == 2) = true := by decide +kernel

/-- Prefetch: no line, one line that is fetched by a lease and one at group scope, no active lane, one active lane. -/
theorem meets_Prefetch :
    let lines (s : State) (p : List (Nat × CClass) → State → Bool) : Bool := xDo s fun x =>
      gives (prefetchLines x .dev (x.src (.v 1)).poison (x.memAddr mem0) ((List.range 32).filter (x.active ctl).getLsbD) [] (afterLane s x)) p
    let s := laneMem 1 0x30000 0x10 id
    preIs s (.vpf ctl mem0 .dev) none .go = true ∧ lines (laneMem 1 0x80000 0x10 id) (fun l _ => l == []) = true ∧
    lines s (fun l s1 => l == [(0x330000 / 128, .dev)] && gives (renew 0 0 (0x330000 / 128) s1) yes &&
      gives (readL1 0 0 (0x330000 / 128) .grp .dev s1) yes) = true ∧
    xDo (laneMem 0 0 0 id) (fun x => x.active ctl == 0) = true ∧ xDo s (fun x => x.active ctl == 1#32 <<< 0) = true := by
  decide +kernel

/-! ### Locks, launches, cursors and the matrix unit -/

def lockS (f : Group → Group) : State := (laneMem 0x80000001 0x30000 0x10 id).updGroup 0 f
def line3 : Nat := 0x330000 / 128
def req0 : LockReq :=
  { iseq := 4, seq := 5, level := 0, dest := 9, lanes := [⟨0, pageVa 3, line3, false⟩], lines := [line3], taken := 0, joined := true
    orphan := false, limit := none, failed := none, ticks := 0, partCycles := 0, pc := fetchVa, word := 0, cur := false }
def lklChecks (s : State) (p : EStateM.Result Stop State (List LaneAcc) → State → Bool) : Bool :=
  xDo s fun x => p (laneAccesses x (x.active ctl) ⟨.store, some .dev, 1, false, true⟩ (x.src (.v 1)).poison (x.memAddr mem0)
    (fun _ => []) (afterLane s x)) (afterLane s x)

/-- LockIssue: checks that pass and name one line, that name none, and that fault; a line that the group holds; a quota that does
not suffice; a request in progress; no limit, a limit of one tick. -/
theorem meets_LockIssue :
    preIs (lockS id) (.lkl ctl 4 mem0 none) none .go = true ∧ preIs (lockS id) (.ulk ctl mem0) none .go = true ∧
    lklChecks (lockS id) (fun r s0 => gives r fun l s1 => ((byLine l).map (·.1) == [line3]) &&
      decide (s1.groups = s0.groups) && s1.place (line3 * 128) == .here && decide ((s1.ctx 0).used + 1 ≤ (s1.ctx 0).quota)) = true ∧
    lklChecks (laneMem 0 0 0 id) (fun r _ => gives r fun l _ => l == []) = true ∧
    lklChecks (laneMem 1 0x80000 0x10 id) (fun r _ => faults r) = true ∧
    ({ armGroup with locks := [⟨line3, true⟩] }.locks.any (·.line == line3)) = true ∧
    (let x := ((world false).updCtx 0 ({ · with quota := 0 })).ctx 0; x.quota < x.used + 1) ∧
    ({ armGroup with requests := [req0] }.requests.any (·.joined)) = true := by decide +kernel

/-- LockMoves: a waiter for a free line that can be pinned, the last of its request and not; an unlock of a held line; a
request whose time has run out, one tick before; the probe at 4,096 cycles and one before; a cycle of two groups. -/
theorem meets_LockMoves :
    let s := ((world false).updGroup 0 fun g => { g with requests := [req0] }).setHome line3
      { ((world false).home line3) with queue := [0] }
    (s.home line3).holder = none ∧ s.firstWaiter line3 = some 0 ∧ req0.taken + 1 = req0.lines.length ∧
    ({ req0 with lines := [line3, line3 + 1] }.lines[0 + 1]?) = some (line3 + 1) ∧ s.place ((line3 + 1) * 128) = .here ∧
    gives (pinLine 0 line3 s) (fun w s1 => gives (jump 0 w s1) fun _ s2 => decide (s2.groups = s.groups)) = true ∧
    { req0 with limit := some 1, ticks := 1 }.expired = true ∧ { req0 with limit := some 1, ticks := 0 }.expired = false ∧
    ¬ { s with now := 4096 }.now < s.probedAt + 4096 ∧ { s with now := 4095 }.now < s.probedAt + 4096 := by decide +kernel

theorem meets_LockMoves_unlock :
    let e : StoreEntry := ⟨{ load0.acc with seq := 7, iseq := 6, order := .rel }, .unlock, [⟨0, pageVa 3, 0x330000, [], 0, 0, false⟩]⟩
    let s := ((world false).updGroup 0 fun g => { g with stores := [e], locks := [⟨line3, true⟩] }).setHome line3
      { ((world false).home line3) with holder := some 0 }
    headOf (·.acc) { armGroup with stores := [e] } .arm [e] = some e ∧ e.line? = some line3 ∧
    (s.group? 0).any (fun (g : Group) => gives (releaseM g e.acc s) fun _ s1 => s1.place 0x330000 == .here &&
      gives (freeLine g line3 false s1) fun _ s2 => decide (s2.groups = s.groups)) = true := by decide +kernel

/-- An unlock of a line that the group no longer holds. -/
theorem meets_LockMoves_again :
    let e : StoreEntry := ⟨{ load0.acc with seq := 7, iseq := 6, order := .rel }, .unlock, [⟨0, pageVa 3, 0x330000, [], 0, 0, false⟩]⟩
    let s := (world false).updGroup 0 fun g => { g with stores := [e] }
    headOf (·.acc) { armGroup with stores := [e] } .arm [e] = some e ∧ armGroup.locks = [] ∧
    (s.group? 0).any (fun (g : Group) => gives (releaseM g e.acc s) fun _ s1 => s1.place 0x330000 == .here &&
      decide (s1.groups = s.groups)) = true := by decide +kernel

/-- Group 0 holds the line that group 1 waits for, and the other way round; the request of group 1 is the younger. -/
def cycleS : State :=
  let s := (world false).updGroup 0 fun g => { g with requests := [{ req0 with lines := [line3 + 1] }], locks := [⟨line3, true⟩] }
  let s := { s with groups := Tab.put s.groups 1 { armGroup with number := 1, requests := [{ req0 with iseq := 8, seq := 9 }]
                                                                 locks := [⟨line3 + 1, true⟩] }, nextSeq := 10 }
  (s.setHome line3 { (s.home line3) with holder := some 0, queue := [1] }).setHome (line3 + 1)
    { (s.home line3) with holder := some 1, queue := [0] }
theorem meets_LockMoves_cycle : (cycleS.chain 0 8 0 []).any (fun c => c.map (fun p => (p.1, p.2.seq)) == [(1, 9), (0, 5)]) = true ∧
    9 ≤ cycleS.nextSeq ∧ { req0 with iseq := 8, seq := 9 }.waitsOn = some line3 := by decide +kernel

/-- A queue bound to the group's context, with room for two entries more. -/
def queueS (s : State) : State := (s.updQueue 5 fun q => { q with ctx := some 0, c := 1 })

/-- DeviceLaunch: an image in page 3 for a queue with room for one entry and for two but not for three; a queue of no context; a
misaligned address; lane images that can be read; a doorbell in RUN. -/
theorem meets_DeviceLaunch :
    let s := queueS (armWork fun w => (w.setS 13 (pageVa 3)).setS 14 5)
    (pageVa 3).toNat % 128 = 0 ∧ (pageVa 3 + 64).toNat % 128 ≠ 0 ∧ armGroup.loads = [] ∧ armGroup.work.cur0 = none ∧
    gives (accessAt 0 0 (pageVa 3) .load (some .dev) false false (Say.issuing s)) (fun r s1 => r.isOk && (s1.queue 5).ctx == some 0 &&
      (s1.queue 6).ctx == none && gives (releaseCore 0 s1) fun _ s2 => gives (groupLoad armGroup (pageVa 3) 128 128 s2) fun b s3 =>
        b.length == 128 && decide (s3.groups = (Say.issuing s).groups) && (s3.queue 5).ctx == some 0) = true ∧
    gives (accessAt 0 0 (pageVa 8) .load (some .dev) false false (Say.issuing s)) (fun r _ => !r.isOk) = true ∧
    (s.queue 5).entries.length + 2 ≤ 2 ^ (s.queue 5).c ∧ ¬ (s.queue 5).entries.length + 3 ≤ 2 ^ (s.queue 5).c ∧
    (s.queue 5).ctx = some 0 ∧ (s.ctx 0).state = .open ∧ (s.queue 6).ctx = none ∧ s.pkg.power ≠ .off := by decide +kernel

/-- VLAUNCH's checks for queue 5: they pass for one active lane and for none, and fault on a page that is not mapped and for a queue
that is not bound. -/
def vlaunchChecks (s : State) (p : EStateM.Result Stop State (List LaneAcc) → State → Bool) : Bool := xDo s fun x =>
  p (laneChecked x (x.active ctl) ⟨.load, some .dev, 128, false, false⟩ 0 (x.memAddr mem0) (fun _ => [])
    (fun s _ => if (s.queue 5).ctx = some x.g.ctx then none else some ⟨2, 4, 0, 0⟩) (afterLane s x)) (afterLane s x)
def launchEntry : LoadEntry :=
  { load0 with kind := .launch, acc := { load0.acc with stream := .lane, counter := some .ldc }, elems := [⟨0, pageVa 3, 0x330000, 128, false⟩] }
def pending0 : PendLaunch := ⟨4, 5, [], 9, 1, 0⟩
theorem meets_DeviceLaunch_lanes :
    let s := queueS (laneMem 1 0x30000 0x10 id)
    preIs s (.vlaunch ctl 4 mem0 2) none .go = true ∧ armGroup.work.cnt.ldc < 63 ∧ armGroup.loads = [] ∧
    vlaunchChecks s (fun r s0 => gives r fun l s1 => l.length == 1 && decide (s1.groups = s0.groups)) = true ∧
    vlaunchChecks (queueS (laneMem 0 0 0 id)) (fun r _ => gives r fun l _ => l == []) = true ∧
    vlaunchChecks (queueS (laneMem 1 0x80000 0x10 id)) (fun r _ => faults r) = true ∧
    vlaunchChecks (laneMem 1 0x30000 0x10 id) (fun r _ => faults r) = true ∧
    { armGroup with launches := [pending0] }.launches = [pending0] ∧ launchEntry.acc.iseq = pending0.iseq ∧ pending0.act ≠ 0 ∧
    launchEntry.acc.level = armGroup.level ∧ armGroup.work.elastic = false ∧ (s.queue pending0.queue).ctx = some armGroup.ctx := by
  decide +kernel

def sprueW (l : List SprueItem) : State := armWork ({ · with sprue := l })

/-- CursorMoves: a token at the head with trips and with none; the second cursor's token with a fork open; no token; a table entry
that reads and one that faults; a cursor whose entry has still to be read; a fork marker and a join marker at the head. -/
theorem meets_CursorMoves :
    let s := ((sprueW [.token { token0 with seq := 3 }]).updGroup 0 id)
    let s := { s with grids := [(0, { fetchGrid with packet := { fetchPacket with table := pageVa 3 } })] }
    (s.runnable 0).isSome = true ∧ armGroup.work.cursor false = none ∧ token0.trips ≠ 0 ∧
    (s.group? 0).any (fun (g : Group) => (g.work.nextToken false).isSome && (g.work.nextToken true).isNone &&
      gives (readEntry g (pageVa 3) s) (fun r s2 => r.isOk && decide (s2.groups = s.groups)) &&
      gives (readEntry g (pageVa 8) s) fun r s2 => match r with
        | .error f => gives (raise 0 0 [⟨f.va, 0, pageVa 8, 0, 1, 0, false, f.cls, f.sub, false, 0, false⟩] s2) yes
        | _ => false) = true ∧
    ({ armGroup.work with sprue := [.token { token0 with arm := .a1 }], lForks := [(1, 2)] }.nextToken true).isSome = true ∧
    { fetchCursor with start := none }.start = none ∧ armGroup.work.cur1 = none := by decide +kernel

/-- A second fork opens with a save area that takes its outer fork's masks, and with one that is not mapped; the same at the join. -/
theorem meets_CursorMoves_nested :
    let s := (sprueW [.forkMark 1 2]).updGroup 0 fun g => { g with work := { g.work with lForks := [(3, 4)] } }
    let bad := s.updGroup 0 fun g => { g with record := pageVa 8 }
    (s.runnable 0).isSome = true ∧
    gives (recordStore 0 0x6000 (leBytesOf 8 3 ++ leBytesOf 8 4) s) (fun b s2 => b && decide (s2.groups = s.groups)) = true ∧
    gives (recordStore 0 0x6000 (leBytesOf 8 3 ++ leBytesOf 8 4) bad) (fun b _ => !b) = true ∧
    gives (recordLoad 0 0x6000 16 s) (fun b s2 => b.isSome && decide (s2.groups = s.groups)) = true ∧
    gives (recordLoad 0 0x6000 16 bad) (fun b _ => b.isNone) = true ∧ armGroup.handler = none := by decide +kernel

def slotsS (s : State) (slots : Tab SlotRec) : State := { s with teams := [(0, { fetchTeam 0 0 with slots := slots })] }
def latch0 : Latch := ⟨4, .v 2, some .e4m3, [], VVal.zero⟩

/-- MatrixIssue: slots of the formats that each instruction takes and of another; counters at 62 and 63; a latch of the same
operands and of another; an MDST whose rows pass, fault, or are none, and one behind an instruction on its slot. -/
theorem meets_MatrixIssue :
    let s := slotsS (laneMem 1 0x30000 0x10 id) [(1, tile0), (2, acc0), (3, { tile0 with fmt := .bf16 })]
    preIs s (.mma ctl 2 4 (.v 2) 1 .e4m3 true) none .go = true ∧ preIs s (.mmab ctl 2 4 (.v 2) 3 true) none .go = true ∧
    preIs s (.mzero ctl 2) none .go = true ∧ preIs s (.mdrn ctl 4 2 1 0) none .go = true ∧
    preIs s (.mpois ctl 1 1 true) none .go = true ∧ preIs s (.mdst ctl mem0 2 0 true .dev .rlx) none .go = true ∧
    Tab.find? (fetchTeam 0 0).slots 9 = none ∧ { armGroup.work.cnt with mxc := 62 }.mxc < 63 ∧
    63 ≤ { armGroup.work.cnt with mxc := 63 }.mxc ∧ latch0.va = 4 ∧ latch0.kind ≠ none ∧
    (let rows (s : State) (p : EStateM.Result Stop State (List (List LaneAcc)) → State → Bool) : Bool := xDo s fun x =>
      p (eachLane (mdstLane x (x.active ctl) 0 (x.memAddr mem0) .dev 2) (x.accessLanes (x.active ctl)) [] [] (afterLane s x))
        (afterLane s x)
     rows s (fun r s0 => gives r fun l s1 => l.length == 1 && decide (s1.groups = s0.groups) && decide ((s1.core 0).matrix = [])) = true ∧
     rows (slotsS (laneMem 0 0 0 id) [(2, acc0)]) (fun r _ => gives r fun l _ => l == []) = true ∧
     rows (slotsS (laneMem 1 0x80000 0x10 id) [(2, acc0)]) (fun r _ => faults r) = true) := by decide +kernel

def mat0 (op : MatOp) : MatInstr :=
  { seq := 6, iseq := 5, group := 0, level := 0, team := 0, mask := 3, gp := 0, pair := false, op := op, pc := fetchVa, word := 0
    cur := false, after := [] }
def matS (op : MatOp) (mo : Monitor) : State :=
  (slotsS (world false) [(1, tile0), (2, { acc0 with data := [(0, 0x3F800000)] })]).updCore 0 fun k =>
    { k with matrix := [mat0 op], mons := k.mons.set 3 mo }
def trapMon : Monitor := { Monitor.init with act := 2, hi := 0 }

/-- MatrixPerforms: an instruction of each kind at the head of an empty wait; a monitor that passes every value and one that traps on
the first; a trap that is raised. -/
theorem meets_MatrixPerforms :
    let next (op : MatOp) (mo : Monitor) : Bool := let s := matS op mo
      s.nextMatrix 0 (s.core 0).matrix [] [] == some (mat0 op)
    let trap (mo : Monitor) (n : Nat) : Option (Nat × Word) :=
      (drainRows (mo.forCtx 0) (activeRows { acc0 with data := [(0, 0x3F800000)] } 3 0 n)).2.2
    next (.mzero 2) Monitor.init = true ∧ next (.mma 2 1 (some .e4m3) [VVal.zero] VVal.zero) Monitor.init = true ∧
    next (.mpois 1 2 true) Monitor.init = true ∧ next (.mdrn 4 2 0 3) trapMon = true ∧ next (.mdst 2 3 false) trapMon = true ∧
    trap Monitor.init 32 = none ∧ trap Monitor.init 128 = none ∧ armGroup.level = 0 ∧ armGroup.work.elastic = false ∧
    ([(0, 0x3F800000)] : Tab Word).map (·.1) = [0] ∧
    trap { trapMon with ctx := some 0 } 32 = some (0, 0x3F800000) ∧
    gives (raise 0 0 [⟨0, 0x3F800003, fetchVa, 0, 1, 0, false, 7, 0, true, 0, false⟩] (matS (.mdrn 4 2 0 3) trapMon)) yes = true := by
  decide +kernel

/-! ### The moves of memory, time and copies -/

def loadS (e : LoadEntry) (f : Group → Group) : State := (world false).updGroup 0 fun g => f { g with loads := [e] }
def heads (s : State) (e : LoadEntry) : Bool := (s.group? 0).any fun (g : Group) => match headLoad g .arm s with
  | .ok a _ => a == e
  | .error _ _ => false
def image0 : LineData := ⟨Vector.replicate 128 7, 0⟩
def withL1 (s : State) (k : LineKind) : State := s.updCore 0 ({ · with l1 := [(line3, ⟨k, image0⟩)] })

/-- LoadMoves: a load at the head, with bytes and with none; behind an older atomic; an older store that covers it, one that covers a
part; each kind of place it reads from; a poisoned sector; a hit of each kind, the lease at its last time and past it. -/
theorem meets_LoadMoves :
    let s := loadS load0 id
    let at_ (k : StoreKind) (pa n : Nat) : StoreEntry :=
      ⟨{ load0.acc with seq := 3, iseq := 2 }, k, [⟨0, pageVa 3, pa, List.replicate n 1, 0, 0, false⟩]⟩
    heads s load0 = true ∧ heads (loadS { load0 with elems := [] } id) { load0 with elems := [] } = true ∧
    heads (loadS { load0 with kind := .readOnly } id) { load0 with kind := .readOnly } = true ∧ load0.line? = some line3 ∧
    (at_ (.atomic .add 4 none) 0x330000 0).acc.older load0.acc = true ∧
    (at_ .store 0x330000 8).acc.older load0.acc = true ∧ (load0.addrs.all (at_ .store 0x330000 8).addrs.contains) = true ∧
    (load0.addrs.any (at_ .store 0x330007 8).addrs.contains) = true ∧ ¬ (load0.addrs.all (at_ .store 0x330007 8).addrs.contains) = true ∧
    Tab.find? s.teams armGroup.team = some (fetchTeam 0 0) ∧ s.place 0x330000 = .here ∧ s.blocked line3 = false ∧
    (s.setHome line3 { (s.home line3) with held := true }).blocked line3 = true ∧
    gives (readRo 0 0 line3 s) (fun _ s1 => decide (s1.groups = s.groups)) = true ∧
    gives (readL1 0 0 line3 .dev .dev s) (fun p s1 => p.2.any fun t => gives (jump 0 t s1) fun _ s2 => decide (s2.groups = s.groups)) =
      true ∧
    gives (readL1 0 0 line3 .grp .dev (withL1 s (.noncoh 0))) (fun p s1 => p.2.isNone && decide (s1.groups = s.groups)) = true ∧
    ({ s with poison := [0x330000 / 32] }.homeData line3).poisoned 0 8 = true ∧
    Tab.find? ((withL1 s (.owned 5 0 false)).core 0).l1 line3 = some ⟨.owned 5 0 false, image0⟩ ∧
    (0x7FFF - (s.core 0).pts).toNat < 2 ^ 15 ∧ ¬ (0x8000 - (s.core 0).pts).toNat < 2 ^ 15 := by decide +kernel

/-- A load of a VLAUNCH at the head with nothing before it, and one behind a lane load; a clean copy in the RDC of a core whose die is
not the line's home. -/
theorem meets_LoadMoves_launch :
    let s := (queueS (world false)).updGroup 0 fun g => { g with loads := [launchEntry], launches := [pending0] }
    (s.group? 0).any (fun (g : Group) => match headLoad g .lane s with
      | .ok a _ => a == launchEntry
      | .error _ _ => false) = true ∧ launchEntry.line? = some line3 ∧ launchEntry.kind ≠ .lock ∧
    gives (releaseCore 0 s) (fun _ s1 => decide (s1.groups = s.groups) && s1.place 0x330000 == .here &&
      gives (readL1 0 0 line3 .dev .dev s1) fun p s2 => !p.1.poisoned 0 128 && p.2.any fun t => gives (jump 0 t s2) fun _ s3 =>
        decide (s3.groups = s.groups)) = true ∧
    ({ launchEntry.acc with seq := 3, iseq := 2 }.older launchEntry.acc) = true ∧ launchEntry.acc.cls ≠ .sys ∧
    (let far := { world false with rdc := [(rdcKey 1 line3, ⟨image0, 5, 9, false, 0⟩)] }
     far.rdcLine 40 line3 = some ⟨image0, 5, 9, false, 0⟩ ∧ Tab.find? (far.core 40).l1 line3 = none) ∧
    s.serves line3 = true ∧ (s.setHome line3 { (s.home line3) with held := true }).serves line3 = false := by decide +kernel

theorem meets_LoadMoves_poison :
    let s := { loadS { load0 with acc := { load0.acc with cls := .sys } } id with poison := [0x330000 / 32] }
    gives (raise 0 0 [⟨pageVa 3, 0x330000, fetchVa, 0, 0, 0, false, 8, 0, false, 0, false⟩] s) yes = true ∧
    [0x55].length ∈ [1, 2, 4, 8, 16] ∧ armGroup.work.elastic = false := by decide +kernel

def storeS (e : StoreEntry) (f : State → State) : State := f ((world false).updGroup 0 fun g => { g with stores := [e] })
def writes (s : State) (a : Access) : Bool := gives (writeLine armGroup a line3 image0 0xF s) fun _ t => decide (t.groups = s.groups)

/-- DrainMoves: a store at the head whose conditions hold, with bytes and with none; one that releases; one that an older entry of the
other stream overlaps; each place it writes to; a window with no memory behind it. -/
theorem meets_DrainMoves :
    let s := storeS store0 id
    let rel : StoreEntry := { store0 with acc := { store0.acc with order := .rel } }
    let sys : Access := { store0.acc with cls := .sys }
    headOf (·.acc) { armGroup with stores := [store0] } .arm [store0] = some store0 ∧ store0.line? = some line3 ∧
    store0.acc.level = armGroup.level ∧ Memory.wf s.mem = true ∧
    gives (releaseM { armGroup with stores := [rel] } rel.acc s) (fun _ s1 => decide (s1.groups = s.groups) && decide (s1.teams = s.teams) &&
      decide (s1.grids = s.grids) && s1.place 0x330000 == .here) = true ∧
    ({ store0.acc with stream := .lane, key := 1, seq := 1 }.older store0.acc) = true ∧ store0.overlaps store0 = true ∧
    writes s store0.acc = true ∧ writes s sys = true ∧ s.blocked line3 = false ∧
    (s.setHome line3 { (s.home line3) with held := true }).blocked line3 = true ∧ isLocal line3 = true ∧
    writes (withL1 s (.owned 5 0 false)) { store0.acc with scope := .grp } = true ∧ writes s { store0.acc with scope := .core } = true ∧
    (s.home line3).owner = none ∧ (s.core 0).setFull line3 = false ∧ writes (withL1 s (.noncoh 1)) { store0.acc with cls := .non } = true ∧
    writes (withL1 s (.leased 0 9)) store0.acc = true ∧ (s.home line3).wts = 0 ∧
    { store0 with kind := .mdst }.kind ≠ .store ∧ ¬ fetchPacket.bar + 128 ≤ fetchPacket.scratch := by decide +kernel

/-- An address with no memory behind it answers with an error, and the record of it can be raised. -/
theorem meets_DrainMoves_error :
    (world false).place (2 ^ 51) = .error ∧ gives (releaseM armGroup store0.acc (storeS store0 id)) yes = true ∧
    gives (raise 0 0 [⟨pageVa 3, BitVec.ofNat 64 (2 ^ 51), fetchVa, 0, 0, 0, false, 11, 0, false, 0, false⟩] (storeS store0 id)) yes = true := by
  decide +kernel

def atom0 (cls : CClass) (scope : Scope) (order : Order) (st : Stream) : StoreEntry :=
  ⟨{ store0.acc with cls := cls, scope := scope, order := order, stream := st }, .atomic .add 4 (some (.sreg 9 false)),
    [⟨0, pageVa 3, 0x330000, [], 3, 0, false⟩]⟩
def sources (s : State) (e : StoreEntry) : Bool := gives (atomicOf s e) fun _ t => decide (t.groups = s.groups)
where
  atomicOf (s : State) (e : StoreEntry) : EStateM.Result Stop State Unit := (do
    releaseM armGroup e.acc
    let d ← atomSource armGroup e.acc line3
    let (new, _) := atomElems .add 4 line3 e.elems d
    atomWrite armGroup e.acc line3 ⟨new.bytes, 0⟩ (e.elems.foldl (fun m (x : SElem) => m ||| maskOf (x.pa - line3 * 128) 4) 0)) s

/-- AtomicMoves: an atomic at the head whose conditions hold, at each of its places; one whose bytes are poisoned, with nothing
issued since; elements at the first and the last bytes of a line. -/
theorem meets_AtomicMoves :
    let e := atom0 .dev .dev .rlx .arm
    let s := storeS e id
    headOf (·.acc) { armGroup with stores := [e] } .arm [e] = some e ∧ e.line? = some line3 ∧
    sources s e = true ∧ sources s (atom0 .sys .sys .rlx .arm) = true ∧ sources s (atom0 .dev .grp .ar .arm) = true ∧
    sources s (atom0 .dev .dev .rel .lane) = true ∧ sources (withL1 s (.owned 5 0 false)) (atom0 .dev .core .rlx .arm) = true ∧
    ({ s with poison := [0x330000 / 32] }.homeData line3).poisoned 0 4 = true ∧ (fetchVa + 4 : DWord) = fetchVa + 4 ∧
    gives (raise 0 0 [⟨pageVa 3, 0x330000, fetchVa, 0, 0, 0, false, 8, 0, false, 0, false⟩] s) yes = true ∧
    sources (withL1 s (.noncoh 0)) (atom0 .non .core .rlx .arm) = true ∧
    sources (withL1 s (.owned 5 0 false)) (atom0 .non .core .rlx .arm) = true ∧ isLocal line3 = true ∧
    region 0x2060000000000 = .peer 3 ∧ isLocal (0x2060000000000 / 128) = false ∧
    line3 * 128 ≤ 0x330000 ∧ 0x33007C + 4 ≤ line3 * 128 + 128 ∧ 0x330078 + 8 ≤ line3 * 128 + 128 ∧ (0xFFFFFFFF : Nat) < 2 ^ (8 * 4) := by
  decide +kernel

/-- CacheMoves: a load that waits for a lease; a recall wanted of an owner; a buffer that goes home, a release that waits, an unpinned
and a pinned line. -/
theorem meets_CacheMoves :
    let s := loadS load0 id
    let o := (withL1 (storeS { store0 with acc := { store0.acc with order := .rel } } id) (.owned 5 0xF false)).setHome line3
      { (s.home line3) with owner := some 0, records := [(0, 1)] }
    (s.loader 0 line3).isSome = true ∧ s.loader 1 line3 = none ∧
    gives (leaveNoncoh 0 line3 s) (fun _ s1 => decide (s1 = s)) = true ∧ remoteTo 0 line3 = false ∧ isLocal line3 = true ∧ s.blocked line3 = false ∧
    gives (stampLead 10 s) yes = true ∧ (s.core 0).setFull line3 = false ∧
    (o.home line3).owner = some 0 ∧ o.recallWanted 0 line3 = true ∧ o.lockedOn line3 0 = false ∧ o.releaseWaits 0 = true ∧
    gives (storeHome 0 line3 image0 0xF o) (fun w s1 => w == 1 && (s1.home line3).wts == 1) = true ∧ Memory.wf o.mem = true ∧
    Tab.find? ((o.updCore 0 ({ · with wb := [(line3, ⟨image0, 0⟩)] })).core 0).wb line3 = some ⟨image0, 0⟩ := by decide +kernel

/-- Clocks: clocks that run and clocks that stand; the last core, the host agent, and the last Plinth; a time at the age that a sweep
keeps and one tick past it. -/
theorem meets_Clocks :
    (world false).pkg.clock = .mhz1200 ∧ State.reset.pkg.clock = .stopped ∧ 320 ≤ 320 ∧ 383 < 384 ∧
    ¬ 2 ^ 14 < ((0x4000 : Time) - 0).toNat ∧ 2 ^ 14 < ((0x4001 : Time) - 0).toNat ∧ ((0x7FFF : Time) - 0).toNat < 2 ^ 15 ∧
    Tab.find? ((world false).setHome line3 ((world false).home line3)).homes line3 = some ((world false).home line3) ∧
    plinthOf line3 < 384 ∧ isLocal line3 = true ∧ (world false).mayTick 320 = true ∧
    ((world false).updCore 5 fun k => { k with cyc := 64 }).mayTick 5 = false ∧
    { world false with now := 300 }.due 256 300 7 = true ∧ gives (jump 0 1792 (world false)) yes = true ∧
    gives (jump 0 1793 (world false)) yes = false ∧ gives (jump 0 1 { world false with now := 64 }) yes = false := by decide +kernel

def cmd0 (kind : CmdKind) (src dst : DWord) (n : DWord) : Cmd :=
  { id := 1, ctx := 0, group := 0, level := 0, kind := kind, block := ⟨src, n, dst, 0, 0, 0, 0, 0⟩, at_ := pageVa 3, iseq := 4, index := []
    oor := 0, pages := [⟨va 3 / 0x10000, 0x330000, .dev, 0⟩], todo := [line3 + 32], done := [], read := [], lastWts := none
    running := false, stalled := false, err := false, until_ := 0, sent := false, team := 0, grid := 0 }
def engineS (k : Cmd) : State := ((world false).updCore 0 fun c => { c with engine := [k] }).setHome (line3 + 32)
  { ((world false).home (line3 + 32)) with records := [(0, 1)] }
def cpy0 : Cmd := cmd0 .cpy (pageVa 4) (pageVa 3 + 0x1000) 100
def read0 : ReadLine := ⟨va 4, image0, false⟩

/-- CopyMoves: a source line still to read, from a page that translates and one that faults; a line to write whose sources are read;
the last line; a CPYOB that has read its sources; a reduction with its contributions and one that waits. -/
theorem meets_CopyMoves :
    let s := engineS cpy0
    s.cmd? 0 1 = some cpy0 ∧ (s.unread cpy0).map (·.1) = [va 4] ∧
    gives (sourcePa 0 cpy0 (va 4) (pageVa 4) s) (fun r s1 => r.toOption == some 0x340000 && decide (s1.cmd? 0 1 = some cpy0) &&
      s1.place 0x340000 == .here && !(s1.home (lineOf 0x340000)).held && !s1.olderRecord cpy0 (lineOf 0x340000)) = true ∧
    gives (sourcePa 0 cpy0 (va 8) (pageVa 8) s) (fun r s1 => match r with
      | .error f => gives (stallCmd 0 cpy0 f s1) yes
      | .ok _ => false) = true ∧
    (s.group? 0).any (fun (g : Group) => !g.work.priv) = true ∧ s.recordOldest 0 1 (line3 + 32) = true ∧
    (s.home (line3 + 32)).records.head? = some (0, 1) ∧ (s.home (line3 + 32)).owner = none ∧ isLocal (line3 + 32) = true ∧
    (let k := { cpy0 with read := [read0] }
     let s := engineS k
     let (d, mask) := k.outLine ((k.runs 0).filter (·.line == line3 + 32))
     mask = 0xFFFFFFFFFFFFFFFFFFFFFFFFF ∧ gives (storeHome 0 (line3 + 32) d mask s) (fun w s1 =>
       gives (lineDone 0 1 (line3 + 32) (some (s.homeData (line3 + 32))) (some w) s1) yes) = true) := by decide +kernel

theorem meets_CopyMoves_more :
    let ob := { cmd0 .cpyob (pageVa 4) 5 0 with todo := [5] }
    let s := slotsS (engineS ob) [(5, tile0)]
    (s.obSlot ob).isSome = true ∧ s.slotBusy ob = false ∧ ((cmd0 .cpyob (pageVa 4) 5 128).sources .e4m3).length = 128 ∧
    gives (finishCmd 0 1 s) yes = true ∧ (Fred.opened 1 0 0 1 0).got ≠ (Fred.opened 1 0 0 1 0).contribs ∧
    { Fred.opened 1 0 0 1 0 with got := 1 }.got = 1 ∧ (Fred.opened 1 0 0 1 0).root = (world false).pkg.fabricNo ∧
    gives (fredWrite 0 { cmd0 .fred (pageVa 4) (pageVa 3 + 0x1000) 1 with pages := [⟨va 3 / 0x10000, 0x330000, .dev, 0⟩] } [1, 2, 3, 4]
      (engineS (cmd0 .fred (pageVa 4) (pageVa 3 + 0x1000) 1))) yes = true := by decide +kernel

/-- A source on another package gets an error response; a command with a latest write whose time the core can go to. -/
theorem meets_CopyMoves_stops :
    let k := cmd0 .cpy (pageVa 7) (pageVa 3 + 0x1000) 100
    let s := { engineS k with pkg := { (engineS k).pkg with fabricNo := 3 } }
    (s.unread k).map (·.1) = [va 7] ∧ gives (sourcePa 0 k (va 7) (pageVa 7) s) (fun r s1 => match r with
      | .ok pa => s1.place pa == .error && (s1.group? 0).isSome
      | .error _ => false) = true ∧
    gives (endCmd 0 { k with lastWts := some 9 } true s) yes = true ∧ (cmd0 .cpy 0 0 0).level = armGroup.level := by decide +kernel

/-! ### Launching, scheduling, the host and the package -/

/-- A legal entry: a team of one group, with a budget of 8 registers. -/
def image1 : List Byte := List.replicate 0x50 0 ++ leBytesOf 4 1 ++ leBytesOf 2 1 ++ leBytesOf 2 1 ++ leBytesOf 1 1 ++ List.replicate 7 0 ++
  leBytesOf 1 1 ++ List.replicate 3 0 ++ leBytesOf 1 8 ++ List.replicate 27 0
def entry0 : QEntry := ⟨image1, false, true, true, none, 1, none, none⟩
def launchS (e : QEntry) : State := (queueS (world false)).updQueue 5 fun q => { q with entries := [e] }
def saveArea (s : State) : State := s.updCtx 0 fun x => { x with savebase := 1 }
def newGrid : Grid := { fetchGrid with queue := 5, placed := 0, packet := entry0.packet }
def placeS : State := { saveArea (launchS { entry0 with grid := some 1 }) with grids := [(0, fetchGrid), (1, newGrid)], nextGrid := 2 }

/-- Launching: an entry that passes its checks and one that does not; a dependence word that reads and one that faults; the one
eligible entry; a launch to place with room for it; a grid that is over and one that is not. -/
theorem meets_Launching :
    let s := launchS entry0
    s.computes = true ∧ State.reset.computes = false ∧ (s.queue 5).ctx = some 0 ∧ (s.ctx 0).state = .open ∧ image1.length = 128 ∧
    entry0.check = none ∧ { entry0 with image := [] }.check = some 1 ∧ s.eligible.map (·.1) = [5] ∧
    gives (writeCompletion 0 0 5 1 (2 ^ 63 + 1) (pageVa 3) s) yes = true ∧
    gives (partLoad 0 0 (pageVa 3) 8 s) (fun r s1 => r.isOk && decide (s1.queues = s.queues)) = true ∧
    gives (partLoad 0 0 (pageVa 8) 8 s) (fun r _ => !r.isOk) = true ∧
    (s.gridOver 0 fetchGrid = false) ∧ { s with teams := [] }.gridOver 0 fetchGrid = true := by decide +kernel

/-- The scheduler reads an entry of the host in the ring, at a page that is mapped and at one that is not; a completion word at an
address that is not a multiple of 8. -/
theorem meets_Launching_ring :
    let s := (launchS { entry0 with unread := some 1, checked := false, image := [] }).updQueue 5 ({ · with base := pageVa 3 })
    let bad := s.updQueue 5 ({ · with base := pageVa 8 })
    gives (jump 200 0 s) (fun _ s1 => gives (partLoad 200 0 (pageVa 3 + 128) 128 s1) fun r s2 => r.isOk && decide (s2.queues = s.queues)) =
      true ∧ s.partCore [] 5 = 200 ∧
    gives (jump 200 0 bad) (fun _ s1 => gives (partLoad 200 0 (pageVa 8 + 128) 128 s1) fun r _ => !r.isOk) = true ∧
    ({ entry0 with image := [] } : QEntry).packet.done = 0 ∧ (pageVa 3 + 4).toNat % 8 ≠ 0 ∧
    gives (writeCompletion 200 0 5 1 (2 ^ 63 + 1) (pageVa 3 + 4) s) (fun _ t => (t.ctx 0).errKind == 2) = true := by decide +kernel

/-- A launch to place; one that waits for a launch of queue 3 with a higher priority; a grid whose cores go to LEAD. -/
theorem meets_Launching_place :
    let s := placeS
    let two := { s with grids := s.grids ++ [(2, { newGrid with queue := 3, prio := 1 })] }
    (s.placing 5).map (·.1) = some 1 ∧ (s.ctx 0).hasUnits 1 = true ∧ s.mustYield 5 newGrid = false ∧
    s.findCore newGrid.cursor newGrid.room = some 0 ∧ gives (noteEligible s) yes = true ∧
    (two.nextLaunch 3).any (fun d => decide (0 < d.packet.teams) && decide (ahead d.prio d.order 3 < ahead newGrid.prio newGrid.order 5) &&
      two.canPlace d) = true ∧
    gives (releaseCore 0 s) (fun _ s1 => gives (flushNoncoh 0 s1) fun _ s2 => gives (flushRdc 0 s2) fun _ s3 =>
      gives (jump 0 s3.lead s3) yes) = true := by decide +kernel

def holdS (t : Team) : State :=
  let s := saveArea (world false)
  { s with teams := [(0, t)], pkg := { s.pkg with power := .hold } }
def schedW (f : Sched → Sched) : Group := { armGroup with sched := f armGroup.sched }

/-- TeamsAndSets: a team that is not chosen, one that is, one that is quiet and one that is not; a group in its handler; a saved
team that a core has room for; a register file in which nothing has to make way. -/
theorem meets_TeamsAndSets :
    let t := fetchTeam 0 0
    let s := holdS { t with saving := true }
    (world false).chosen 0 = false ∧ (holdS t).chosen 0 = true ∧ s.groupQuiet 0 = true ∧ s.unitQuiet 0 = true ∧
    (holdS t |>.updGroup 0 fun g => { g with loads := [load0] }).groupQuiet 0 = false ∧
    s.draining = true ∧ (world false).draining = false ∧ ((inHandler true).group? 0).any (·.handler.isSome) = true ∧
    armGroup.locks = [] ∧ armGroup.requests = [] ∧ 319 < 320 ∧ (world false).computes = true ∧
    { (world false) with teams := [(0, { t with saved := some ⟨3, pageVa 1⟩ })] }.hasRoom 0 ((world false).teamRoom t) [] = true ∧
    gives (jump 0 3 (world false)) yes = true ∧ s.fileUsed 0 ≤ 4096 := by decide +kernel

/-- The bytes that a save stores and a restore reads back: of a team, of a group, of one register, at pages that are mapped and at
one that is not. -/
theorem meets_TeamsAndSets_save :
    let t := { fetchTeam 0 0 with saving := true }
    let s := (holdS t).updGroup 0 fun g => { g with work := g.work.setV 9 VVal.zero }
    let bad := s.updGroup 0 fun g => { g with record := pageVa 8 }
    let unit := [(0, List.replicate 128 (0 : Byte))]
    gives (saveTeamRecord t (pageVa 3) unit s) (fun ok s3 => ok && gives (saveGroup 0 s3) fun _ s4 => (Tab.find? s4.teams 0).isSome &&
      gives (groupLeaves 0 s4) yes) = true ∧
    gives (saveTeamRecord t (pageVa 8) unit s) (fun ok _ => !ok) = true ∧
    gives (saveParts 0 (armGroup.savedParts ++ fileParts true (armGroup.work.setV 9 VVal.zero)) s) (fun ok _ => ok) = true ∧
    gives (recordStore 0 0 (savedBlock armGroup) bad) (fun ok _ => !ok) = true ∧
    gives (recordStore 0 (0x8000 + 128 * 9) (List.replicate 128 0) bad) (fun ok _ => !ok) = true ∧
    gives (loadTeamRecord t 3 (pageVa 3) unit s) (fun ok _ => ok) = true ∧ gives (loadTeamRecord t 3 (pageVa 8) unit s) (fun ok _ => !ok) =
      true ∧
    gives (groupReturns 3 0 s) (fun _ s3 => gives (restoreGroup 0 s3) fun _ s4 => (Tab.find? s4.teams 0).isSome && decide (s4.fileUsed 3 ≤ 4096) &&
      (s4.group? 0).any fun (g : Group) => g.locks.isEmpty && g.requests.isEmpty && g.faults.isEmpty && g.entry.isNone) = true ∧
    gives (recordLoad 0 0 0x270 bad) (fun b _ => b.isNone) = true ∧ gives (recordLoad 0 0 0x270 s) (fun b _ => b.isSome) = true := by
  decide +kernel

/-- A group in its handler: its own state stands in the record's first block, and the handler's in the next. -/
theorem meets_TeamsAndSets_handler :
    gives (recordLoad 0 0x400 0x270 (inHandler true)) (fun b s1 => b.isSome && gives (recordStore 0 0x268 (leBytesOf 8 0) s1) fun ok _ => ok) =
      true := by decide +kernel

/-- A group that waits on its barrier word; a time slice at its end and one cycle before; ready groups. -/
theorem meets_TeamsAndSets_more :
    let b : Group := { armGroup with work := { armGroup.work with bar := some ⟨3, false, 9, 0⟩ } }
    let s := { (world false) with groups := [(0, b)], grids := [(0, { fetchGrid with packet := barPacket })]
                                  teams := [(0, barTeam ⟨false, 0, 64⟩ [] [])], now := 65536 }
    let two := { s with groups := [(0, armGroup), (1, schedW fun d => { d with active := false, ready := true })] }
    s.running = true ∧ State.reset.running = false ∧ s.pendTrigger 0 b = true ∧ (world false).pendTrigger 0 armGroup = false ∧
    s.stalled 0 b = true ∧ (world false).stalled 0 armGroup = false ∧ armGroup.sched.since + 65536 ≤ s.now ∧
    ¬ armGroup.sched.since + 65536 ≤ 65535 ∧ (two.nextActive 0).map (·.1) = some 1 ∧ s.nextActive 0 = none ∧ two.activeOn 0 < 8 ∧
    (schedW fun d => { d with active := false, ready := true }).readyAt 0 = true := by decide +kernel

/-- An elastic group whose cursor is at `viadd v3, v4, v5`; a register file with and without room. -/
theorem meets_TeamsAndSets_fill :
    let s := ((laneWork fun w => { w with elastic := true }).placeBytes fetchPa
      (leBytesOf 12 (((encode (.viadd ctl 3 (.v 4) (.v 5))).map (·.2)).getD 0)))
    (s.group? 0).any (fun (g : Group) => missing s g fetchCursor == [4, 5, 3]) = true ∧ s.fileRoom 0 = true ∧
    s.anyDead 0 = false ∧
    (s.updGroup 0 fun g => { g with work := { g.work with cached := List.replicate 4096 9 } }).fileRoom 0 = false := by decide +kernel

def ctxS (st : CtxState) : State := (world false).updCtx 0 ({ · with state := st })
def suspended : State := (inHandler true).updGroup 0 fun g => { g with hold := .suspended }

/-- Contexts: a context in each state, with its next generation free and not; commands that end what runs; a frame that may leave
quarantine; a suspended group, named by its place; a watchdog at 2^24 cycles and one below. -/
theorem meets_Contexts :
    let s := world false
    s.pkg.power ≠ .off ∧ (ctxS .closed).pkg.markers = [] ∧ (ctxS .closed).ctxDone 0 = false ∧
    { ctxS .closing with teams := [], grids := [] }.ctxDone 0 = true ∧ (ctxS .closing).ctxDone 0 = false ∧
    (0x330000 : DWord).toNat / 2 ^ 16 % 2 ^ 36 * 2 ^ 16 < 2 ^ 41 ∧ ¬ (0x20000000000 : DWord).toNat / 2 ^ 16 % 2 ^ 36 * 2 ^ 16 < 2 ^ 41 ∧
    (⟨0x33, 0, false⟩ : QFrame).free 0 = true ∧ (⟨0x33, 1, false⟩ : QFrame).free 0 = false ∧ (⟨0x33, 1, true⟩ : QFrame).free 0 = true ∧
    suspended.suspendedAt 0 0x4000 = some 0 ∧ suspended.suspendedAt 0 0x4001 = none ∧ (0x4000 : DWord).toNat / 2 ^ 14 % 4 = 1 ∧
    (0x8000 : DWord).toNat / 2 ^ 14 % 4 = 2 := by decide +kernel

theorem meets_Contexts_kill :
    let s := world false
    gives (haltGroup 0 suspended) yes = true ∧
    gives (each (s.groups.filter fun y => y.2.ctx == 0) (fun y => haltGroup y.1) s) (fun _ s1 => gives (discardEntries 0 s1) fun _ s2 =>
      gives (stopCopies (fun _ k => k.ctx == 0) s2) fun _ s3 => gives (endGrids (2 ^ 63 + 0x300) s3.grids s3) yes) = true := by decide +kernel

theorem meets_Contexts_resume :
    (suspended.group? 0).any (fun (g : Group) => g.handler.isSome && g.faults.isEmpty && g.entry.isNone) = true ∧
    gives (partLoad 0 0 (pageVa 1) 0x270 suspended) (fun r s1 => r.isOk && (s1.group? 0).any fun (g : Group) => g.entry.isNone && g.faults.isEmpty) =
      true ∧
    (let bad := suspended.updGroup 0 fun g => { g with record := pageVa 8 }
     gives (partLoad 0 0 (pageVa 8) 0x270 bad) (fun r s1 => match r with
      | .error f => gives (logError 0 5 f.va.toNat s1) fun _ s2 => gives (killGroup 0 none s2) yes
      | .ok _ => false) = true) := by
  decide +kernel

theorem meets_Contexts_watchdog :
    ¬ 2 ^ 24 - 1 ≥ 2 ^ 24 ∧ ((inHandler true).group? 0).any (fun (g : Group) => g.handler.isSome && g.faults.isEmpty && g.hold == .none) = true ∧
    (let r : Rec := ⟨0, 2 ^ 24, fetchVa, 0, 0, 0, true, 12, 0, false, 0, false⟩
     gives (writeRec 0 r ((inHandler true).updGroup 0 fun g => { g with faults := [r], hold := .vectoring }))
      (fun _ s1 => gives (suspend 0 (s1.updGroup 0 ({ · with faults := [] }))) yes) = true) := by decide +kernel

/-- A frame in quarantine whose first line can be filled. -/
theorem meets_Contexts_quarantine :
    (world false).pkg.clock ≠ .stopped ∧ ((world false).updCtx 0 fun x => { x with quarantine := [⟨0x33, 0, false⟩] }).place (0x33 * 2 ^ 16) = .here ∧
    gives (zeroLines [0x33 * 512, 0x33 * 512 + 511] none (world false)) (fun f _ => f == some 1) = true := by decide +kernel

def pkgS (f : Pkg → Pkg) : State := { world false with pkg := f (world false).pkg }

/-- PowerStates: each state and each condition of a command or a timeout, and a value that does not meet it. -/
theorem meets_PowerStates :
    (pkgS fun p => { p with power := .ambient, firmware := some [] }).pkg.firmware ≠ none ∧
    gives (enterWarming (pkgS fun p => { p with power := .hold, drained := true, warmWanted := true })) yes = true ∧
    (List.replicate 48 (0 : Byte)).length = 48 ∧ 5399999 < 5400000 ∧ 59999 < 60000 ∧
    (pkgS fun p => { p with power := .hold, drained := true, clock := .stopped, tmax := 896 }).pkg.actsOn ≤ 896 ∧
    ¬ (pkgS fun p => { p with power := .hold, drained := true, tmax := 897 }).pkg.actsOn ≤ 896 ∧
    (∀ k ∈ Tab.vals (world false).cores, k.engine = []) ∧ { world false with grids := [] }.grids = [] ∧
    (pkgS fun p => { p with clock := .stopped }).pkg.clock = .stopped ∧ (world false).pkg.code = 0 := by decide +kernel

/-- Samples: every sensor reads, one does, none does; nine that fail. -/
theorem meets_PowerStates_sample :
    (List.replicate 64 (some (616 : BitVec 12))).length = 64 ∧ some 616 ∈ (some (616 : BitVec 12) :: List.replicate 63 none) ∧
    (List.replicate 64 (none : Option (BitVec 12))).all (· == none) = true ∧
    8 < (List.replicate 9 (none : Option (BitVec 12))).countP (· == none) := by decide

/-- The bands that a temperature of R315's table leads through: at each limit and one eighth past it. -/
theorem meets_PowerStates_bands : ∀ row ∈
    [(0, 736, []), (0, 737, [1]), (1, 713, []), (1, 712, [0]), (0, 1601, [1, 2, 3]), (2, 897, []), (2, 896, [1]), (3, 1576, [2]),
      (3, 700, [2, 1, 0])], Say.bandPath 4 row.1 row.2.1 = row.2.2 := by decide

theorem meets_PowerStates_hold :
    let s := holdS { fetchTeam 0 0 with saved := some ⟨0, pageVa 1⟩ }
    (∀ k ∈ Tab.vals s.cores, k.l1 = [] ∧ k.wb = []) ∧ s.rdc = [] ∧ s.pkg.warmWanted = false ∧ s.leadLog = [] ∧
    gives (each (Tab.keys s.cores) emptyCore s) (fun _ s1 => gives (each (List.range 8) flushRdc s1) fun _ s2 =>
      gives (warmIfDue { s2 with rdc := [], walks := [], pkg := { s2.pkg with drained := true, clock := .stopped } }) yes) = true := by
  decide +kernel

/-- Rows of the array walk: a tile that stands, a team, a register that has been written, its last sector and one past it. -/
theorem meets_PowerStates_walk :
    Tab.find? (slotsS (world false) [(1, tile0)]).teams 0 = some { fetchTeam 0 0 with slots := [(1, tile0)] } ∧
    Tab.find? [(1, tile0)] 1 = some tile0 ∧ Tab.find? (armGroup.work.setV 9 VVal.zero).v 9 = some VVal.zero ∧ 3 < 4 ∧ ¬ 4 < 4 := by
  decide +kernel

/-- FIPS 180-4: the digest of the three bytes abc begins and ends so (R330). -/
theorem test_sha384 : (sha384 [0x61, 0x62, 0x63]).take 8 = [0xCB, 0x00, 0x75, 0x3F, 0x45, 0xA3, 0x5E, 0x8B] ∧
    (sha384 [0x61, 0x62, 0x63]).drop 40 = [0x58, 0xBA, 0xEC, 0xA1, 0x34, 0xC8, 0x25, 0xA7] := by decide +kernel

def packet0 (gen : BitVec 12) : Packet := ⟨0, gen, 1, 0, .load 0x330000 8⟩
def mapped0 : State := pkgS fun p => { p with hdm := 1 }
/-- A package with one port whose flit 7 has been replayed `n` times. -/
def portS (n : Nat) : State := pkgS fun p => { p with ports := [⟨true, [(7, n)]⟩] }

/-- HostAndFabric: a request that performs, one that waits on a held line, one outside the HDM window; a range at the window's last
byte and past it; a line of the directory; a packet of an open generation and of another; flits at 15 and at 16 replays. -/
theorem meets_HostAndFabric :
    let s := mapped0
    let held := s.setHome line3 { (s.home line3) with held := true }
    gives ((Request.read 0x330000 8).run s) (fun r _ => r.isSome) = true ∧
    gives ((Request.read 0x330000 8).run held) yes = false ∧ gives ((Request.write 0x330000 [1, 2]).run s) (fun r _ => r == some []) = true ∧
    s.mapped (paRuns (2 ^ 28 - 1) 1) = true ∧ s.mapped (paRuns (2 ^ 28) 1) = false ∧
    s.windowed (paRuns (0x2FC0000000 - 1) 1) = true ∧ s.windowed (paRuns (2 ^ 41) 1) = false ∧ s.serves line3 = true ∧
    (packet0 0).dst = s.pkg.fabricNo ∧ s.genOpen 0 0 = true ∧ s.genOpen 0 1 = false ∧
    (portS 15).pkg.worn 0 = false ∧ (portS 16).pkg.worn 0 = true ∧ (s.pkg.ports.all (·.up)) = true ∧ s.pkg.ports ≠ [] ∧
    paRuns 0x330000 8 = [(0x330000, 0x330000, 8)] ∧ s.now < (s.core 320).cyc.toNat + (s.core 320).period := by decide +kernel

/-- No core of that package holds a line. -/
theorem meets_HostAndFabric_empty (c : Nat) : (mapped0.core c).l1 = [] ∧ (mapped0.core c).wb = [] := ⟨rfl, rfl⟩

/-- Accesses to another package whose packets are lost. -/
theorem meets_HostAndFabric_lost :
    let far : LoadEntry := { load0 with elems := [⟨0, pageVa 7, 0x2060000000000, 8, false⟩] }
    let farS : StoreEntry := { store0 with elems := [⟨0, pageVa 7, 0x2060000000000, [1, 2, 3, 4], 0, 0, false⟩] }
    let k := { cmd0 .cpy (pageVa 4) (pageVa 3) 100 with todo := [0x2060000000000 / 128] }
    heads (loadS far id) far = true ∧ far.line? = some (0x2060000000000 / 128) ∧
    region (0x2060000000000 / 128 * 128) = .peer 3 ∧ gives (loseAccess (.load 0 .arm) (loadS far id)) yes = true ∧
    gives (loseAccess (.store 0 .arm) (storeS farS id)) yes = true ∧ gives (loseAccess (.copyWrite 0 1 (0x2060000000000 / 128)) (engineS k)) yes =
      true ∧ gives (loseAccess (.load 0 .arm) (loadS load0 id)) yes = false := by decide +kernel

theorem meets_HostAndFabric_loss :
    let s := withL1 (world false) (.owned 5 0xF false)
    gives (each (s.groups.filter fun x => x.2.present && dieOf x.2.core == 0) (fun x => haltGroup x.1) s) (fun _ s1 =>
      gives (stopCopies (fun c _ => dieOf c == 0) s1) fun _ s2 => gives (faultWaiters 0 s2) yes) = true ∧
    ((world false).updCore 40 fun _ => { Core.init with l1 := [(line3, ⟨.owned 5 0xF false, image0⟩)] }).lostDirty 0 = [line3] := by
  decide +kernel

/-! ### Cases within those obligations

What meets the clauses of the obligations above that come apart by a case: a full unit, a poisoned sector, a lost packet, a limit. -/

/-- Fences: a core with a dirty byte in its buffer and another in its own copy of the line: both stand in home memory afterwards. -/
theorem meets_Fences_buffer :
    let s := dirtyWorld.updCore 0 fun k => { k with wb := [(line3, ⟨⟨Vector.replicate 128 9, 0⟩, 0x11⟩)] }
    Memory.wf s.mem = true ∧ gives (releaseCore 0 (Say.issuing s)) (fun _ t => (t.core 0).wb == [] && Memory.get t.mem 0x330000 == 7 &&
      Memory.get t.mem 0x330004 == 9 && Memory.get t.mem 0x330005 == 0) = true := by decide +kernel

/-- BarrierWords and ExitAndHalt: word 3 of the packet in a clean sector and in a poisoned one; a wait on it; a registered word at EXIT. -/
theorem meets_BarrierWords_poison :
    let word := barPacket.bar + 24
    let T := { barTeam ⟨false, 0, 64⟩ [0] [] with bad := [word / 32] }
    (∀ x ∈ List.range 8, (word + x) / 32 ∉ (barTeam ⟨false, 0, 64⟩ [0] []).bad) ∧ (word + 7) / 32 ∈ T.bad ∧
    { armGroup.work with bar := some ⟨3, false, 9, 0x2A⟩ }.bar = some ⟨(3 : BitVec 14).toNat, false, 9, 0x2A⟩ ∧ armGroup.present = true ∧
    armGroup.hold = .none ∧ armGroup.sched.active = true ∧ 0 ∈ (T.flags 3).reg ∧ (∀ j ∈ List.range 3, 0 ∉ (T.flags j).reg) ∧
    armGroup.work.recasts = [] := by decide +kernel

/-- What a recast plans in a state. -/
def plannedAs (r : Recast) (s : State) (p : Plan → Bool) : Bool := gives (planRecast 0 0 r s) fun x _ => x.any p
/-- The world with one entry of a page of its last table, and one with a count for the frame of page 3. -/
def withEntry (n e : Nat) : State := (world false).placeBytes (entryPa n) (leBytesOf 8 e)
def counted (n : Nat) : State := { world false with mapcnt := [(0x33, n)] }

/-- RecastPlans: a local frame whose count comes to 0 and one whose count does not; counts of 254 and 255, twice the same frame at
253 and 254; a list that names each page once, one that names a page twice, and one at an odd address; RSPL with an offset and with
no frame left. -/
theorem meets_RecastPlans_counts :
    let unmap := recast (.runm 1 3) (pageVa 3) 0 1
    let shared (n : DWord) := recast (.rals 1 2 3) (pageVa 8) (pageVa 3) n
    let twice (n : Nat) : State := { withEntry 4 0x33000B with mapcnt := [(0x33, n)] }
    plannedAs unmap (counted 1) (fun p => p.freed == [0x33] && p.counts == [(0x33, 0)]) = true ∧
    plannedAs unmap (counted 2) (fun p => p.freed == [] && p.counts == [(0x33, 1)]) = true ∧
    plannedAs (shared 1) (counted 254) (fun p => p.counts == [(0x33, 255)]) = true ∧ faults (planRecast 0 0 (shared 1) (counted 255)) = true ∧
    plannedAs (shared 2) (twice 253) (fun p => p.counts == [(0x33, 255)]) = true ∧ faults (planRecast 0 0 (shared 2) (twice 254)) = true := by
  decide +kernel

theorem meets_RecastPlans_list :
    let permute (y : DWord) := recast (.rprm 1 2 3) (pageVa 3) y 2
    let listed (bs : List Byte) : State := (world false).placeBytes 0x330080 bs
    (listed [1, 0, 0, 0]).place 0x330080 = .here ∧ isLocal (0x330080 / 128) = true ∧ 0x330080 % 128 + 4 ≤ 128 ∧
    gives (listBytes 0 0 (lineRuns (2 * 2 / 128 + 2) (pageVa 3 + 0x80).toNat 4) (listed [1, 0, 0, 0])) (fun r s2 => r.1 == [1, 0, 0, 0] &&
      Memory.wf s2.mem) = true ∧
    plannedAs (permute (pageVa 3 + 0x80)) (listed [1, 0, 0, 0]) (fun p => p.writes == [(entryPa 3, 0x340009), (entryPa 4, 0x33000B)]) = true ∧
    faults (planRecast 0 0 (permute (pageVa 3 + 0x80)) (listed [1, 0, 1, 0])) = true ∧ (pageVa 3 + 0x81).toNat % 2 = 1 ∧
    faults (planRecast 0 0 (permute (pageVa 3 + 0x81)) (listed [1, 0, 0, 0])) = true := by decide +kernel

/-- RecastPlans: an RSPL with an offset, with and without a frame in the pool; ranges that end at 2^57 and past it, that have no table,
that are under a large page, and that have an entry of the system class. -/
theorem meets_RecastPlans_ranges :
    let split := recast (.rspl 1 2 3) (pageVa 3 + 0x100) (pageVa 8) 1
    let pool := (world false).updCtx 0 fun x => { x with pool := [⟨0x40, none⟩] }
    let big := (world false).placeBytes (fetchRoot + 0x3008) (leBytesOf 8 0x400083)
    let stops (a : DWord) (f : XFault) (s : State) : Bool := match rangesM 0 0 1 [a] s with
      | .error (.faults [(0, g)]) _ => g == f
      | _ => false
    plannedAs split pool (fun p => p.dup == some (0x33, 0x40) && p.counts == [(0x40, 1)] && p.writes.head? == some (entryPa 8, 0x40000B)) = true ∧
    faults (planRecast 0 0 split (world false)) = true ∧
    stops 0x1FFFFFFFFFF0000 ⟨1, 3, 0x1FFFFFFFFFF0000, 0⟩ (world false) = false ∧
    stops 0x200000000000000 ⟨1, 3, 0x200000000000000, 0⟩ (world false) = true ∧
    stops (pageVa 32) ⟨1, 0, pageVa 32, 0⟩ (world false) = true ∧ stops (pageVa 32) ⟨4, 0, pageVa 32, 0⟩ big = true ∧
    stops (pageVa 6) ⟨3, 0, pageVa 6, 0x360013⟩ (world false) = true := by decide +kernel

/-- RecastPerforms: an RSPL that copies a page, with room in the engine and with none; its group's team; lines without an owner. -/
theorem meets_RecastPerforms_copy :
    let r := recast (.rspl 1 2 3) (pageVa 3 + 0x100) (pageVa 8) 1
    let pool := (recasting r.instr r.x r.y r.n).updCtx 0 fun x => { x with pool := [⟨0x40, none⟩] }
    let full := pool.updCore 0 fun c => { c with engine := List.replicate 16 (cmd0 .cpy 0 0 0) }
    let performs (s : State) (p : State → Bool) : Bool := (s.group? 0).any fun (g : Group) => gives (recastReady g r s) fun _ s1 =>
      gives (planRecast 0 0 r s1) fun x s2 => x.any fun (x : Plan) => x.dup == some (0x33, 0x40) && decide (s2.groups = s1.groups) &&
        gives (commitLines 0 (sortNat (dedup (x.writes.map (fun w => lineOf w.1) ++ x.held))) x.writes (s2.event 0 0 7)) fun _ s3 => p s3
    performs pool (fun s3 => (Tab.find? s3.teams 0).isSome && decide ((s3.core 0).engine.length < 16) &&
      (s3.home (0x40 * 512)).owner.isNone && (s3.home (0x40 * 512 + 511)).owner.isNone) = true ∧ isLocal (0x40 * 512) = true ∧
    performs full (fun s3 => decide (16 ≤ (s3.core 0).engine.length)) = true := by decide +kernel

/-- An entry at level 1 of a table, which every check reads. -/
def table1 (e : Nat) : State := (world false).placeBytes (fetchRoot + 0x3008) (leBytesOf 8 e)
def poisonedAt (s : State) (pa : Nat) : State := { s with poison := [pa / 32] }

/-- QueryAndMap: a walk's entry on another package and beyond memory, poisoned, a leaf, not valid and not well formed, and one that
leads on; the same of a path, with a large page that is well formed and one that is not, and a gap of RMAP's. -/
theorem meets_QueryAndMap_levels :
    let s := world false
    let at_ (s : State) (p : State → Nat → Bool) : Bool := s.place (fetchRoot + 0x3008) == .here &&
      gives (readHome 0 ((fetchRoot + 0x3008) / 128) s) fun w s1 => gives (jump 0 w.1 s1) fun _ s2 => p s2 (fetchRoot + 0x3008)
    let path (rmap : Bool) (s : State) : Option PathEnd := match pathLevels 0 (pageVa 32) rmap [1] (fetchRoot + 0x3000) s with
      | .ok p _ => some p
      | .error _ _ => none
    (fetchRoot + 0x3000 + 8 * bitsOf (pageVa 32) 29 21 = fetchRoot + 0x3008) ∧ s.place (2 ^ 51) = .error ∧
    { s with pkg := { s.pkg with fabricNo := 3 } }.place (2 ^ 51) = .error ∧
    at_ (table1 0x400083) (fun s2 pa => (s2.entryAt pa).getLsbD 0 && (s2.entryAt pa).getLsbD 7 && leafWellFormed (s2.entryAt pa) 1) = true ∧
    at_ (poisonedAt (table1 1) (fetchRoot + 0x3008)) (fun s2 pa => s2.poison.contains (pa / 32)) = true ∧
    at_ (table1 (fetchRoot + 0x4000 + 1)) (fun s2 pa => descWellFormed (s2.entryAt pa) 1) = true ∧
    at_ (table1 3) (fun s2 pa => !descWellFormed (s2.entryAt pa) 1) = true ∧ path false s = some (.bad ⟨1, 0, pageVa 32, 0⟩) ∧
    path true s = some (.gap (fetchRoot + 0x3008)) ∧ path true (table1 0x410083) = some (.bad ⟨1, 2, pageVa 32, 0x410083⟩) ∧
    path true (table1 0x400083) = some .big ∧ path false (table1 3) = some (.bad ⟨1, 2, pageVa 32, 3⟩) ∧
    gives (takeLine ((fetchRoot + 0x3008) / 128) s) (fun _ s0 => s0.entryAt (fetchRoot + 0x3008) == 0) = true := by decide +kernel

/-- QueryAndMap: RMAP's count at 0, 1, 65,536 and past it, its class 3, an address off a page, a range to 2^57 and past it; its paths; a
chunk under a table, under a large page, in a gap with and without a frame, and after the pool ran dry; a poisoned entry. -/
theorem meets_QueryAndMap_ranges :
    let s := (world false).updCtx 0 fun x => { x with pool := [⟨0x40, none⟩, ⟨0x41, none⟩] }
    let maps (x y : DWord) (s : State) (n : Nat) : Bool := gives (mapRange 0 0 x y s) fun k _ => k == n
    let stops (x y : DWord) (f : XFault) : Bool := match mapRange 0 0 x y s with
      | .error (.faults [(0, g)]) _ => g == f
      | _ => false
    let table := fetchRoot + 0x4000
    stops (pageVa 8) 0xA ⟨2, 2, pageVa 8, 0⟩ = true ∧ stops (pageVa 8) 0x100010000000A ⟨2, 2, pageVa 8, 0⟩ = true ∧
    stops (pageVa 8) 0x10000001A ⟨2, 2, pageVa 8, 0⟩ = true ∧ stops (pageVa 8 + 8) 0x10000000A ⟨4, 0, pageVa 8 + 8, 0⟩ = true ∧
    stops 0x1FFFFFFFFFF0000 0x20000000A ⟨1, 3, 0x1FFFFFFFFFF0000, 0⟩ = true ∧
    (0x1FFFFFFFFFF0000 : DWord).toNat + bitsOf (0x10000000A : DWord) 63 32 * 65536 ≤ 2 ^ 57 ∧
    maps (pageVa 8) 0x10000000A s 1 = true ∧ maps (pageVa 8) 0x30000000A s 2 = true ∧ maps (pageVa 32) 0x10000000A s 1 = true ∧
    maps (pageVa 32) 0x10000000A (world false) 0 = true ∧ maps (pageVa 32) 0x10000000A (table1 0x400083) 0 = true ∧
    gives (mapPaths 0 0 (rangeChunks (pageVa 31) 2) s) (fun ps _ => ps.map (·.2) == [.table table, .gap (fetchRoot + 0x3008)]) = true ∧
    faults (mapPaths 0 0 (rangeChunks 0 1) s) = true ∧
    gives (tableEntries table (pageVa 31).toNat 1 s) (fun es s1 => es.map (·.e) == [0] && s1.poison == [] && s1.place (entryPa 31) == .here) =
      true ∧ faults (tableEntries table (pageVa 31).toNat 1 (poisonedAt s (entryPa 31))) = true := by decide +kernel

/-- CopyIssue: a list step of a GATH and of a SCAT, from page 4 and from a page that a load of it can take; of each command's fields
those at a limit and those past it. -/
theorem meets_CopyIssue_legal :
    let b : Block := ⟨0, 0, 0, 0, 0, 0, 0, 0⟩
    let some_ := some tile0
    let legal (k : CmdKind) (bs : List Block) : List Bool := bs.map fun b => b.legal k some_
    legal .cpy [{ b with arg := 0x100000000 }, { b with arg := 0x100000001 }] = [true, false] ∧
    legal .cpys [{ b with ext0 := 0x100010000 }, { b with ext0 := 0x10000 }, { b with ext3 := 0x1000000000 }, { b with ext3 := 0x800000000 }] =
      [true, false, true, false] ∧
    legal .cpyw [{ b with arg := 0x221030500010003 }, { b with arg := 0x221030600010003 }, { b with arg := 0x221080500010003 },
      { b with arg := 0x321030500010003 }, { b with arg := 0x220030500010003 }] = [true, false, false, false, false] ∧
    legal .scat [{ b with arg := 0x1000000010000 }, { b with arg := 0x1000000000000 }, { b with arg := 0x1000000010001 },
      { b with arg := 1, ext0 := 2 }] = [true, false, false, false] ∧
    legal .cpyob [{ b with dst := 63, arg := 16, flags := 2 }, { b with dst := 64 }, { b with src := 8 }] = [true, false, false] ∧
    legal .fred [{ b with arg := 0x600100000, ext0 := 0x10000 }, { b with arg := 0x600100001, ext0 := 0x10000 }, { b with arg := 0x200000001, ext0 := 0x10000 },
      { b with arg := 1 }] = [true, false, false, false] := by decide +kernel

theorem meets_CopyIssue_steps :
    let s := copying (va 4) (2 * 2 ^ 32 + 16) (va 3 + 0x1000) (va 4 + 124) 64 []
    gives (groupLoad armGroup (pageVa 3) 64 64 s) (fun bs s1 => decide (s1.groups = s.groups) &&
      ((Block.ofBytes bs).listRuns []).map (fun r => (r.1, r.2.2)) == [(va 4 + 124, 4), (va 4 + 128, 4)] &&
      gives (dstPages armGroup false [(va 3 / 0x10000, pageVa 3 + 0x1000)] { s1 with nextSeq := s1.nextSeq + 1 }) (fun _ s2 =>
        gives (groupLoad armGroup (BitVec.ofNat 64 (va 4 + 124)) 4 4 s2) fun r _ => r.length == 4)) = true := by decide +kernel

/-- Rounding, sums, products and functions: a sum that is not zero and the two kinds that are; a root with an even and an odd exponent;
2^a at a whole number and beside one, at 2^12 and below; log2 at a power of two and beside one. -/
theorem meets_rounding_functions :
    let fin (neg : Bool) (m : Nat) (e : Int) : FVal := .fin ⟨neg, m, e, false⟩
    let stickyIs (b : Bool) (v : FVal) : Bool := match v with
      | .fin x => x.sticky == b && x.m != 0
      | _ => false
    FVal.add false (fin false 3 0) (fin true 1 1) = fin false 1 0 ∧ FVal.add true (fin false 1 1) (fin true 2 0) = fin true 0 0 ∧
    FVal.add false (fin true 0 0) (fin true 0 0) = fin true 0 0 ∧ FVal.mul (fin true 3 1) (fin false 5 (-2)) = fin true 15 (-1) ∧
    stickyIs false (FFun.rsq.apply (fin false 1 (-2))) = true ∧ stickyIs true (FFun.rsq.apply (fin false 1 (-1))) = true ∧
    FFun.exp2.apply (fin true 6 (-1)) = fin false 1 (-3) ∧ stickyIs true (FFun.exp2.apply (fin false 5 (-1))) = true ∧
    (Nat.log2 4095 : Int) + 0 < 12 ∧ 12 ≤ (Nat.log2 4096 : Int) + 0 ∧ FFun.log2.apply (fin false 4 (-5)) = fin true 3 0 ∧
    stickyIs true (FFun.log2.apply (fin false 3 0)) = true ∧ 0xFFFFFF < 2 ^ 24 := by decide +kernel

/-- LockMoves: a time limit of 3 with 2 ticks counted and with 3; no limit and a limit of 0; a group whose deadlock record counts in its
entry and one whose does not. -/
theorem meets_LockMoves_expired :
    let q : LockReq := { req0 with limit := some 3, ticks := 3 }
    let s := lockS fun g => { g with requests := [q] }
    s.waiting 0 = none ∧ (((lockS fun g => { g with requests := [{ q with ticks := 2 }] }).setHome line3
      { ((world false).home line3) with holder := some 1, queue := [0] }).waiting 0).map (·.2) = some line3 ∧
    2 < 3 ∧ 3 ≤ q.ticks ∧ ({ q with limit := none }).limit = none ∧ q.failed = none ∧
    armGroup.handler = none ∧ armGroup.hold ≠ .vectoring ∧ ((inHandler true).group? 0).any (·.handler.isSome) = true := by decide +kernel

/-- DeviceLaunch: a doorbell of a queue whose context is closed. -/
theorem meets_DeviceLaunch_closed :
    let s := (queueS (world false)).updCtx 0 fun x => { x with state := .closed }
    s.pkg.power ≠ .off ∧ (s.queue 5).ctx = some 0 ∧ (s.ctx 0).state = .closed ∧
    min ((1 : BitVec 32) - BitVec.ofNat 32 (s.queue 5).tail).toNat (2 ^ (s.queue 5).c - (s.queue 5).entries.length) = 1 := by decide +kernel

/-- CursorMoves: a table entry where no memory is, whose error response has a physical address. -/
theorem meets_CursorMoves_error :
    gives (readEntry armGroup (pageVa 9) (withEntry 9 0x3FFFFF000B)) (fun r s2 => match r with
      | .error f => f.cls == 11 && f.aux == 0x3FFFFF0000 &&
          gives (raiseLogged 0 0 [⟨f.va, 0, pageVa 9, 0, 1, 0, false, f.cls, f.sub, false, 0, false⟩] [f.aux.toNat] s2) yes
      | .ok _ => false) = true := by decide +kernel

/-- MatrixPerforms: MDRN without an active lane; an MDST whose rows of a pair differ and agree; a group with an elastic budget and a
register in its cache and outside; a drain of two rows whose second traps. -/
theorem meets_MatrixPerforms_pairs :
    let rows : List (Nat × List Word) := [(0, [1, 2]), (16, [1, 3])]
    let differs : List (Nat × Word × Word) := rows.filterMap fun x => (rows.find? (·.1 == x.1 + 16)).bind fun y =>
      ((x.2.zip y.2).find? fun p => p.1 != p.2).map fun p => (x.1, p.1, p.2)
    let trapOn := { trapMon with hi := 0x3F800000 }
    (matS (.mdrn 4 2 0 3) Monitor.init).nextMatrix 0 [{ mat0 (.mdrn 4 2 0 3) with mask := 0 }] [] [] =
      some { mat0 (.mdrn 4 2 0 3) with mask := 0 } ∧
    { mat0 (.mdst 2 3 false) with pair := true }.pair = true ∧ differs = [(0, 2, 3)] ∧
    (4 ∈ ({ armGroup.work with elastic := true, cached := [4] }).cached ∧ 5 ∉ ({ armGroup.work with elastic := true, cached := [4] }).cached) ∧
    (drainRows trapOn [(0, [0x3F800000, 0]), (1, [0, 0x40000000])]).2.2 = some (1, 0x40000000) ∧
    gives (raise 0 0 [⟨pageVa 3, 0x300000002, fetchVa, 0, 1, 0, false, 9, 0, true, 0, false⟩] (matS (.mdst 2 3 false) Monitor.init)) yes =
      true := by decide +kernel

/-- LoadMoves: a device-scope load of a line that the core does not hold and of one with an expired lease, with the RDC's copy served
and renewed; a precise fault younger and older than the one noted. -/
theorem meets_LoadMoves_miss :
    let k (s : State) : Bool := gives (leaveNoncoh 0 line3 (s.event 0 0 4)) fun _ s1 => gives (renew 0 0 line3 s1) fun copy _ =>
      match copy.kind with
      | .leased .. => true
      | _ => false
    let far (rts : Time) : State := { world false with rdc := [(rdcKey 1 line3, ⟨image0, 5, rts, false, 0⟩)] }
    let serves (s : State) : Bool := gives (leaveNoncoh 40 line3 (s.event 40 0 4)) fun _ s1 => (s1.rdcLine 40 line3).any fun r =>
      !r.noncoh && leaseServes (s1.core 40).pts r.rts
    k (world false) = true ∧ leaseServes ((world false).core 0).pts 0x8000 = false ∧ k (withL1 (world false) (.leased 0 0x8000)) = true ∧
    serves (far 9) = true ∧ serves (far 0x8000) = false ∧ ({ armGroup.work with back := some 5 }).back = some load0.acc.seq ∧
    ({ armGroup.work with back := some 6 }).back = some (load0.acc.seq + 1) := by decide +kernel

/-- DrainMoves: a release behind an older load of its stream, behind one that is a lock request of a group on its way to its handler, and
behind none; the bytes of a group's place in the save area, at each end, and beside it; an SST whose home is lost; standing clocks. -/
theorem meets_DrainMoves_release :
    let rel : Access := { store0.acc with order := .rel }
    let loc := lineOf 0x310268
    let s := storeS store0 id
    load0.acc.stream = rel.stream ∧ load0.acc.level = rel.level ∧ load0.acc.older rel = true ∧ { load0 with kind := .lock }.kind = .lock ∧
    Tab.find? s.teams armGroup.team = some (fetchTeam 0 0) ∧ { load0.acc with seq := 9 }.older rel = false ∧
    loc % 512 = 4 ∧ s.peekPa 0 (armGroup.record + 0x268) = some (loc * 128 + 0x68) ∧
    (s.open_ loc (BitVec.allOnes 128)).getLsbD 0x67 = true ∧ (s.open_ loc (BitVec.allOnes 128)).getLsbD 0x68 = false ∧
    (s.open_ loc (BitVec.allOnes 128)).getLsbD 0x6F = false ∧ (s.open_ loc (BitVec.allOnes 128)).getLsbD 0x70 = true ∧
    (let lost := { s with pkg := { s.pkg with lost := [0] } }
     lost.place 0x330000 = .lost 0 ∧ gives (releaseM armGroup store0.acc lost) yes = true ∧
     gives (raise 0 0 [⟨pageVa 3, 0, fetchVa, 0, 0, 0, false, 10, 0, false, 0, false⟩] lost) yes = true) ∧
    (let halted := { s with pkg := { s.pkg with clock := .stopped } }
     writes halted store0.acc = true ∧ gives (storeHome 0 line3 image0 1 halted) (fun w s1 => w == (halted.core 0).pts && decide (s1.homes = halted.homes)) =
       true) := by decide +kernel

/-- AtomicMoves: a class-0 atomic on a line that the core owns and on one that it comes to own; one whose home is lost. -/
theorem meets_AtomicMoves_owned :
    let s := storeS (atom0 .non .grp .rlx .arm) id
    sources (withL1 s (.owned 5 0 false)) (atom0 .non .grp .rlx .arm) = true ∧ sources s (atom0 .non .core .rlx .arm) = true ∧
    sources (withL1 s (.noncoh 0)) (atom0 .non .grp .rlx .arm) = true ∧ s.serves line3 = true ∧ (s.home line3).owner = none ∧
    (s.core 0).setFull line3 = false ∧
    gives (atomSource armGroup (atom0 .non .grp .rlx .arm).acc line3 s) (fun _ t => (t.home line3).owner == some 0) = true ∧
    placeFault (pageVa 3) 0x330000 (.lost 0) = some ⟨10, 0, pageVa 3, 0⟩ ∧ placeFault (pageVa 3) 0x330000 .error = some ⟨11, 0, pageVa 3, 0x330000⟩ := by
  decide +kernel

/-- CacheMoves: a buffer that holds the line, beside an owned copy; a core at a fence of device scope, at one of group scope, with a recast and with a
fault record; a non-coherent line with and without dirty bytes; standing clocks. -/
theorem meets_CacheMoves_release :
    let at_ (i : Instr) : State := (world false).placeBytes fetchPa (leBytesOf 4 (((encode i).map (·.2)).getD 0))
    let buffered := (withL1 (world false) (.owned 5 1 false)).updCore 0 ({ · with wb := [(line3, ⟨image0, 2⟩)] })
    (at_ (.fence .dev .rel)).atFence armGroup = true ∧ (at_ (.fence .grp .rel)).atFence armGroup = false ∧
    (at_ (.fence .sys .acq)).releaseWaits 0 = true ∧ (at_ (.fence .core .rel)).releaseWaits 0 = false ∧
    (recasting (.rpin 1 3) 0 0 0).releaseWaits 0 = true ∧ faulted.releaseWaits 0 = true ∧
    Tab.find? (buffered.core 0).wb line3 = some ⟨image0, 2⟩ ∧ gives (writebackBuffer 0 line3 buffered) yes = true ∧
    gives (leaveNoncoh 0 line3 (withL1 (world false) (.noncoh 3))) (fun _ t => Memory.get t.mem 0x330001 == 7 && Memory.get t.mem 0x330002 == 0) =
      true ∧ remoteTo 0 line3 = false ∧
    gives (stampLead 10 { world false with pkg := { (world false).pkg with clock := .stopped } }) yes = true := by decide +kernel

/-- Clocks: a pending group that its tick makes ready and one that waits on; a jump with the clocks standing. -/
theorem meets_Clocks_wake :
    let pending (g : Group) : State := { world false with groups := [(0, { g with sched := { g.sched with active := false } })] }
    let bar : Group := { armGroup with work := { armGroup.work with bar := some ⟨3, false, 9, 0⟩ } }
    let waiting : State := { pending bar with grids := [(0, { fetchGrid with packet := barPacket })], teams := [(0, barTeam ⟨false, 0, 64⟩ [] [])] }
    let woken (s : State) : Bool := ((s.wake 0).group? 0).any fun (g : Group) => g.sched.ready && g.sched.readyAt == s.now
    woken (pending armGroup) = true ∧ woken waiting = false ∧ woken (pending { armGroup with hold := .suspended }) = false ∧
    gives (jump 0 5 State.reset) (fun _ t => decide (t = State.reset)) = true := by decide +kernel

/-- CopyMoves: a FRED of 32 elements in page 4 (R278), read clean and with a poisoned sector; its last line and one before; it opens its
reduction, joins one that matches, meets one that does not and one that has every contribution; another package is the root. -/
theorem meets_CopyMoves_fred :
    let b : Block := ⟨pageVa 4, 32 + 0x4000 * 2 ^ 32, pageVa 3 + 0x1000, 1 * 2 ^ 16 + 7, 0, 0, 0, 0⟩
    let k : Cmd := { cpy0 with kind := .fred, block := b, read := [], todo := [line3 + 32] }
    let s := engineS k
    let send (f : Option Fred) (n : BitVec 8) : State := let s := engineS { k with read := [read0] }
      { s with pkg := { s.pkg with fabricNo := n, freds := (f.map ((7, ·))).toList } }
    let open_ (got : Nat) (ty : BitVec 4) : Option Fred := some { Fred.opened 32 ty 0x40 2 0 with got := got }
    (s.unread k).map (·.1) = [va 4] ∧ ({ k with block := { b with arg := 33 } }).kind = .fred ∧
    (s.unread { k with block := { b with arg := 33 } }).map (·.1) = [va 4, va 4 + 128] ∧
    gives (sourcePa 0 k (va 4) (pageVa 4) s) (fun r s1 => match r with
      | .ok pa => s1.place pa == .here && decide ((s1.sourceData k (lineOf pa)).poison = 0) && !(s1.home (lineOf pa)).held
      | .error _ => false) = true ∧
    gives (sourcePa 0 k (va 4) (pageVa 4) { s with poison := [0x340000 / 32] }) (fun r s1 => match r with
      | .ok pa => (s1.sourceData k (lineOf pa)).poison.getLsbD 0 && gives (stallCmd 0 k ⟨8, 0, pageVa 4, 0⟩ s1) yes
      | .error _ => false) = true ∧
    gives (fredSend 0 1 (send none 0)) (fun _ t => (Tab.find? t.pkg.freds 7).any (·.got == 1) && (t.cmd? 0 1).any (·.sent)) = true ∧
    gives (fredSend 0 1 (send (open_ 1 0) 0)) (fun _ t => (Tab.find? t.pkg.freds 7).any (·.got == 2)) = true ∧
    gives (fredSend 0 1 (send (open_ 1 6) 0)) (fun _ t => (t.cmd? 0 1).isNone && (t.core 0).status.any (·.err)) = true ∧
    gives (fredSend 0 1 (send (open_ 2 0) 0)) yes = false ∧
    gives (fredSend 0 1 (send none 3)) (fun _ t => (Tab.find? t.pkg.freds 7).any (·.got == 1) && (t.cmd? 0 1).isNone) = true := by
  decide +kernel

/-- CopyMoves: what a contribution is: a number, and one that is none; results that saturate and do not; a tile's element that its
source gives and one whose read got an error; a line of no byte to write (a group's place in the save area). -/
theorem meets_CopyMoves_values :
    contribution 0 0 0x3F800000 = some (2 ^ 64) ∧ contribution 1 0 0x7F80 = none ∧ contribution 6 0x40 0xFFFFFFFF = some (-1) ∧
    contribution 6 0x41 3 = some 2 ∧ fredResult 6 0x40 (2 ^ 31) false = 0x7FFFFFFF ∧ fredResult 0 0x40 (-3) false = 0xC0400000 ∧
    fredResult 1 0x40 0 true = 0x7FC0 ∧
    (let ob := { cmd0 .cpyob (pageVa 4) 5 0 with todo := [5], read := [read0, { read0 with va := va 4 + 128, bad := true }] }
     Tab.get (ob.tile tile0).data 5 0 = 7 ∧ Tab.get (ob.tile { tile0 with data := [(5, 9)] }).data 5 0 = 7 ∧ (ob.tile tile0).tpois = false) ∧
    (∀ p ∈ cpy0.pages, p.pa % 65536 = 0) ∧
    (let k := { cmd0 .cpy (pageVa 4) (pageVa 1 + 0x268) 8 with todo := [lineOf 0x310268], read := [read0]
                                                               pages := [⟨va 1 / 0x10000, 0x310000, .dev, 0⟩] }
     let s := (engineS k).setHome (lineOf 0x310268) { ((world false).home line3) with records := [(0, 1)] }
     s.open_ (lineOf 0x310268) (k.outLine ((k.runs 0).filter (·.line == lineOf 0x310268))).2 = 0 ∧
     gives (lineDone 0 1 (lineOf 0x310268) none none s) yes = true) := by decide +kernel

/-- CopyMoves: the pieces of each command. -/
theorem meets_CopyMoves_pieces :
    let k (kind : CmdKind) (b : Block) : Cmd := { cmd0 kind 0 0 0 with block := b }
    (k .cpys ⟨0, 1 * 2 ^ 48 + 2 * 2 ^ 32 + 16, 0x1000, 1 * 2 ^ 48 + 1 * 2 ^ 32 + 1 * 2 ^ 16 + 1, 16, 32 * 2 ^ 32, 0, 0⟩).pieces =
      [⟨0x1000, none, 16, 0, some 1, false⟩, ⟨0x1020, none, 16, 0, some 2, false⟩] ∧
    (k .cpyw ⟨0x100, 0x011010100010002, 0x1000, 8, 0, 0, 0, 0⟩).pieces.map (·.pad) =
      [true, true, true, true, true, false, false, true, true, true, true, true] ∧
    ({ k .gath ⟨0, 16, 0x1000, 0, 2, 64, 0, 0⟩ with index := [1, 5] }).pieces = [⟨0x1000, none, 16, 64, none, false⟩, ⟨0x1010, none, 16, 320, none, true⟩] ∧
    ({ k .scat ⟨0, 16, 0x1000, 0, 2, 64, 0, 0⟩ with index := [5, 1] }).pieces = [⟨0x1040, none, 16, 16, none, false⟩] := by decide +kernel

/-- Launching: an entry for each code of R286 that one can have (fifteen teams of registers never pass 4,096), and one of two codes; a core
with room for 31 groups more and not for 32, with the pinned registers that elastic groups leave and one more; a save area that has 64
records and no 65th; tiles that stand whole and at the grid's edge. -/
theorem meets_Launching_codes :
    let code (l : List (Nat × Byte)) : Option Nat := ({ entry0 with image := l.foldl (fun b p => b.set p.1 p.2) image1 } : QEntry).check
    [[(0x58, 0)], [(0x64, 7)], [(0x5C, 1)], [(0x68, 1)], [(0x5A, 4)], [(0x10, 3)], [(0x6C, 4)], [(0x50, 255), (0x51, 255), (0x52, 255), (0x53, 255), (0x54, 2)],
      [(0x10, 3), (0x58, 2)], [(0x64, 8)]].map code = [some 1, some 2, some 4, some 5, some 6, some 7, some 8, some 10, some 1, none] := by decide +kernel

theorem meets_Launching_room :
    let s := world false
    let p : LaunchPacket := { fetchPacket with gx := 3, gy := 2, gz := 2, curve := 1, tile := 1 }
    s.hasRoom 0 ⟨31, 0, 0, 0, 0⟩ [] = true ∧ s.hasRoom 0 ⟨32, 0, 0, 0, 0⟩ [] = false ∧ s.hasRoom 1 ⟨1, 0, 0, 3840, 1⟩ [] = true ∧
    s.hasRoom 1 ⟨1, 0, 0, 3841, 1⟩ [] = false ∧ s.findCore 0 ⟨32, 0, 0, 0, 0⟩ = some 1 ∧ s.findCore 319 ⟨32, 0, 0, 0, 0⟩ = some 319 ∧
    ((saveArea s).ctx 0).hasUnits 32 = true ∧ ((saveArea s).ctx 0).hasUnits 33 = false ∧
    teamIndex p 4 = 2 ∧ teamIndex p 5 = 5 ∧ teamIndex p 6 = 6 ∧ (List.range 4).map (tileNth 2 1 2 2) = (List.range 4).map (Say.curvePoint 2 1) ∧
    Tab.find? s.grids (fetchTeam 0 0).grid = some fetchGrid ∧ s.gridOver 0 fetchGrid = false := by decide +kernel

/-- TeamsAndSets: what a team's save writes of its scratchpad, of a slot. -/
theorem meets_TeamsAndSets_units :
    let p : LaunchPacket := { fetchPacket with scratch := 1024, obuf := 16384 }
    let T := { fetchTeam 0 0 with scratch := [(1023, 5)], slots := [(3, { tile0 with data := [(0, 9), (16383, 8)] })] }
    recordUnits p = 1 ∧ 1023 < p.scratch ∧ T.slots[0]? = some (3, { tile0 with data := [(0, 9), (16383, 8)] }) ∧ (tile0.fmt ≠ .acc ∧ tile0.fmt ≠ .bf16) ∧
    1024 + 16384 * 0 + 1 * 16383 + 0 < 65536 * recordUnits p ∧
    (T.saveUnits p).map (fun (u : Nat × List Byte) => (u.1, u.2[1023]?, u.2[1024]?)) = [(0, some (5 : Byte), some (9 : Byte))] := by decide +kernel

/-- TeamsAndSets: a group in its handler comes back: its block, its place, and what stands beside them. -/
theorem meets_TeamsAndSets_back :
    let s := inHandler true
    (s.group? 0).any (fun (g : Group) => gives (recordStore 0 0x268 (leBytesOf 8 (g.core / 40 % 8 + g.core % 40 * 8 + g.slot % 32 * 512)) s)
      fun ok s2 => ok && gives (loadParts 0 (g.savedParts.drop 1 ++ g.works.flatMap fun (own, w) => fileParts own w) s2) fun ok _ => ok) = true ∧
    gives (recordLoad 0 0x7000 128 (s.updGroup 0 ({ · with record := pageVa 8 }))) (fun b _ => b.isNone) = true := by decide +kernel

/-- TeamsAndSets: the registers that a group's own elastic work keeps in the file while its handler runs, beside those of another group; a victim among
them that is the least recently used, and one that is not; a group whose work has a cursor has dead registers. -/
theorem meets_TeamsAndSets_victims :
    let own : Work := { armGroup.work with elastic := true, cached := List.replicate 4095 9 ++ [7], used := [(7, 1), (9, 2)] }
    let s := (inHandler true).updGroup 0 fun g => { g with handler := g.handler.map ({ · with saved := own }) }
    let running := (laneWork fun w => { w with elastic := true, cached := [9] })
    (s.elasticOn 0).map (fun h => (h.gid, h.own)) = [(0, true)] ∧ s.fileRoom 0 = false ∧ s.anyDead 0 = false ∧ s.fileUsed 0 = 4096 + (s.used 0 []).pinned ∧
    s.mayEvict 0 ⟨0, 7, true⟩ = true ∧ s.mayEvict 0 ⟨0, 9, true⟩ = false ∧ s.mayEvict 0 ⟨0, 7, false⟩ = false ∧
    gives (recordStore 0 (0x8000 + 128 * 7) (List.replicate 128 0) s) (fun ok _ => ok) = true ∧
    s.victimOn 0 = some ⟨0, 7, true⟩ ∧ gives (evictVictim 0 ⟨0, 7, true⟩ s) yes = true ∧
    (running.updGroup 0 fun g => { g with work := { g.work with cur0 := g.work.cur0.map ({ · with start := some fetchVa }) } }).anyDead 0 = true ∧
    running.fileRoom 0 = true := by decide +kernel

/-- Contexts: a handler whose time is up and whose watchdog record still waits; one that was resumed leaves its recasts to the group. -/
theorem meets_Contexts_again :
    let late : State := (inHandler true).updGroup 0 fun g => { g with
      faults := [⟨0, 2 ^ 24, fetchVa, 0, 0, 0, true, 12, 0, false, 0, false⟩], handler := g.handler.map ({ · with ran := 2 ^ 24 }) }
    (late.group? 0).any (fun (g : Group) => g.faults.any (·.cls == 12) && (g.handler.map (·.ran)) == some (2 ^ 24)) = true ∧
    (inHandler true).updGroup 0 (fun g => { g with handler := g.handler.map ({ · with ran := 2 ^ 24 }) }) ≠ late := by decide +kernel

/-- PowerStates: a part that leaves HOLD with a saved team that finds room and one that finds none; clocks that may stop at a full tick and
not before; a register that no one holds. -/
theorem meets_PowerStates_exit :
    let exiting (T : Team) : State := { world false with teams := [(0, T)], pkg := { (world false).pkg with exiting := true, power := .retreat } }
    let saved : Team := { fetchTeam 0 0 with saved := some ⟨0, pageVa 1⟩ }
    let nowhere (s : State) : State := { s with pkg := { s.pkg with lost := List.range 8 } }
    let placed (s : State) : Bool := (Tab.vals s.teams).all fun X => X.saved.isNone || (List.range 320).all fun c => !s.hasRoom c (s.teamRoom X) []
    placed (exiting saved) = false ∧ placed (nowhere (exiting saved)) = true ∧ placed (exiting (fetchTeam 0 0)) = true ∧
    (∀ k ∈ List.range 321, (world false).now < ((world false).core k).cyc.toNat + ((world false).core k).period) ∧
    ¬ { world false with now := 64 }.now < ((world false).core 3).cyc.toNat + ((world false).core 3).period ∧
    ¬ armGroup.work.budget < armGroup.work.budget ∧ armGroup.work.elastic = false ∧ (0 : Nat) < armGroup.work.budget := by decide +kernel

/-- A world whose page 8 lies at package 3, in the system class, with code, data and tables there. -/
def peerWorld : State := withEntry 8 0x2060000000017
def toPeer (va : DWord) (r : Right) : Bool := gives (accessAt 0 0 va r none false false peerWorld) fun x _ => match x with
  | .ok x => region (lineOf x.pa * 128) == .peer 3
  | .error _ => false

/-- HostAndFabric: a read and a write of the host of a line that a core owns dirty; the bytes of a group's place in the save area and
others of its line; copy data with clocks that run; a peer's address with all ports down. -/
theorem meets_HostAndFabric_recall :
    let s := { withL1 mapped0 (.owned 5 1 false) with homes := [(line3, { (world false).home line3 with owner := some 0 })] }
    s.pkg.snooped = [] ∧ gives ((Request.read 0x330000 8).run s) (fun r s1 => r.map (fun l => l.take 2) == some [7, 0] && Memory.get s1.mem 0x330000 == 7) = true ∧
    (paRuns 0x310268 8).length = 1 ∧ lineOf 0x310268 % 512 = 4 ∧ lineOf 0x330000 % 512 ≠ 4 ∧
    gives ((Request.write 0x310268 [1, 2, 3, 4, 5, 6, 7, 8]).run mapped0) (fun r s1 => r == some [] && Memory.get s1.mem 0x310268 == 0) = true ∧
    gives ((Request.write 0x310260 [1]).run mapped0) (fun r s1 => r == some [] && Memory.get s1.mem 0x310260 == 1) = true ∧
    mapped0.windowed (paRuns 0x310268 8) = true ∧ mapped0.serves (lineOf 0x310268) = true ∧
    gives (packetEffect (.copyData 0x330000 [1]) mapped0) (fun r t => r == some [] && (Tab.find? t.homes line3).any (·.wts == 1)) = true ∧
    { world false with pkg := { (world false).pkg with ports := [⟨false, []⟩] } }.place 0x2060000000000 = .error ∧
    region 0x2060000000000 = .peer 3 ∧ 3 ≠ (world false).pkg.fabricNo.toNat := by decide +kernel

/-- HostAndFabric: each access that a port can lose: a fetch of the Armature and of a cursor, a table read, the load of an instruction at issue, a
contribution, a dependence word, a completion word, a source line of a copy. -/
theorem meets_HostAndFabric_fetches :
    let page := pageVa 8
    let lost (a : LostAccess) (s : State) : Bool := gives (loseAccess a s) yes
    let arm := peerWorld.updGroup 0 fun g => { g with work := { g.work with pc := page } }
    let lane := { (laneWork fun w => { w with cur0 := some { fetchCursor with pc := page } }) with mem := peerWorld.mem }
    let cursor := peerWorld.updGroup 0 fun g => { g with work := { g.work with cur0 := some { fetchCursor with start := none } } }
    let copies := (peerWorld.placeBytes fetchPa (leBytesOf 4 (((encode (.cpy 21 13)).map (·.2)).getD 0))).updGroup 0 fun g =>
      { g with work := g.work.setS 13 page }
    toPeer page .fetch = true ∧ toPeer page .load = true ∧ lost (.fetchA 0) arm = true ∧ lost (.fetchA 0) peerWorld = false ∧
    lost (.fetchL 0 false 2) lane = true ∧
    lost (.table 0 false) { cursor with grids := [(0, { fetchGrid with packet := { fetchPacket with table := page } })] } = true ∧
    lost (.issue 0) copies = true ∧ issueLoad armGroup (.cpy 21 13) = some 0 := by decide +kernel

theorem meets_HostAndFabric_parts :
    let page := pageVa 8
    let lost (a : LostAccess) (s : State) : Bool := gives (loseAccess a s) yes
    let waits : QEntry := { entry0 with depMet := false, image := (leBytesOf 8 page.toNat ++ image1.drop 8).set 0x10 1 }
    let ended : State := { peerWorld with teams := [], grids := [(0, { fetchGrid with placed := 1, packet := { fetchPacket with done := page } })] }
    let k : Cmd := { cmd0 .cpy (pageVa 7) (pageVa 3) 100 with todo := [line3] }
    let engine (k : Cmd) : State := peerWorld.updCore 0 fun c => { c with engine := [k] }
    lost (.dependence 5) ((queueS peerWorld).updQueue 5 fun q => { q with entries := [waits] }) = true ∧ lost (.completion 0) ended = true ∧
    lost (.copyRead 0 1 (pageVa 7)) (engine k) = true ∧ lost (.contribution 0 1) (engine { k with kind := .fred, sent := true }) = true ∧
    lost (.contribution 0 1) (engine k) = false ∧
    (let flits (n : Nat) : State := portS n
     (flits 15).pkg.portUp 0 = true ∧ Tab.get [(7, 15)] 7 0 < 16 ∧ 16 ≤ Tab.get [(7, 16)] 7 0 ∧ (flits 16).pkg.worn 0 = true) ∧
    (world false).now < ((world false).core 320).cyc.toNat + ((world false).core 320).period := by decide +kernel

/-! ### The whole machine -/

def armWordAt (i : Instr) : State := State.reset.withFetchWord 32 (((encode i).map (·.2)).getD 0)

/-- StepRunsDecoded: an Armature word that is fetched, is well formed, and names no pending register; one that names one; a word that
decodes to nothing; a lane word; a group that may not issue; the ways a line of code is found. -/
theorem meets_StepRunsDecoded :
    let s := armWordAt (.sadd 5 6 7)
    s.agenda = [.issueA 0] ∧ (s.runnable 0).isSome = true ∧
    (s.group? 0).any (fun (g : Group) => !g.armBlocked && gives (fetchArm g.core g.ctx g.work.pc s) (fun w s1 =>
      (decodeArm w).toOption == some (.sadd 5 6 7) && (Instr.sadd 5 6 7).wf && decide (s1.groups = s.groups)) && g.pendingRegs.isEmpty) = true ∧
    { armGroup with stores := [{ atom0 .dev .dev .rlx .arm with acc := { load0.acc with level := 0 } }] }.pendingRegs = [9] ∧
    (decodeArm 0).toOption = none ∧ (State.reset.withFetchWord 96 0).agenda = [.issueL 0 false] ∧
    (laneAt (State.reset.withFetchWord 96 0)).any (fun x => gives (fetchLane x.g.core x.g.ctx x.cursor.pc (State.reset.withFetchWord 96 0))
      fun w _ => w == 0) = true ∧ State.reset.runnable 0 = none ∧
    gives (accessM 0 0 fetchVa .fetch none s) (fun x s1 => isLocal (lineOf x.pa) && (Tab.find? (s1.core 0).icache (lineOf x.pa)).isNone &&
      s1.place x.pa == .here && gives (readHome 0 (lineOf x.pa) s1) fun w s2 => gives (jump 0 w.1 s2) yes) = true := by decide +kernel

theorem meets_EncodeDecode : (Instr.sadd 5 6 7).wf = true ∧ encode (.sadd 5 6 7) = some (32, 0x04000000 + 5 * 2 ^ 20 + 6 * 2 ^ 14 + 7 * 2 ^ 8) := by
  decide +kernel

/-- MemoryCanonical: the machine after reset, and a step from it. -/
theorem meets_MemoryCanonical : Memory.wf State.reset.mem = true ∧ Memory.wf (world false).mem = true ∧
    (match step (armWordAt (.sadd 5 6 7)) with
      | .next t => (t.group? 0).any fun (g : Group) => g.work.pc == fetchVa + 4
      | _ => false) = true := by decide +kernel

/-- An empty save area gives a record wherever the part chooses to look (the choice is a free value, log 4). -/
theorem takeRecord_room {ctx n : Nat} {s : State} (hu : (s.ctx ctx).units = []) (hn : n ≤ (s.ctx ctx).saveUnits) :
    ∃ v t, takeRecord ctx n s = .ok v t := by
  have h : ∀ p, ∃ u, (s.ctx ctx).freeRun n p = some u := by
    intro p
    unfold Ctx.freeRun
    simp only [hu, runFrom, List.find?_nil]
    split
    · exact ⟨_, rfl⟩
    · exact ⟨0, by simp; omega⟩
  obtain ⟨u, h⟩ := h (Config.saveUnit s.draws)
  refine ⟨(s.ctx ctx).unitAddr u, ({ s with draws := s.draws + 1 } : State).updCtx ctx fun x => { x with units := (u, n) :: x.units }, ?_⟩
  simp only [takeRecord, run_bind_draw, run_bind_get]
  have : ({ s with draws := s.draws + 1 } : State).ctx ctx = s.ctx ctx := rfl
  rw [this, h]
  rfl

/-- A team of one group, of a launch without a dependence, can start where the save area is empty. -/
theorem startTeam_room {s : State} {d : Grid} (hu : (s.ctx 0).units = []) (hn : 1 ≤ (s.ctx 0).saveUnits) (hc : d.ctx = 0)
    (ht : d.depTime = none) (hp : (List.range d.packet.groups).zip d.packet.roles = [(0, 0)]) :
    ∃ t, startTeam 1 d 0 s = .ok () t := by
  simp only [startTeam, freshCode, ht, hp]
  simp only [run_bind_modCore, run_bind_fresh, run_bind_get, run_bind_set, placeGroups, hc]
  have room (s' : State) (f : DWord → M Unit) (hs : s'.ctx 0 = s.ctx 0) (hf : ∀ v t, ∃ u, f v t = .ok () u) :
      ∃ u, (takeRecord 0 1 >>= f) s' = .ok () u := by
    obtain ⟨v, t, h⟩ := takeRecord_room (n := 1) (hs ▸ hu) (hs ▸ hn)
    exact run_bind_ok h f ▸ hf v t
  exact room _ _ rfl fun v t => ⟨_, rfl⟩

/-- Launching's placement and TeamsAndSets' record can be had. -/
theorem meets_startTeam : ∃ t, startTeam 1 newGrid 0 placeS = .ok () t :=
  startTeam_room (by decide +kernel) (by decide +kernel) rfl rfl (by decide +kernel)

theorem meets_takeRecord : ∃ v t, takeRecord 0 (recordUnits fetchPacket) (holdS (fetchTeam 0 0)) = .ok v t :=
  takeRecord_room (by decide +kernel) (by decide +kernel)

end Sys2Proof.Tests
end

section
/-!
PROOFS. The Armature's register and immediate ALU (R165 to R170): every instruction writes S[sd], as its formula in the
spec says, and nothing else; and the words of the major that name no operation.
-/
namespace Sys2Proof.Machine
open Say

/-! ## S[sd] takes a value -/

/-- A result is written to S[sd] and to no other register (R142, R165). -/
theorem Work.sRegOnly_result (w : Work) (d : SReg) (v : DWord) : SRegOnly d v w (w.result d v) :=
  ⟨fun r => w.sreg_result d r v, Work.sreg_zero _, w.result_pc d v, w.result_rest d v⟩

/-- An instruction whose whole meaning is a result in S[sd] runs in every state and writes only that result. -/
theorem armValue_of_armWork {i : Instr} {d : SReg} {v : Work → DWord}
    (hi : ∀ s, exec i s = armWork s fun w => w.result d (v w)) : ArmValue i d v := by
  intro s g hg _
  obtain ⟨t, ht, hran⟩ := armWork_runs (fun w => w.result d (v w)) hg
  exact ⟨t, _, (hi s).trans ht, hran, g.work.sRegOnly_result d (v g.work)⟩

/-- A register ALU instruction over `f`, where `v` is the spec's formula for f(S[sa], S[sb]) (R167). -/
theorem armValue_of_armAlu {i : Instr} {d a b : SReg} {v : Work → DWord} (f : DWord → DWord → DWord)
    (hi : ∀ s, exec i s = armAlu d a b f s) (hv : ∀ w, f (w.sreg a) (w.sreg b) = v w) : ArmValue i d v :=
  armValue_of_armWork fun s => by simp only [hi, armAlu, hv]

/-- An immediate instruction over `f`, where `v` is the spec's formula for f(S[sa], SignExtend(imm14, 64)) (R169). -/
theorem armValue_of_armImm {i : Instr} {d a : SReg} {imm : BitVec 14} {v : Work → DWord} (f : DWord → DWord → DWord)
    (hi : ∀ s, exec i s = armImm d a imm f s) (hv : ∀ w, f (w.sreg a) (imm.signExtend 64) = v w) : ArmValue i d v :=
  armValue_of_armWork fun s => by simp only [hi, armImm, hv]

/-! ## The functions of R167, R168 and R170 -/

/-- A case for the most negative number with −1 changes nothing where the function answers the same there. -/
theorem ite_minInt_negOne {f : DWord → DWord → DWord} {c : DWord}
    (hc : f 0x8000000000000000 (BitVec.allOnes 64) = c) (x y : DWord) :
    (if x = 0x8000000000000000 ∧ y = BitVec.allOnes 64 then c else f x y) = f x y := by
  split
  case isTrue h =>
    obtain ⟨rfl, rfl⟩ := h
    exact hc.symm
  case isFalse => rfl

/-- The quotient 2^63 of the most negative number by −1 wraps to the most negative number (R168). -/
theorem sdivOf_eq (x y : DWord) : sdivOf x y =
    if y = 0 then BitVec.allOnes 64
    else if x = 0x8000000000000000 ∧ y = BitVec.allOnes 64 then 0x8000000000000000
    else BitVec.ofInt 64 (x.toInt.tdiv y.toInt) := by
  rw [ite_minInt_negOne (f := fun x y => BitVec.ofInt 64 (x.toInt.tdiv y.toInt)) (by decide)]
  rfl

/-- The remainder of the most negative number by −1 is 0 (R168). -/
theorem sremOf_eq (x y : DWord) : sremOf x y =
    if y = 0 then x
    else if x = 0x8000000000000000 ∧ y = BitVec.allOnes 64 then 0
    else BitVec.ofInt 64 (x.toInt.tmod y.toInt) := by
  rw [ite_minInt_negOne (f := fun x y => BitVec.ofInt 64 (x.toInt.tmod y.toInt)) (by decide)]
  rfl

/-- Low(b, 6), the amount of a shift by a register. -/
theorem toNat_mod_64_eq_extractLsb' (y : DWord) : y.toNat % 64 = (y.extractLsb' 0 6).toNat := by
  simp [BitVec.extractLsb'_toNat]

/-- A narrower condition gives the same choice, where both answers agree on what it leaves out. -/
theorem ite_eq_ite_of_imp {P Q : Prop} [Decidable P] [Decidable Q] {p q : DWord} (hQP : Q → P) (h : P → ¬ Q → p = q) :
    (if P then p else q) = if Q then p else q := by
  by_cases hQ : Q
  · rw [if_pos hQ, if_pos (hQP hQ)]
  · rw [if_neg hQ]
    split
    case isTrue hP => exact h hP hQ
    case isFalse => rfl

/-- SMIN and SMAX compare by ≤, the spec's formulas by <: they differ only where the signed values are equal. -/
theorem ite_toInt_le_eq_ite_slt {x y p q : DWord} (h : x = y → p = q) :
    (if x.toInt ≤ y.toInt then p else q) = if x.slt y then p else q :=
  ite_eq_ite_of_imp (fun hlt => Int.le_of_lt (BitVec.slt_iff_toInt_lt.mp hlt)) fun hle hnlt =>
    h (BitVec.eq_of_toInt_eq (Int.le_antisymm hle (Int.not_lt.mp (mt BitVec.slt_iff_toInt_lt.mpr hnlt))))

/-- The same of SMINN and SMAXN and the unsigned values. -/
theorem ite_toNat_le_eq_ite_ult {x y p q : DWord} (h : x = y → p = q) :
    (if x.toNat ≤ y.toNat then p else q) = if x.ult y then p else q :=
  ite_eq_ite_of_imp (fun hlt => Nat.le_of_lt (BitVec.ult_iff_toNat_lt.mp hlt)) fun hle hnlt =>
    h (BitVec.eq_of_toNat_eq (Nat.le_antisymm hle (Nat.not_lt.mp (mt BitVec.ult_iff_toNat_lt.mpr hnlt))))

theorem boolWord_toInt_lt (x y : DWord) : boolWord (decide (x.toInt < y.toInt)) = if x.slt y then 1 else 0 := rfl

theorem boolWord_toNat_lt (x y : DWord) : boolWord (decide (x.toNat < y.toNat)) = if x.ult y then 1 else 0 := rfl

/-- SignExtend(imm20, 52) << 12 has 12 zero bits under the immediate and its sign above (R170). -/
theorem upperImm_eq (imm : BitVec 20) : upperImm imm = (imm ++ (0 : BitVec 12)).signExtend 64 := by
  ext i hi
  simp only [upperImm, BitVec.getElem_shiftLeft, BitVec.getElem_signExtend, BitVec.getElem_append, BitVec.msb_append]
  by_cases hlow : i < 12
  · have hbits : ¬ 32 ≤ i := by omega
    simp [hlow, hbits]
  · have hsign : i - 12 < 20 ↔ i < 32 := by omega
    simp [hlow, hsign]

/-! ## Words of major 0x01 that name no operation -/

/-- The bytes of a value in memory order read back as the value (R3). -/
theorem leNat_leBytes (n v : Nat) : leNat (leBytes n v) = v % 256 ^ n := by
  induction n generalizing v with
  | zero => simp [leBytes, leNat, Nat.mod_one]
  | succ n ih =>
    rw [leBytes, leNat, ih, BitVec.toNat_ofNat, Nat.pow_succ' (m := 256)]
    exact Nat.mod_mul.symm

/-- An Armature word in a table decodes as the word it is. -/
theorem decodeTableWord_arm {w : Nat} (hw : w < 2 ^ 32) : decodeTableWord 32 w = (decodeArm w).toOption := by
  have hbytes : leNat (leBytes 4 w) = w := by
    rw [leNat_leBytes]
    exact Nat.mod_eq_of_lt hw
  simp [decodeTableWord, hbytes]

theorem decodeArm_of_major_alu {w : Nat} (h : fld w 31 26 = 0x01) :
    decodeArm w = decAlu (fld w 7 0) (sreg (fld w 25 20)) (sreg (fld w 19 14)) (sreg (fld w 13 8)) := by
  simp only [decodeArm, h]

/-- The operations of R167 end at fn 0x14. -/
theorem decAlu_reserved {fn : Nat} (h : 0x15 ≤ fn) (d a b : SReg) : decAlu fn d a b = .error (.reservedFn 0x01 fn) := by
  obtain ⟨n, rfl⟩ := Nat.exists_eq_add_of_le' h
  rfl

theorem decodeTableWord_alu_reserved {w : Nat} (hw : w < 2 ^ 32) (hmajor : w / 2 ^ 26 = 0x01) (hfn : 0x15 ≤ w % 256) :
    decodeTableWord 32 w = none := by
  have hm : fld w 31 26 = 0x01 := by rw [fld]; omega
  have hf : 0x15 ≤ fld w 7 0 := by simpa [fld] using hfn
  rw [decodeTableWord_arm hw, decodeArm_of_major_alu hm, decAlu_reserved hf]
  rfl

/-- Settles O1: each instruction is `armAlu` over a function that agrees with the spec's formula, and a word of the major with a
reserved fn decodes to an error. -/
theorem armRegisterAlu : Obligations.ArmRegisterAlu := by
  intro d a b
  exact ⟨
    armValue_of_armAlu (· + ·) (fun _ => rfl) fun _ => rfl,
    armValue_of_armAlu (· - ·) (fun _ => rfl) fun _ => rfl,
    armValue_of_armAlu (· * ·) (fun _ => rfl) fun _ => rfl,
    armValue_of_armAlu (fun x y => BitVec.ofInt 64 (x.toInt * y.toInt / 2 ^ 64)) (fun _ => rfl) fun _ => rfl,
    armValue_of_armAlu (fun x y => BitVec.ofNat 64 (x.toNat * y.toNat / 2 ^ 64)) (fun _ => rfl) fun _ => rfl,
    armValue_of_armAlu sdivOf (fun _ => rfl) fun _ => sdivOf_eq _ _,
    armValue_of_armAlu sdivnOf (fun _ => rfl) fun _ => rfl,
    armValue_of_armAlu sremOf (fun _ => rfl) fun _ => sremOf_eq _ _,
    armValue_of_armAlu sremnOf (fun _ => rfl) fun _ => rfl,
    armValue_of_armAlu (· &&& ·) (fun _ => rfl) fun _ => rfl,
    armValue_of_armAlu (· ||| ·) (fun _ => rfl) fun _ => rfl,
    armValue_of_armAlu (· ^^^ ·) (fun _ => rfl) fun _ => rfl,
    armValue_of_armAlu (fun x y => x <<< (y.toNat % 64)) (fun _ => rfl) fun _ =>
      congrArg (_ <<< ·) (toNat_mod_64_eq_extractLsb' _),
    armValue_of_armAlu (fun x y => x >>> (y.toNat % 64)) (fun _ => rfl) fun _ =>
      congrArg (_ >>> ·) (toNat_mod_64_eq_extractLsb' _),
    armValue_of_armAlu (fun x y => x.sshiftRight (y.toNat % 64)) (fun _ => rfl) fun _ =>
      congrArg (BitVec.sshiftRight _) (toNat_mod_64_eq_extractLsb' _),
    armValue_of_armAlu (fun x y => if x.toInt ≤ y.toInt then x else y) (fun _ => rfl) fun _ => ite_toInt_le_eq_ite_slt id,
    armValue_of_armAlu (fun x y => if x.toInt ≤ y.toInt then y else x) (fun _ => rfl) fun _ => ite_toInt_le_eq_ite_slt Eq.symm,
    armValue_of_armAlu (fun x y => if x.toNat ≤ y.toNat then x else y) (fun _ => rfl) fun _ => ite_toNat_le_eq_ite_ult id,
    armValue_of_armAlu (fun x y => if x.toNat ≤ y.toNat then y else x) (fun _ => rfl) fun _ => ite_toNat_le_eq_ite_ult Eq.symm,
    armValue_of_armAlu (fun x y => boolWord (decide (x.toInt < y.toInt))) (fun _ => rfl) fun _ => boolWord_toInt_lt _ _,
    armValue_of_armAlu (fun x y => boolWord (decide (x.toNat < y.toNat))) (fun _ => rfl) fun _ => boolWord_toNat_lt _ _,
    fun _ => decodeTableWord_alu_reserved⟩

/-- Settles O2: each immediate is one result in S[sd]; those with a 14-bit immediate are `armImm` over their register
counterpart's function (R169). -/
theorem armImmediates : Obligations.ArmImmediates := by
  intro d a imm n up
  exact ⟨
    armValue_of_armImm (· + ·) (fun _ => rfl) fun _ => rfl,
    armValue_of_armImm (· &&& ·) (fun _ => rfl) fun _ => rfl,
    armValue_of_armImm (· ||| ·) (fun _ => rfl) fun _ => rfl,
    armValue_of_armImm (· ^^^ ·) (fun _ => rfl) fun _ => rfl,
    -- SSHLI, SSHRI and SSRAI have their amount in the instruction
    armValue_of_armWork fun _ => rfl,
    armValue_of_armWork fun _ => rfl,
    armValue_of_armWork fun _ => rfl,
    armValue_of_armImm (fun x y => boolWord (decide (x.toInt < y.toInt))) (fun _ => rfl) fun _ => boolWord_toInt_lt _ _,
    armValue_of_armWork fun _ => by rw [← upperImm_eq]; rfl,
    armValue_of_armWork fun _ => by rw [← upperImm_eq]; rfl⟩

end Sys2Proof.Machine
end

section
/-!
PROOFS. The register-like accesses of the copy engine, the operand buffer and the tensor monitors (R250 to R252, R265, R267, R281).
Each takes one step from the state with its issue counted, so its frame is the frame of that issue once the teams, or the monitors
of its core, are put back.
-/
namespace Sys2Proof.Tab

/-- Of two values put at one key the later stands. -/
theorem put_put {α : Type} (t : Tab α) (n : Nat) (a b : α) : put (put t n a) n b = put t n b := by
  induction t with
  | nil => simp [put]
  | cons x t ih => grind [put]

/-- What holds of every value listed and of the default holds of the value of any key. -/
theorem get_of_forall {α : Type} {P : α → Prop} {t : Tab α} {d : α} (h : ∀ x ∈ t, P x.2) (hd : P d) (n : Nat) :
    P (get t n d) := by
  induction t with
  | nil => exact hd
  | cons x t ih =>
    obtain ⟨hx, ht⟩ := List.forall_mem_cons.mp h
    have := ih ht
    grind [get, find?]

/-- A property of all values is not changed by a put that keeps it at its key. -/
theorem forall_put {α : Type} {P : α → Prop} {t : Tab α} {n : Nat} {a d : α} (hd : P d) (ha : P a ↔ P (get t n d)) :
    (∀ x ∈ put t n a, P x.2) ↔ ∀ x ∈ t, P x.2 := by
  induction t with
  | nil => simp [put, ha, get, hd]
  | cons x t ih =>
    obtain ⟨k, b⟩ := x
    have hget : (∀ x ∈ (k, b) :: t, P x.2) → P a := fun h => ha.mpr (get_of_forall h hd n)
    rw [put]
    split
    case isTrue => exact List.forall_mem_cons.trans (and_iff_right_of_imp hget)
    case isFalse =>
      split
      case isTrue hk =>
        have hb : P a ↔ P b := by simpa [get, find?, hk] using ha
        simp only [List.forall_mem_cons, hb]
      case isFalse hk =>
        have ha' : P a ↔ P (get t n d) := by simpa [get, find?, hk] using ha
        simp only [List.forall_mem_cons, ih ha']

end Sys2Proof.Tab

namespace Sys2Proof.Machine
open Say

/-! ## Bits and vectors -/

/-- Bits side by side, as a number. -/
theorem toNat_append_eq_add {m n : Nat} (x : BitVec m) (y : BitVec n) : (x ++ y).toNat = x.toNat * 2 ^ n + y.toNat := by
  rw [BitVec.toNat_append, ← Nat.shiftLeft_add_eq_or_of_lt y.isLt, Nat.shiftLeft_eq]

/-- ZeroExtend puts zero bits above the value (R267). -/
theorem setWidth_add_eq_append {n : Nat} (k : Nat) (x : BitVec n) : x.setWidth (k + n) = 0#k ++ x := by
  rw [BitVec.setWidth_eq_append (Nat.le_add_left n k)]
  simp

/-- The action code is in the word that TMSET writes. -/
theorem extractLsb'_setWidth_word (v : DWord) : (v.setWidth 32 : Word).extractLsb' 0 2 = v.extractLsb' 0 2 := by
  ext i hi
  have hword : i < 32 := by omega
  simp [hword]

theorem setIfInBounds_eq_set {α : Type} {n i : Nat} (v : Vector α n) (hi : i < n) (x : α) : v.setIfInBounds i x = v.set i x hi := by
  ext j hj
  simp [Vector.getElem_setIfInBounds, Vector.getElem_set]

/-! ## Changes of the state, and the state with the issue counted -/

theorem State.updCore_congr {s : State} {c : Nat} {f h : Core → Core} (he : f (s.core c) = h (s.core c)) :
    s.updCore c f = s.updCore c h := by
  simp only [State.updCore, he]

/-- Two changes of one core are one change. -/
theorem State.updCore_updCore (s : State) (c : Nat) (f h : Core → Core) :
    (s.updCore c f).updCore c h = s.updCore c fun k => h (f k) := by
  simp only [State.updCore, State.core, Tab.get_put_self, Tab.put_put]

/-- A change of a core that keeps a property, which a core that is not listed has, keeps it of the cores listed. -/
theorem State.forall_cores_updCore {P : Core → Prop} (s : State) (c : Nat) {f : Core → Core} (hinit : P Core.init)
    (hf : ∀ k, P (f k) ↔ P k) : (∀ x ∈ (s.updCore c f).cores, P x.2) ↔ ∀ x ∈ s.cores, P x.2 :=
  Tab.forall_put hinit (hf _)

/-- Changes a team. -/
def State.updTeam (s : State) (i : Nat) (f : Team → Team) : State := { s with teams := Tab.modify s.teams i f }

theorem run_bind_modTeam {β : Type} (i : Nat) (h : Team → Team) (f : Unit → M β) (s : State) :
    (modTeam i h >>= f) s = f () (s.updTeam i h) := rfl

theorem State.team_updTeam_self {s : State} {i : Nat} {T : Team} (hT : Tab.find? s.teams i = some T) (f : Team → Team) :
    Tab.find? (s.updTeam i f).teams i = some (f T) := by
  simp [State.updTeam, hT]

theorem State.team_updTeam_ne (s : State) {i j : Nat} (hj : j ≠ i) (f : Team → Team) :
    Tab.find? (s.updTeam i f).teams j = Tab.find? s.teams j :=
  Tab.find?_modify_ne f hj

section
variable {s : State} {gid : Nat} {g : Group} (h : s.group? gid = some g)
include h

theorem core_afterArm : (afterArm s gid).core g.core = (s.core g.core).count g.ctx 1 1 := by
  simp [afterArm_eq h, State.core_event]

theorem teams_afterArm : (afterArm s gid).teams = s.teams := by
  rw [afterArm_eq h]; rfl

theorem grids_afterArm : (afterArm s gid).grids = s.grids := by
  rw [afterArm_eq h]; rfl

/-- The frame of a change of the running work after the issue is counted. -/
theorem ran_updWork_afterArm (f : Work → Work) :
    Ran 1 s ((afterArm s gid).updWork gid g.level f) gid g (f g.work) := by
  rw [afterArm_eq h]
  exact ran_updGroup h 1 _ _ (Group.updWork_level { g with sched := { g.sched with issuedAt := s.now } } f)

theorem updWork_afterArm_teams (f : Work → Work) :
    { (afterArm s gid).updWork gid g.level f with teams := s.teams } = (afterArm s gid).updWork gid g.level f := by
  rw [afterArm_eq h]
  rfl

/-- A change of a team besides leaves that frame once the teams are put back. -/
theorem ran_updTeam_updWork_afterArm (i : Nat) (k : Team → Team) (f : Work → Work) :
    Ran 1 s { ((afterArm s gid).updWork gid g.level f).updTeam i k with teams := s.teams } gid g (f g.work) := by
  have hteams : { ((afterArm s gid).updWork gid g.level f).updTeam i k with teams := s.teams } =
      (afterArm s gid).updWork gid g.level f := updWork_afterArm_teams h f
  rw [hteams]
  exact ran_updWork_afterArm h f

end

/-! ## CPYQ (R281) -/

/-- The status word of R281, field by field. -/
theorem cmdStatus_eq_append (id : BitVec 16) (oor : Nat) {st : Nat} (hst : st < 4) (flt err : Bool) :
    cmdStatus id oor st flt err = id ++ BitVec.ofNat 16 (min oor 65535) ++ BitVec.ofNat 2 st ++ BitVec.ofBool flt ++
      BitVec.ofBool err ++ 0#28 := by
  have hbit (b : Bool) : (BitVec.ofBool b).toNat = if b then 1 else 0 := by cases b <;> rfl
  have hid := id.isLt
  apply BitVec.eq_of_toNat_eq
  simp only [cmdStatus, toNat_append_eq_add, BitVec.toNat_ofNat, hbit]
  split <;> split <;> omega

theorem Core.recent_eq_countP (k : Core) (ctx n : Nat) : k.recent ctx n =
    decide (k.engine.countP (fun y => y.ctx == ctx && decide (n < y.iseq)) +
      k.status.countP (fun y => y.ctx == ctx && decide (n < y.iseq)) < 64) := by
  simp only [Core.recent, List.countP_eq_length_filter]

section
variable {k : Core} {ctx : Nat} {id : BitVec 16}

theorem Core.copyStatus_of_engine {x : Cmd}
    (hx : k.engine.find? (fun y => y.id == id && y.ctx == ctx && k.recent ctx y.iseq) = some x) :
    k.copyStatus ctx id = cmdStatus id x.oor (if x.running then 2 else 1) x.stalled x.err := by
  simp only [Core.copyStatus, hx]

theorem Core.copyStatus_of_ended {x : CmdStatus}
    (hnone : k.engine.find? (fun y => y.id == id && y.ctx == ctx && k.recent ctx y.iseq) = none)
    (hx : k.status.find? (fun y => y.id == id && y.ctx == ctx) = some x) :
    k.copyStatus ctx id = cmdStatus id x.oor 3 x.flt x.err := by
  simp only [Core.copyStatus, hnone, hx]

theorem Core.copyStatus_of_unknown
    (hnone : k.engine.find? (fun y => y.id == id && y.ctx == ctx && k.recent ctx y.iseq) = none)
    (hended : k.status.find? (fun y => y.id == id && y.ctx == ctx) = none) :
    k.copyStatus ctx id = cmdStatus id 0 0 false false := by
  simp only [Core.copyStatus, hnone, hended]

end

/-- CPYQ writes the status at the group's own core and nothing else. -/
theorem execCpyq_runs {s : State} {g : Group} (h : s.group? s.focus.group = some g) (d a : SReg) :
    ∃ t w, execCpyq d a s = .next t ∧ Ran 1 s t s.focus.group g w ∧
      SRegOnly d ((s.core g.core).copyStatus g.ctx ((g.work.sreg a).extractLsb' 0 16)) g.work w := by
  obtain ⟨t, ht, hran⟩ : ∃ t, execCpyq d a s = .next t ∧ Ran 1 s t s.focus.group g
      (g.work.result d ((s.core g.core).copyStatus g.ctx ((g.work.sreg a).extractLsb' 0 16))) :=
    armM_modWork (·.result d _) h (by rw [run_bind_get, core_afterArm h]; rfl)
  exact ⟨t, _, ht, hran, g.work.sRegOnly_result d _⟩

/-! ## OBRES and OBREL (R250 to R252) -/

/-- The first case of R251 that applies to slot N, for S[sa] and the operand buffer's bytes of the team. -/
def Team.reserveStatus (T : Team) (obuf : Nat) (n : Slot) (v : DWord) : DWord :=
  if v ≠ 16384 then 3 else if (Tab.find? T.slots n.toNat).isSome then 2 else if obuf / 16384 ≤ T.slots.length then 1 else 0

section
variable {s : State} {g : Group} {T : Team} (h : s.group? s.focus.group = some g) (hT : Tab.find? s.teams g.team = some T)
include h hT

/-- OBRES writes the status, and at status 0 reserves the slot. -/
theorem execObres_eq {G : Grid} (hG : Tab.find? s.grids T.grid = some G) (d a : SReg) (n : Slot) (fmt : SlotFmt) {st : DWord}
    (hst : T.reserveStatus G.packet.obuf n (g.work.sreg a) = st) :
    execObres d a n fmt s = .next (if st = 0 then
      ((afterArm s s.focus.group).updWork s.focus.group g.level (·.result d st)).updTeam g.team fun t =>
        { t with slots := Tab.put t.slots n.toNat (.new fmt) }
      else (afterArm s s.focus.group).updWork s.focus.group g.level (·.result d st)) := by
  subst hst
  apply armM_ok h
  rw [run_bind_theTeam (by rw [teams_afterArm h, hT]), run_bind_theGrid (by rw [grids_afterArm h, hG])]
  change (if T.reserveStatus G.packet.obuf n (g.work.sreg a) = 0 then _ else _ : M Unit) _ = _
  rw [run_ite]
  split <;> rfl

end

theorem Work.tokensRetired_iff (w : Work) :
    w.tokensRetired = true ↔ (∀ t, SprueItem.token t ∉ w.sprue) ∧ w.cur0 = none ∧ w.cur1 = none := by
  simp only [Work.tokensRetired, Bool.and_eq_true, Option.isNone_iff_eq_none, List.all_eq_true, and_assoc]
  refine and_congr_left fun _ => ⟨fun h t ht => by simpa using h _ ht, fun h x hx => ?_⟩
  cases x with
  | token t => exact absurd hx (h t)
  | forkMark => rfl
  | joinMark => rfl

/-- No matrix instruction and no CPYOB of a team that is still at a core names a slot (R252). -/
def Core.leavesSlot (team : Nat) (n : Slot) (k : Core) : Prop :=
  (∀ x ∈ k.matrix, x.team = team → n ∉ x.op.names) ∧
    ∀ x ∈ k.engine, ¬ (x.kind = .cpyob ∧ x.team = team ∧ x.block.dst.toNat % 64 = n.toNat)

theorem State.matrixNames_eq_false_iff (s : State) (team : Nat) (n : Slot) :
    s.matrixNames team n.toNat = false ↔ ∀ c ∈ s.cores, ∀ x ∈ c.2.matrix, x.team = team → n ∉ x.op.names := by
  have hslot (x : Slot) : x.toNat = n.toNat ↔ x = n := BitVec.toNat_inj
  simp [State.matrixNames, Tab.vals, hslot]

theorem State.fills_isEmpty_iff (s : State) (team : Nat) (n : Slot) : (s.fills team n.toNat).isEmpty = true ↔
    ∀ c ∈ s.cores, ∀ x ∈ c.2.engine, ¬ (x.kind = .cpyob ∧ x.team = team ∧ x.block.dst.toNat % 64 = n.toNat) := by
  simp [State.fills]

theorem State.slotUnused_iff (s : State) (team : Nat) (n : Slot) :
    (!s.matrixNames team n.toNat && (s.fills team n.toNat).isEmpty) = true ↔ ∀ c ∈ s.cores, c.2.leavesSlot team n := by
  rw [Bool.and_eq_true, Bool.not_eq_true', s.matrixNames_eq_false_iff, s.fills_isEmpty_iff]
  exact ⟨fun ⟨hm, he⟩ c hc => ⟨hm c hc, he c hc⟩, fun h => ⟨fun c hc => (h c hc).1, fun c hc => (h c hc).2⟩⟩

theorem forall_leavesSlot_afterArm {s : State} {gid : Nat} {g : Group} (h : s.group? gid = some g) (team : Nat) (n : Slot) :
    (∀ c ∈ (afterArm s gid).cores, c.2.leavesSlot team n) ↔ ∀ c ∈ s.cores, c.2.leavesSlot team n := by
  rw [afterArm_eq h]
  exact State.forall_cores_updCore (P := Core.leavesSlot team n) _ _ (by simp [Core.leavesSlot, Core.init]) fun _ => Iff.rfl

section
variable {s : State} {g : Group} (h : s.group? s.focus.group = some g) (n : Slot)
include h

/-- OBREL waits for the group's tokens, and for what at any core names the slot. -/
theorem execObrel_waits (hw : ¬ (((∀ t, SprueItem.token t ∉ g.work.sprue) ∧ g.work.cur0 = none ∧ g.work.cur1 = none) ∧
    ∀ c ∈ s.cores, c.2.leavesSlot g.team n)) : execObrel n s = .next s := by
  rw [← Work.tokensRetired_iff, ← forall_leavesSlot_afterArm h, ← State.slotUnused_iff] at hw
  apply armM_wait h (s' := afterArm s s.focus.group)
  rw [run_bind_need]
  split
  case isTrue ht =>
    have hu := Bool.eq_false_iff.mpr fun hu => hw ⟨ht, hu⟩
    rw [run_bind_get, run_bind_need, hu]
    rfl
  case isFalse => rfl

/-- OBREL frees the slot where nothing holds it. -/
theorem execObrel_frees (ht : (∀ t, SprueItem.token t ∉ g.work.sprue) ∧ g.work.cur0 = none ∧ g.work.cur1 = none)
    (hu : ∀ c ∈ s.cores, c.2.leavesSlot g.team n) :
    execObrel n s = .next (((afterArm s s.focus.group).updWork s.focus.group g.level fun w =>
      { w with pc := w.pc + 4 }).updTeam g.team fun t => { t with slots := Tab.erase t.slots n.toNat }) := by
  rw [← Work.tokensRetired_iff] at ht
  rw [← forall_leavesSlot_afterArm h, ← State.slotUnused_iff] at hu
  apply armM_ok h
  rw [run_bind_need, if_pos ht, run_bind_get, run_bind_need, if_pos hu, run_bind_modTeam]
  rfl

end

/-! ## Monitors (R265, R267) -/

theorem Core.monitor_eq_getElem (k : Core) (m : BitVec 4) : k.monitor m.toNat = k.mons[m.toNat]'m.isLt := by
  rw [Core.monitor, getElem?_pos k.mons m.toNat m.isLt, Option.getD_some]

theorem Core.setMonitor_eq_set (k : Core) (m : BitVec 4) (x : Monitor) :
    k.setMonitor m.toNat x = { k with mons := k.mons.set m.toNat x m.isLt } := by
  rw [Core.setMonitor, setIfInBounds_eq_set _ m.isLt]

theorem Core.monitor_setMonitor_self (k : Core) (m : BitVec 4) (x : Monitor) : (k.setMonitor m.toNat x).monitor m.toNat = x := by
  rw [Core.monitor_eq_getElem, Core.setMonitor_eq_set]
  exact Vector.getElem_set_self _

theorem Monitor.setItem_bin (x : Monitor) (b : BitVec 5) (v : Word) :
    x.setItem (.bin b) v = { x with bins := x.bins.set b.toNat v b.isLt } := by
  rw [Monitor.setItem, setIfInBounds_eq_set _ b.isLt]

theorem Monitor.item_bin (x : Monitor) (b : BitVec 5) : x.item (.bin b) = x.bins[b.toNat]'b.isLt := by
  rw [Monitor.item, getElem?_pos x.bins b.toNat b.isLt, Option.getD_some]

section
variable {s : State} {g : Group} (h : s.group? s.focus.group = some g) (m : BitVec 4)
include h

/-- Other monitors at the group's core, and another running work, once the issue is counted: nothing else has changed. -/
theorem mons_updWork_afterArm {F : Core → Core} {ms : Vector Monitor 16} (f : Work → Work)
    (hF : F ((s.core g.core).count g.ctx 1 1) = { (s.core g.core).count g.ctx 1 1 with mons := ms }) :
    let t := ((afterArm s s.focus.group).updCore g.core F).updWork s.focus.group g.level f
    (t.core g.core).mons = ms ∧
      Ran 1 s (t.updCore g.core ({ · with mons := (s.core g.core).mons })) s.focus.group g (f g.work) := by
  intro t
  constructor
  · have ht : t.core g.core = F ((afterArm s s.focus.group).core g.core) := State.core_updCore_self ..
    rw [ht, core_afterArm h, hF]
  · have hback : ((afterArm s s.focus.group).updCore g.core F).updCore g.core ({ · with mons := (s.core g.core).mons }) =
        afterArm s s.focus.group := by
      rw [afterArm_eq h, State.event, State.updCore_updCore, State.updCore_updCore]
      exact State.updCore_congr (by rw [State.core_updGroup, hF]; rfl)
    have ht : t.updCore g.core ({ · with mons := (s.core g.core).mons }) =
        (afterArm s s.focus.group).updWork s.focus.group g.level f := congrArg (·.updWork s.focus.group g.level f) hback
    rw [ht]
    exact ran_updWork_afterArm h f

/-- TMSET writes one item of the monitor, which another context's use has reset first. -/
theorem execTmset_runs (m : BitVec 4) {item : TmItem} {a : SReg} {x : Monitor}
    (hok : item ≠ .cfg ∨ (g.work.sreg a).extractLsb' 0 2 ≠ 3)
    (hx : (((s.core g.core).mons[m.toNat]'m.isLt).forCtx g.ctx).setItem item ((g.work.sreg a).extractLsb' 0 32) = x) :
    ∃ t, execTmset m item a s = .next t ∧ (t.core g.core).mons = (s.core g.core).mons.set m.toNat x m.isLt ∧
      Ran 1 s (t.updCore g.core ({ · with mons := (s.core g.core).mons })) s.focus.group g
        { g.work with pc := g.work.pc + 4 } := by
  subst hx
  refine ⟨_, armM_ok h ?_, mons_updWork_afterArm h (fun w => { w with pc := w.pc + 4 })
    (F := fun c => c.setMonitor m.toNat (((c.monitor m.toNat).forCtx g.ctx).setItem item ((g.work.sreg a).setWidth 32))) ?_⟩
  · have hgo : ¬ (item = .cfg ∧ ((g.work.sreg a).setWidth 32).extractLsb' 0 2 = 3) := by
      rw [extractLsb'_setWidth_word]
      exact fun ⟨hcfg, hcode⟩ => hok.elim (absurd hcfg) (absurd hcode)
    rw [if_neg hgo]
    rfl
  · rw [Core.monitor_eq_getElem, Core.setMonitor_eq_set]
    rfl

/-- TMSET of the action code 3 is ILLEGAL (R265). -/
theorem execTmset_faults (m : BitVec 4) {a : SReg} (hbad : (g.work.sreg a).extractLsb' 0 2 = 3) :
    execTmset m .cfg a s = .next (takeMove (issuing s) (raise s.focus.group g.level
      [⟨0, 0, g.work.pc, BitVec.ofNat 32 s.focus.word, 0, 0, false, 5, 0, false, 0, false⟩])) := by
  have hstop : TmItem.cfg = .cfg ∧ ((g.work.sreg a).setWidth 32).extractLsb' 0 2 = 3 := by
    rw [extractLsb'_setWidth_word]
    exact ⟨rfl, hbad⟩
  apply armM_fault h (l := [(0, ⟨Cls.illegal, 0, 0, 0⟩)])
  rw [if_pos hstop, run_bind_illegalM]
  rfl

/-- TMGET reads one item of the monitor, which another context's use has reset first. -/
theorem execTmget_runs (d : SReg) (m : BitVec 4) {item : TmItem} {x : Monitor} {v : DWord}
    (hx : ((s.core g.core).mons[m.toNat]'m.isLt).forCtx g.ctx = x) (hv : (x.item item).setWidth 64 = v) :
    ∃ t w, execTmget d m item s = .next t ∧ SRegOnly d v g.work w ∧
      (t.core g.core).mons = (s.core g.core).mons.set m.toNat x m.isLt ∧
      Ran 1 s (t.updCore g.core ({ · with mons := (s.core g.core).mons })) s.focus.group g w := by
  subst hx hv
  refine ⟨_, _, armM_ok h ?_, g.work.sRegOnly_result d _, mons_updWork_afterArm h (·.result d _)
    (F := fun c => c.setMonitor m.toNat ((c.monitor m.toNat).forCtx g.ctx)) ?_⟩
  · rw [run_bind_modCore, run_bind_get, State.core_updCore_self, core_afterArm h]
    rw [Core.monitor_setMonitor_self, Core.monitor_eq_getElem]
    rfl
  · rw [Core.monitor_eq_getElem, Core.setMonitor_eq_set]
    rfl

end

/-- TM_CLEAR writes the monitor's CLEAR item at one core, for a context. -/
theorem execTmClear_eq {core : Nat} (hc : core < 320) (ctx : Nat) (m : BitVec 4) (s : State) :
    execTmClear core ctx m s = .next (s.updCore core fun k =>
      { k with mons := k.mons.set m.toNat ((k.mons[m.toNat]'m.isLt).forCtx ctx).clear m.isLt }) := by
  simp only [execTmClear, Config.cores, if_pos hc, Core.monitor_eq_getElem, Core.setMonitor_eq_set]

/-- Settles O25: each access is one move over the counted issue; CPYQ's cases are `copyStatus`'s, OBRES's are `reserveStatus`'s, and
the items of a monitor are those of `setItem` and `item`. -/
theorem unitRegisters : Obligations.UnitRegisters := by
  intro d a n fmt m item s g h gid k id status reads recent mine ended start set get mon monIs
  have hmine : (fun x : Cmd => x.id == id && x.ctx == g.ctx && k.recent g.ctx x.iseq) = mine := by
    funext x
    rw [Core.recent_eq_countP]
  have hset (x : Monitor) (v : Word) : x.setItem item v = set x v := by
    cases item with
    | bin b => exact x.setItem_bin b v
    | _ => rfl
  have hget (x : Monitor) : (x.item item).setWidth 64 = get x := by
    cases item with
    | cfg => exact setWidth_add_eq_append 62 x.act
    | clear => rfl
    | bin b => rw [Monitor.item_bin]; exact setWidth_add_eq_append 32 _
    | lo | hi | nancnt | flagcnt => exact setWidth_add_eq_append 32 _
  have hcpyq (v : DWord) (hv : k.copyStatus g.ctx id = v) : reads (.cpyq d a) v := hv ▸ execCpyq_runs h d a
  refine ⟨fun x hx => hcpyq _ ?_, fun hnone x hx => hcpyq _ ?_, fun hnone hended => hcpyq _ ?_, fun T G hT hG => ?_,
    fun T hT => ?_, ?_, fun hok => execTmset_runs h m hok (hset _ _), execTmget_runs h d m rfl (hget _), ?_⟩
  · rw [Core.copyStatus_of_engine (hmine ▸ hx), cmdStatus_eq_append _ _ (by split <;> decide)]
    cases x.running <;> rfl
  · rw [Core.copyStatus_of_ended (hmine ▸ hnone) hx, cmdStatus_eq_append _ _ (by decide)]
    rfl
  · rw [Core.copyStatus_of_unknown (hmine ▸ hnone) hended, cmdStatus_eq_append _ _ (by decide)]
    rfl
  · intro st
    have hrun := execObres_eq h hT hG d a n fmt (st := st) rfl
    have hw := g.work.sRegOnly_result d st
    have hteams : ((afterArm s gid).updWork gid g.level (·.result d st)).teams = s.teams := teams_afterArm h
    by_cases hst : st = 0
    · rw [if_pos hst] at hrun
      exact ⟨_, _, hrun, hw, ran_updTeam_updWork_afterArm h _ _ _, absurd hst, fun _ =>
        ⟨_, State.team_updTeam_self (hteams ▸ hT) _, Tab.find?_put_self _ _ _, fun j hj => Tab.find?_put_ne _ hj, rfl,
          fun j hj => hteams ▸ State.team_updTeam_ne _ hj _⟩⟩
    · rw [if_neg hst] at hrun
      refine ⟨_, _, hrun, hw, ?_, fun _ => hteams, (absurd · hst)⟩
      rw [updWork_afterArm_teams h]
      exact ran_updWork_afterArm h _
  · intro retired unused
    have hteams : ((afterArm s gid).updWork gid g.level fun w => { w with pc := w.pc + 4 }).teams = s.teams := teams_afterArm h
    exact ⟨execObrel_waits h n, fun ht hu => ⟨_, _, execObrel_frees h n ht hu, ran_updTeam_updWork_afterArm h _ _ _,
      State.team_updTeam_self (hteams ▸ hT) _, Tab.find?_erase_self _ _, fun j hj => Tab.find?_erase_ne hj, rfl⟩⟩
  · rintro rfl hbad
    exact execTmset_faults h m hbad
  · intro core hc ctx
    refine ⟨_, execTmClear_eq hc ctx m s, ?_, ?_, fun j hj => ?_, rfl⟩
    · rw [State.core_updCore_self]; rfl
    · rw [State.core_updCore_self]
    · rw [State.core_updCore, if_neg hj]

end Sys2Proof.Machine
end
